-- ==== Sys2Proof/Word.lean ====
section
/-! DEFINITION. The machine's word types and their plainest arithmetic. -/

namespace Sys2Proof

/-- A scalar register, an address or a control register's value (R65, R15). -/
abbrev Word := BitVec 64

/-- One byte of memory; the byte at the lowest address holds the lowest bits (R4). -/
abbrev Byte := BitVec 8

end Sys2Proof
end

