-- ==== Sys2Proof/Syntax.lean ====
section
/-! DEFINITION. The instructions: one constructor for each row of the opcode table. A word's operands are its
encoded fields, named as the table names them; an event's operands say which agent, object or value it concerns. -/

namespace Sys2Proof

/-- The 251 instruction words (R55, R56) and the 55 events of the device's own agents. -/
inductive Instr where
  /-- ADD, R66. -/
  | add (d : BitVec 5) (a : BitVec 5) (b : BitVec 5)
  /-- SUB, R66. -/
  | sub (d : BitVec 5) (a : BitVec 5) (b : BitVec 5)
  /-- AND, R66. -/
  | and (d : BitVec 5) (a : BitVec 5) (b : BitVec 5)
  /-- OR, R66. -/
  | or (d : BitVec 5) (a : BitVec 5) (b : BitVec 5)
  /-- XOR, R66. -/
  | xor (d : BitVec 5) (a : BitVec 5) (b : BitVec 5)
  /-- SLL, R66. -/
  | sll (d : BitVec 5) (a : BitVec 5) (b : BitVec 5)
  /-- SRL, R66. -/
  | srl (d : BitVec 5) (a : BitVec 5) (b : BitVec 5)
  /-- SRA, R66. -/
  | sra (d : BitVec 5) (a : BitVec 5) (b : BitVec 5)
  /-- SLT, R66. -/
  | slt (d : BitVec 5) (a : BitVec 5) (b : BitVec 5)
  /-- SLTU, R66. -/
  | sltu (d : BitVec 5) (a : BitVec 5) (b : BitVec 5)
  /-- MIN, R66. -/
  | min (d : BitVec 5) (a : BitVec 5) (b : BitVec 5)
  /-- MAX, R66. -/
  | max (d : BitVec 5) (a : BitVec 5) (b : BitVec 5)
  /-- MINU, R66. -/
  | minu (d : BitVec 5) (a : BitVec 5) (b : BitVec 5)
  /-- MAXU, R66. -/
  | maxu (d : BitVec 5) (a : BitVec 5) (b : BitVec 5)
  /-- MUL, R66. -/
  | mul (d : BitVec 5) (a : BitVec 5) (b : BitVec 5)
  /-- MULH, R66. -/
  | mulh (d : BitVec 5) (a : BitVec 5) (b : BitVec 5)
  /-- MULHU, R66. -/
  | mulhu (d : BitVec 5) (a : BitVec 5) (b : BitVec 5)
  /-- DIV, R67. -/
  | div (d : BitVec 5) (a : BitVec 5) (b : BitVec 5)
  /-- DIVU, R67. -/
  | divu (d : BitVec 5) (a : BitVec 5) (b : BitVec 5)
  /-- REM, R67. -/
  | rem (d : BitVec 5) (a : BitVec 5) (b : BitVec 5)
  /-- REMU, R67. -/
  | remu (d : BitVec 5) (a : BitVec 5) (b : BitVec 5)
  /-- POPC, R66. -/
  | popc (d : BitVec 5) (a : BitVec 5)
  /-- CLZ, R66. -/
  | clz (d : BitVec 5) (a : BitVec 5)
  /-- CTZ, R66. -/
  | ctz (d : BitVec 5) (a : BitVec 5)
  /-- ADDI, R68. -/
  | addi (d : BitVec 5) (a : BitVec 5) (i : BitVec 16)
  /-- ANDI, R68. -/
  | andi (d : BitVec 5) (a : BitVec 5) (i : BitVec 16)
  /-- ORI, R68. -/
  | ori (d : BitVec 5) (a : BitVec 5) (i : BitVec 16)
  /-- XORI, R68. -/
  | xori (d : BitVec 5) (a : BitVec 5) (i : BitVec 16)
  /-- SLTI, R68. -/
  | slti (d : BitVec 5) (a : BitVec 5) (i : BitVec 16)
  /-- SLLI, R69. -/
  | slli (d : BitVec 5) (a : BitVec 5) (n : BitVec 6)
  /-- SRLI, R69. -/
  | srli (d : BitVec 5) (a : BitVec 5) (n : BitVec 6)
  /-- SRAI, R69. -/
  | srai (d : BitVec 5) (a : BitVec 5) (n : BitVec 6)
  /-- LUI, R70. -/
  | lui (d : BitVec 5) (i : BitVec 21)
  /-- LQA, R71. -/
  | lqa (d : BitVec 5) (i : BitVec 21)
  /-- LDB, R72. -/
  | ldb (d : BitVec 5) (a : BitVec 5) (c : BitVec 4) (o : BitVec 12)
  /-- LDBU, R72. -/
  | ldbu (d : BitVec 5) (a : BitVec 5) (c : BitVec 4) (o : BitVec 12)
  /-- LDH, R72. -/
  | ldh (d : BitVec 5) (a : BitVec 5) (c : BitVec 4) (o : BitVec 12)
  /-- LDHU, R72. -/
  | ldhu (d : BitVec 5) (a : BitVec 5) (c : BitVec 4) (o : BitVec 12)
  /-- LDW, R72. -/
  | ldw (d : BitVec 5) (a : BitVec 5) (c : BitVec 4) (o : BitVec 12)
  /-- LDWU, R72. -/
  | ldwu (d : BitVec 5) (a : BitVec 5) (c : BitVec 4) (o : BitVec 12)
  /-- LDD, R72. -/
  | ldd (d : BitVec 5) (a : BitVec 5) (c : BitVec 4) (o : BitVec 12)
  /-- STB, R72. -/
  | stb (d : BitVec 5) (a : BitVec 5) (c : BitVec 4) (o : BitVec 12)
  /-- STH, R72. -/
  | sth (d : BitVec 5) (a : BitVec 5) (c : BitVec 4) (o : BitVec 12)
  /-- STW, R72. -/
  | stw (d : BitVec 5) (a : BitVec 5) (c : BitVec 4) (o : BitVec 12)
  /-- STD, R72. -/
  | std (d : BitVec 5) (a : BitVec 5) (c : BitVec 4) (o : BitVec 12)
  /-- BEQ, R75. -/
  | beq (a : BitVec 5) (b : BitVec 5) (o : BitVec 16)
  /-- BNE, R75. -/
  | bne (a : BitVec 5) (b : BitVec 5) (o : BitVec 16)
  /-- BLT, R75. -/
  | blt (a : BitVec 5) (b : BitVec 5) (o : BitVec 16)
  /-- BGE, R75. -/
  | bge (a : BitVec 5) (b : BitVec 5) (o : BitVec 16)
  /-- BLTU, R75. -/
  | bltu (a : BitVec 5) (b : BitVec 5) (o : BitVec 16)
  /-- BGEU, R75. -/
  | bgeu (a : BitVec 5) (b : BitVec 5) (o : BitVec 16)
  /-- J, R76. -/
  | j (o : BitVec 26)
  /-- JAL, R76. -/
  | jal (o : BitVec 26)
  /-- JALR, R77. -/
  | jalr (d : BitVec 5) (a : BitVec 5) (i : BitVec 16)
  /-- FADD, R79. -/
  | fadd (d : BitVec 5) (a : BitVec 5) (b : BitVec 5)
  /-- FSUB, R79. -/
  | fsub (d : BitVec 5) (a : BitVec 5) (b : BitVec 5)
  /-- FMUL, R79. -/
  | fmul (d : BitVec 5) (a : BitVec 5) (b : BitVec 5)
  /-- FDIV, R79. -/
  | fdiv (d : BitVec 5) (a : BitVec 5) (b : BitVec 5)
  /-- FSQRT, R79. -/
  | fsqrt (d : BitVec 5) (a : BitVec 5)
  /-- FMIN, R79. -/
  | fmin (d : BitVec 5) (a : BitVec 5) (b : BitVec 5)
  /-- FMAX, R79. -/
  | fmax (d : BitVec 5) (a : BitVec 5) (b : BitVec 5)
  /-- FEQ, R79. -/
  | feq (d : BitVec 5) (a : BitVec 5) (b : BitVec 5)
  /-- FLT, R79. -/
  | flt (d : BitVec 5) (a : BitVec 5) (b : BitVec 5)
  /-- FLE, R79. -/
  | fle (d : BitVec 5) (a : BitVec 5) (b : BitVec 5)
  /-- FCVTFI, R79. -/
  | fcvtfi (d : BitVec 5) (a : BitVec 5)
  /-- FCVTIF, R79. -/
  | fcvtif (d : BitVec 5) (a : BitVec 5)
  /-- VFCEQ, R156. -/
  | vfceq (d : BitVec 5) (a : BitVec 5) (b : BitVec 5) (k : BitVec 3) (e : BitVec 3) (l : BitVec 1) (s : BitVec 1)
  /-- VFCNE, R156. -/
  | vfcne (d : BitVec 5) (a : BitVec 5) (b : BitVec 5) (k : BitVec 3) (e : BitVec 3) (l : BitVec 1) (s : BitVec 1)
  /-- VFCLT, R156. -/
  | vfclt (d : BitVec 5) (a : BitVec 5) (b : BitVec 5) (k : BitVec 3) (e : BitVec 3) (l : BitVec 1) (s : BitVec 1)
  /-- VFCLE, R156. -/
  | vfcle (d : BitVec 5) (a : BitVec 5) (b : BitVec 5) (k : BitVec 3) (e : BitVec 3) (l : BitVec 1) (s : BitVec 1)
  /-- VFCGT, R156. -/
  | vfcgt (d : BitVec 5) (a : BitVec 5) (b : BitVec 5) (k : BitVec 3) (e : BitVec 3) (l : BitVec 1) (s : BitVec 1)
  /-- VFCGE, R156. -/
  | vfcge (d : BitVec 5) (a : BitVec 5) (b : BitVec 5) (k : BitVec 3) (e : BitVec 3) (l : BitVec 1) (s : BitVec 1)
  /-- VFCUN, R156. -/
  | vfcun (d : BitVec 5) (a : BitVec 5) (b : BitVec 5) (k : BitVec 3) (e : BitVec 3) (l : BitVec 1) (s : BitVec 1)
  /-- CSRR, R82. -/
  | csrr (d : BitVec 5) (c : BitVec 12)
  /-- CSRW, R82. -/
  | csrw (a : BitVec 5) (c : BitVec 12)
  /-- CSRS, R82. -/
  | csrs (a : BitVec 5) (c : BitVec 12)
  /-- CSRC, R82. -/
  | csrc (a : BitVec 5) (c : BitVec 12)
  /-- TRAPU, R86. -/
  | trapu (n : BitVec 12)
  /-- SETVL, R115. -/
  | setvl (d : BitVec 5) (a : BitVec 5)
  /-- SETVLHW, R117. -/
  | setvlhw (d : BitVec 5) (a : BitVec 5) (b : BitVec 5)
  /-- SETTYPE, R116. -/
  | settype (d : BitVec 5) (a : BitVec 5)
  /-- VADD, R150. -/
  | vadd (d : BitVec 5) (a : BitVec 5) (b : BitVec 5) (k : BitVec 3) (l : BitVec 1) (s : BitVec 1)
  /-- VSUB, R150. -/
  | vsub (d : BitVec 5) (a : BitVec 5) (b : BitVec 5) (k : BitVec 3) (l : BitVec 1) (s : BitVec 1)
  /-- VMUL, R150. -/
  | vmul (d : BitVec 5) (a : BitVec 5) (b : BitVec 5) (k : BitVec 3) (l : BitVec 1) (s : BitVec 1)
  /-- VMULH, R150. -/
  | vmulh (d : BitVec 5) (a : BitVec 5) (b : BitVec 5) (k : BitVec 3) (l : BitVec 1) (s : BitVec 1)
  /-- VMIN, R150. -/
  | vmin (d : BitVec 5) (a : BitVec 5) (b : BitVec 5) (k : BitVec 3) (l : BitVec 1) (s : BitVec 1)
  /-- VMAX, R150. -/
  | vmax (d : BitVec 5) (a : BitVec 5) (b : BitVec 5) (k : BitVec 3) (l : BitVec 1) (s : BitVec 1)
  /-- VMINU, R150. -/
  | vminu (d : BitVec 5) (a : BitVec 5) (b : BitVec 5) (k : BitVec 3) (l : BitVec 1) (s : BitVec 1)
  /-- VMAXU, R150. -/
  | vmaxu (d : BitVec 5) (a : BitVec 5) (b : BitVec 5) (k : BitVec 3) (l : BitVec 1) (s : BitVec 1)
  /-- VAND, R151. -/
  | vand (d : BitVec 5) (a : BitVec 5) (b : BitVec 5) (k : BitVec 3) (l : BitVec 1) (s : BitVec 1)
  /-- VOR, R151. -/
  | vor (d : BitVec 5) (a : BitVec 5) (b : BitVec 5) (k : BitVec 3) (l : BitVec 1) (s : BitVec 1)
  /-- VXOR, R151. -/
  | vxor (d : BitVec 5) (a : BitVec 5) (b : BitVec 5) (k : BitVec 3) (l : BitVec 1) (s : BitVec 1)
  /-- VSLL, R151. -/
  | vsll (d : BitVec 5) (a : BitVec 5) (b : BitVec 5) (k : BitVec 3) (l : BitVec 1) (s : BitVec 1)
  /-- VSRL, R151. -/
  | vsrl (d : BitVec 5) (a : BitVec 5) (b : BitVec 5) (k : BitVec 3) (l : BitVec 1) (s : BitVec 1)
  /-- VSRA, R151. -/
  | vsra (d : BitVec 5) (a : BitVec 5) (b : BitVec 5) (k : BitVec 3) (l : BitVec 1) (s : BitVec 1)
  /-- VPOPC, R151. -/
  | vpopc (d : BitVec 5) (a : BitVec 5) (k : BitVec 3) (l : BitVec 1)
  /-- VCLZ, R151. -/
  | vclz (d : BitVec 5) (a : BitVec 5) (k : BitVec 3) (l : BitVec 1)
  /-- VFADD, R152. -/
  | vfadd (d : BitVec 5) (a : BitVec 5) (b : BitVec 5) (k : BitVec 3) (e : BitVec 3) (l : BitVec 1) (s : BitVec 1)
  /-- VFSUB, R152. -/
  | vfsub (d : BitVec 5) (a : BitVec 5) (b : BitVec 5) (k : BitVec 3) (e : BitVec 3) (l : BitVec 1) (s : BitVec 1)
  /-- VFMUL, R152. -/
  | vfmul (d : BitVec 5) (a : BitVec 5) (b : BitVec 5) (k : BitVec 3) (e : BitVec 3) (l : BitVec 1) (s : BitVec 1)
  /-- VFDIV, R152. -/
  | vfdiv (d : BitVec 5) (a : BitVec 5) (b : BitVec 5) (k : BitVec 3) (e : BitVec 3) (l : BitVec 1) (s : BitVec 1)
  /-- VFMIN, R152. -/
  | vfmin (d : BitVec 5) (a : BitVec 5) (b : BitVec 5) (k : BitVec 3) (e : BitVec 3) (l : BitVec 1) (s : BitVec 1)
  /-- VFMAX, R152. -/
  | vfmax (d : BitVec 5) (a : BitVec 5) (b : BitVec 5) (k : BitVec 3) (e : BitVec 3) (l : BitVec 1) (s : BitVec 1)
  /-- VFSQRT, R152. -/
  | vfsqrt (d : BitVec 5) (a : BitVec 5) (k : BitVec 3) (e : BitVec 3) (l : BitVec 1)
  /-- VFRSQ, R154. -/
  | vfrsq (d : BitVec 5) (a : BitVec 5) (k : BitVec 3) (e : BitVec 3) (l : BitVec 1)
  /-- VFMA, R153. -/
  | vfma (d : BitVec 5) (a : BitVec 5) (b : BitVec 5) (k : BitVec 3) (e : BitVec 3) (l : BitVec 1) (s : BitVec 1)
  /-- VFMS, R153. -/
  | vfms (d : BitVec 5) (a : BitVec 5) (b : BitVec 5) (k : BitVec 3) (e : BitVec 3) (l : BitVec 1) (s : BitVec 1)
  /-- VFNMA, R153. -/
  | vfnma (d : BitVec 5) (a : BitVec 5) (b : BitVec 5) (k : BitVec 3) (e : BitVec 3) (l : BitVec 1) (s : BitVec 1)
  /-- VFNMS, R153. -/
  | vfnms (d : BitVec 5) (a : BitVec 5) (b : BitVec 5) (k : BitVec 3) (e : BitVec 3) (l : BitVec 1) (s : BitVec 1)
  /-- VFEXP2, R154. -/
  | vfexp2 (d : BitVec 5) (a : BitVec 5) (k : BitVec 3) (e : BitVec 3) (l : BitVec 1)
  /-- VFLOG2, R154. -/
  | vflog2 (d : BitVec 5) (a : BitVec 5) (k : BitVec 3) (e : BitVec 3) (l : BitVec 1)
  /-- VFRCP, R154. -/
  | vfrcp (d : BitVec 5) (a : BitVec 5) (k : BitVec 3) (e : BitVec 3) (l : BitVec 1)
  /-- VFCLASS, R155. -/
  | vfclass (d : BitVec 5) (a : BitVec 5) (k : BitVec 3) (l : BitVec 1)
  /-- VCEQ, R156. -/
  | vceq (d : BitVec 5) (a : BitVec 5) (b : BitVec 5) (k : BitVec 3) (l : BitVec 1) (s : BitVec 1)
  /-- VCNE, R156. -/
  | vcne (d : BitVec 5) (a : BitVec 5) (b : BitVec 5) (k : BitVec 3) (l : BitVec 1) (s : BitVec 1)
  /-- VCLT, R156. -/
  | vclt (d : BitVec 5) (a : BitVec 5) (b : BitVec 5) (k : BitVec 3) (l : BitVec 1) (s : BitVec 1)
  /-- VCLE, R156. -/
  | vcle (d : BitVec 5) (a : BitVec 5) (b : BitVec 5) (k : BitVec 3) (l : BitVec 1) (s : BitVec 1)
  /-- VCLTU, R156. -/
  | vcltu (d : BitVec 5) (a : BitVec 5) (b : BitVec 5) (k : BitVec 3) (l : BitVec 1) (s : BitVec 1)
  /-- VCLEU, R156. -/
  | vcleu (d : BitVec 5) (a : BitVec 5) (b : BitVec 5) (k : BitVec 3) (l : BitVec 1) (s : BitVec 1)
  /-- VCGT, R156. -/
  | vcgt (d : BitVec 5) (a : BitVec 5) (b : BitVec 5) (k : BitVec 3) (l : BitVec 1) (s : BitVec 1)
  /-- VCGTU, R156. -/
  | vcgtu (d : BitVec 5) (a : BitVec 5) (b : BitVec 5) (k : BitVec 3) (l : BitVec 1) (s : BitVec 1)
  /-- VCVT_F_BF, R158. -/
  | vcvtFBf (d : BitVec 5) (a : BitVec 5) (k : BitVec 3) (e : BitVec 3) (l : BitVec 1)
  /-- VCVT_BF_F, R158. -/
  | vcvtBfF (d : BitVec 5) (a : BitVec 5) (k : BitVec 3) (e : BitVec 3) (l : BitVec 1)
  /-- VCVT_F_I, R158. -/
  | vcvtFI (d : BitVec 5) (a : BitVec 5) (k : BitVec 3) (e : BitVec 3) (l : BitVec 1)
  /-- VCVT_I_F, R158. -/
  | vcvtIF (d : BitVec 5) (a : BitVec 5) (k : BitVec 3) (e : BitVec 3) (l : BitVec 1)
  /-- VWIDEN, R158. -/
  | vwiden (d : BitVec 5) (a : BitVec 5) (k : BitVec 3) (l : BitVec 1)
  /-- VWIDENU, R158. -/
  | vwidenu (d : BitVec 5) (a : BitVec 5) (k : BitVec 3) (l : BitVec 1)
  /-- VNARROW, R158. -/
  | vnarrow (d : BitVec 5) (a : BitVec 5) (k : BitVec 3) (l : BitVec 1)
  /-- VNARROWU, R158. -/
  | vnarrowu (d : BitVec 5) (a : BitVec 5) (k : BitVec 3) (l : BitVec 1)
  /-- VMV, R159. -/
  | vmv (d : BitVec 5) (a : BitVec 5) (k : BitVec 3) (l : BitVec 1)
  /-- VBCAST, R159. -/
  | vbcast (d : BitVec 5) (b : BitVec 5) (k : BitVec 3)
  /-- VMERGE, R159. -/
  | vmerge (d : BitVec 5) (a : BitVec 5) (b : BitVec 5) (k : BitVec 3) (l : BitVec 1) (s : BitVec 1)
  /-- VEXTR, R160. -/
  | vextr (d : BitVec 5) (a : BitVec 5) (b : BitVec 5)
  /-- VINS, R160. -/
  | vins (d : BitVec 5) (a : BitVec 5) (b : BitVec 5)
  /-- VID, R161. -/
  | vid (d : BitVec 5) (k : BitVec 3)
  /-- VIOTA, R161. -/
  | viota (d : BitVec 5) (a : BitVec 5) (k : BitVec 3)
  /-- VCOMPRESS, R162. -/
  | vcompress (d : BitVec 5) (a : BitVec 5) (k : BitVec 3) (l : BitVec 1)
  /-- VSLIDEUP, R172. -/
  | vslideup (d : BitVec 5) (a : BitVec 5) (b : BitVec 5) (k : BitVec 3) (l : BitVec 1)
  /-- VSLIDEDN, R172. -/
  | vslidedn (d : BitVec 5) (a : BitVec 5) (b : BitVec 5) (k : BitVec 3) (l : BitVec 1)
  /-- VPERMUTE, R172. -/
  | vpermute (d : BitVec 5) (a : BitVec 5) (b : BitVec 5) (k : BitVec 3) (l : BitVec 1)
  /-- VEXPAND, R172. -/
  | vexpand (d : BitVec 5) (a : BitVec 5) (k : BitVec 3) (l : BitVec 1)
  /-- VCONFLICT, R174. -/
  | vconflict (d : BitVec 5) (a : BitVec 5) (k : BitVec 3) (l : BitVec 1)
  /-- VTOPK, R175. -/
  | vtopk (d : BitVec 5) (a : BitVec 5) (b : BitVec 5) (k : BitVec 3) (l : BitVec 1)
  /-- VREV, R172. -/
  | vrev (d : BitVec 5) (a : BitVec 5) (k : BitVec 3) (l : BitVec 1)
  /-- VSCAN, R173. -/
  | vscan (d : BitVec 5) (a : BitVec 5) (b : BitVec 5) (k : BitVec 3) (l : BitVec 1)
  /-- VREDSUM, R163. -/
  | vredsum (d : BitVec 5) (a : BitVec 5) (b : BitVec 5) (k : BitVec 3) (l : BitVec 1)
  /-- VFREDSUM, R165. -/
  | vfredsum (d : BitVec 5) (a : BitVec 5) (b : BitVec 5) (k : BitVec 3) (l : BitVec 1)
  /-- VFREDOSUM, R166. -/
  | vfredosum (d : BitVec 5) (a : BitVec 5) (b : BitVec 5) (k : BitVec 3) (l : BitVec 1)
  /-- VREDMIN, R163. -/
  | vredmin (d : BitVec 5) (a : BitVec 5) (b : BitVec 5) (k : BitVec 3) (l : BitVec 1)
  /-- VREDMAX, R163. -/
  | vredmax (d : BitVec 5) (a : BitVec 5) (b : BitVec 5) (k : BitVec 3) (l : BitVec 1)
  /-- VFREDMINI, R167. -/
  | vfredmini (d : BitVec 5) (a : BitVec 5) (k : BitVec 3) (l : BitVec 1)
  /-- VFREDMAXI, R167. -/
  | vfredmaxi (d : BitVec 5) (a : BitVec 5) (k : BitVec 3) (l : BitVec 1)
  /-- VREDMINUI, R167. -/
  | vredminui (d : BitVec 5) (a : BitVec 5) (k : BitVec 3) (l : BitVec 1)
  /-- KAND, R124. -/
  | kand (d : BitVec 5) (a : BitVec 5) (b : BitVec 5)
  /-- KOR, R124. -/
  | kor (d : BitVec 5) (a : BitVec 5) (b : BitVec 5)
  /-- KXOR, R124. -/
  | kxor (d : BitVec 5) (a : BitVec 5) (b : BitVec 5)
  /-- KANDN, R124. -/
  | kandn (d : BitVec 5) (a : BitVec 5) (b : BitVec 5)
  /-- KNOT, R124. -/
  | knot (d : BitVec 5) (a : BitVec 5)
  /-- KLOOP, R125. -/
  | kloop (d : BitVec 5)
  /-- KPOPC, R125. -/
  | kpopc (d : BitVec 5) (a : BitVec 5)
  /-- KFIRST, R125. -/
  | kfirst (d : BitVec 5) (a : BitVec 5)
  /-- VLD, R131. -/
  | vld (v : BitVec 5) (a : BitVec 5) (b : BitVec 5) (k : BitVec 3) (c : BitVec 4) (f : BitVec 4)
  /-- VLDS, R131. -/
  | vlds (v : BitVec 5) (a : BitVec 5) (b : BitVec 5) (k : BitVec 3) (c : BitVec 4) (f : BitVec 4)
  /-- VLDX, R131. -/
  | vldx (v : BitVec 5) (a : BitVec 5) (b : BitVec 5) (k : BitVec 3) (c : BitVec 4) (f : BitVec 4)
  /-- VLDL, R135. -/
  | vldl (v : BitVec 5) (a : BitVec 5) (b : BitVec 5) (k : BitVec 3) (c : BitVec 4) (f : BitVec 4)
  /-- VST, R132. -/
  | vst (v : BitVec 5) (a : BitVec 5) (b : BitVec 5) (k : BitVec 3) (c : BitVec 4) (f : BitVec 4)
  /-- VSTS, R132. -/
  | vsts (v : BitVec 5) (a : BitVec 5) (b : BitVec 5) (k : BitVec 3) (c : BitVec 4) (f : BitVec 4)
  /-- VSTX, R132. -/
  | vstx (v : BitVec 5) (a : BitVec 5) (b : BitVec 5) (k : BitVec 3) (c : BitVec 4) (f : BitVec 4)
  /-- VSTL, R135. -/
  | vstl (v : BitVec 5) (a : BitVec 5) (b : BitVec 5) (k : BitVec 3) (c : BitVec 4) (f : BitVec 4)
  /-- VLDB, R136. -/
  | vldb (v : BitVec 5) (a : BitVec 5) (b : BitVec 5) (k : BitVec 3) (c : BitVec 4) (f : BitVec 4)
  /-- SBIND, R147. -/
  | sbind (v : BitVec 5) (a : BitVec 5)
  /-- SUNBIND, R147. -/
  | sunbind (v : BitVec 5)
  /-- SEND, R147. -/
  | send (d : BitVec 5) (v : BitVec 5)
  /-- SSEEK, R147. -/
  | sseek (v : BitVec 5) (a : BitVec 5)
  /-- SPOS, R147. -/
  | spos (d : BitVec 5) (v : BitVec 5)
  /-- DCFG, R201. -/
  | dcfg (x : BitVec 3) (c : BitVec 5)
  /-- DZERO, R202. -/
  | dzero (x : BitVec 3)
  /-- DMAC, R203. -/
  | dmac (x : BitVec 3) (k : BitVec 3) (a : BitVec 5) (b : BitVec 5) (c : BitVec 5)
  /-- DMACS, R203. -/
  | dmacs (x : BitVec 3) (k : BitVec 3) (a : BitVec 5) (b : BitVec 5) (c : BitVec 5)
  /-- DMACT, R203. -/
  | dmact (x : BitVec 3) (k : BitVec 3) (b : BitVec 5) (c : BitVec 5)
  /-- DMM, R205. -/
  | dmm (x : BitVec 3) (a : BitVec 5) (b : BitVec 5) (c : BitVec 5)
  /-- DRD, R206. -/
  | drd (x : BitVec 3) (k : BitVec 3) (a : BitVec 5) (c : BitVec 5)
  /-- DWR, R207. -/
  | dwr (x : BitVec 3) (k : BitVec 3) (a : BitVec 5) (c : BitVec 5)
  /-- DWMARK, R208. -/
  | dwmark (x : BitVec 3) (c : BitVec 5)
  /-- TTCLR, R221. -/
  | ttclr (t : BitVec 5) (b : BitVec 5)
  /-- TTADD, R221. -/
  | ttadd (d : BitVec 5) (t : BitVec 5) (b : BitVec 5)
  /-- TTMASK, R224. -/
  | ttmask (d : BitVec 5) (t : BitVec 5) (b : BitVec 5)
  /-- TTPOS, R225. -/
  | ttpos (d : BitVec 5) (t : BitVec 5)
  /-- TTPATH, R225. -/
  | ttpath (d : BitVec 5) (t : BitVec 5) (b : BitVec 5)
  /-- TTPRUNE, R222. -/
  | ttprune (d : BitVec 5) (t : BitVec 5) (b : BitVec 5)
  /-- TTCOMMIT, R223. -/
  | ttcommit (d : BitVec 5) (t : BitVec 5) (b : BitVec 5)
  /-- TTCOUNT, R225. -/
  | ttcount (d : BitVec 5) (t : BitVec 5)
  /-- KVWALK, R234. -/
  | kvwalk (d : BitVec 5) (a : BitVec 5) (b : BitVec 5) (k : BitVec 3) (l : BitVec 1)
  /-- KVHINT, R236. -/
  | kvhint (a : BitVec 5) (b : BitVec 5) (k : BitVec 3) (l : BitVec 1)
  /-- KVDROP, R236. -/
  | kvdrop (a : BitVec 5) (k : BitVec 3) (l : BitVec 1)
  /-- AMOADD, R295. -/
  | amoadd (d : BitVec 5) (a : BitVec 5) (b : BitVec 5) (s : BitVec 4) (o : BitVec 2) (w : BitVec 1)
  /-- AMOMIN, R295. -/
  | amomin (d : BitVec 5) (a : BitVec 5) (b : BitVec 5) (s : BitVec 4) (o : BitVec 2) (w : BitVec 1)
  /-- AMOMAX, R295. -/
  | amomax (d : BitVec 5) (a : BitVec 5) (b : BitVec 5) (s : BitVec 4) (o : BitVec 2) (w : BitVec 1)
  /-- AMOMINU, R295. -/
  | amominu (d : BitVec 5) (a : BitVec 5) (b : BitVec 5) (s : BitVec 4) (o : BitVec 2) (w : BitVec 1)
  /-- AMOMAXU, R295. -/
  | amomaxu (d : BitVec 5) (a : BitVec 5) (b : BitVec 5) (s : BitVec 4) (o : BitVec 2) (w : BitVec 1)
  /-- AMOAND, R295. -/
  | amoand (d : BitVec 5) (a : BitVec 5) (b : BitVec 5) (s : BitVec 4) (o : BitVec 2) (w : BitVec 1)
  /-- AMOOR, R295. -/
  | amoor (d : BitVec 5) (a : BitVec 5) (b : BitVec 5) (s : BitVec 4) (o : BitVec 2) (w : BitVec 1)
  /-- AMOXOR, R295. -/
  | amoxor (d : BitVec 5) (a : BitVec 5) (b : BitVec 5) (s : BitVec 4) (o : BitVec 2) (w : BitVec 1)
  /-- AMOSWP, R295. -/
  | amoswp (d : BitVec 5) (a : BitVec 5) (b : BitVec 5) (s : BitVec 4) (o : BitVec 2) (w : BitVec 1)
  /-- AMOCAS, R295. -/
  | amocas (d : BitVec 5) (a : BitVec 5) (b : BitVec 5) (s : BitVec 4) (o : BitVec 2) (w : BitVec 1)
  /-- AMOFADD, R297. -/
  | amofadd (d : BitVec 5) (a : BitVec 5) (b : BitVec 5) (s : BitVec 4) (o : BitVec 2)
  /-- LDA, R295. -/
  | lda (d : BitVec 5) (a : BitVec 5) (s : BitVec 4) (o : BitVec 1) (w : BitVec 1)
  /-- STL, R295. -/
  | stl (a : BitVec 5) (b : BitVec 5) (s : BitVec 4) (o : BitVec 1) (w : BitVec 1)
  /-- VAMOADD, R299. -/
  | vamoadd (v : BitVec 5) (a : BitVec 5) (b : BitVec 5) (k : BitVec 3) (s : BitVec 4)
  /-- VAMOMIN, R299. -/
  | vamomin (v : BitVec 5) (a : BitVec 5) (b : BitVec 5) (k : BitVec 3) (s : BitVec 4)
  /-- VAMOMAX, R299. -/
  | vamomax (v : BitVec 5) (a : BitVec 5) (b : BitVec 5) (k : BitVec 3) (s : BitVec 4)
  /-- VAMOFADD, R299. -/
  | vamofadd (v : BitVec 5) (a : BitVec 5) (b : BitVec 5) (k : BitVec 3) (s : BitVec 4)
  /-- VSCADD, R300. -/
  | vscadd (v : BitVec 5) (a : BitVec 5) (b : BitVec 5) (k : BitVec 3) (s : BitVec 4)
  /-- ACCW, R301. -/
  | accw (a : BitVec 5) (b : BitVec 5) (s : BitVec 4)
  /-- VACC, R302. -/
  | vacc (v : BitVec 5) (a : BitVec 5) (b : BitVec 5) (k : BitVec 3) (s : BitVec 4)
  /-- MERGE, R303. -/
  | merge (a : BitVec 5) (s : BitVec 4)
  /-- FENCE, R305. -/
  | fence (m : BitVec 16) (s : BitVec 4)
  /-- FENCE_REL, R305. -/
  | fenceRel (m : BitVec 16) (s : BitVec 4)
  /-- FENCE_ACQ, R305. -/
  | fenceAcq (m : BitVec 16) (s : BitVec 4)
  /-- INVRO, R278. -/
  | invro (s : BitVec 4)
  /-- CCLEAN, R305. -/
  | cclean (s : BitVec 4)
  /-- CINVAL, R305. -/
  | cinval (s : BitVec 4)
  /-- SCOPEPUT, R307. -/
  | scopeput (d : BitVec 5) (a : BitVec 5) (s : BitVec 4)
  /-- SCOPEGET, R308. -/
  | scopeget (d : BitVec 5) (a : BitVec 5) (s : BitVec 4)
  /-- SCOPEPIN, R309. -/
  | scopepin (a : BitVec 5) (s : BitVec 4)
  /-- BAR, R311. -/
  | bar (d : BitVec 5) (s : BitVec 4)
  /-- SEMWAIT, R313. -/
  | semwait (d : BitVec 5) (a : BitVec 5) (b : BitVec 5) (s : BitVec 4)
  /-- SEMTRY, R313. -/
  | semtry (d : BitVec 5) (a : BitVec 5) (b : BitVec 5) (s : BitVec 4)
  /-- SEMPOST, R313. -/
  | sempost (d : BitVec 5) (a : BitVec 5) (b : BitVec 5) (s : BitVec 4)
  /-- PUBHW, R315. -/
  | pubhw (d : BitVec 5) (a : BitVec 5) (b : BitVec 5) (s : BitVec 4)
  /-- WAIT, R316. -/
  | wait (l : BitVec 5) (s : BitVec 5) (c : BitVec 5) (t : BitVec 5)
  /-- COPY, R345. -/
  | copy (d : BitVec 5) (a : BitVec 5) (b : BitVec 5) (q : BitVec 6)
  /-- COPY2D, R346. -/
  | copy2d (d : BitVec 5) (a : BitVec 5) (q : BitVec 6)
  /-- QCOPY, R347. -/
  | qcopy (d : BitVec 5) (a : BitVec 5) (q : BitVec 6)
  /-- DECBIND, R353. -/
  | decbind (v : BitVec 5) (a : BitVec 5)
  /-- MCMD, R358. -/
  | mcmd (d : BitVec 5) (a : BitVec 5) (q : BitVec 6)
  /-- LAUNCH, R325. -/
  | launch (d : BitVec 5) (a : BitVec 5)
  /-- TSPAWN, R337. -/
  | tspawn (d : BitVec 5) (a : BitVec 5) (b : BitVec 5)
  /-- TJOIN, R338. -/
  | tjoin (d : BitVec 5)
  /-- QFENCE, R349. -/
  | qfence (a : BitVec 5)
  /-- TRAP, R402. -/
  | trap (a : BitVec 5)
  /-- TLBINV, R377. -/
  | tlbinv (a : BitVec 5) (b : BitVec 5)
  /-- CTXSAVE, R412. -/
  | ctxsave (d : BitVec 5) (a : BitVec 5) (b : BitVec 5)
  /-- CTXLOAD, R412. -/
  | ctxload (d : BitVec 5) (a : BitVec 5) (b : BitVec 5)
  /-- ENGRST, R418. -/
  | engrst (a : BitVec 5)
  /-- MIGRATE, R375. -/
  | migrate (d : BitVec 5) (a : BitVec 5)
  /-- TRET, R87. -/
  | tret
  /-- YIELD, R88. -/
  | yield
  /-- ERET, R403. -/
  | eret
  /-- HALT, R404. -/
  | halt
  /-- IDLE, R405. -/
  | idle
  /-- CONVOY_ISSUE, R23. -/
  | convoyIssue (core : Nat)
  /-- ISSUE_AGEING, R331. -/
  | issueAgeing (core slot : Nat)
  /-- GOVERNOR_WINDOW, R210. -/
  | governorWindow (core : Nat)
  /-- TRAP_RECORD_WRITE, R392. -/
  | trapRecordWrite
  /-- THREAD_RESUME, R392. -/
  | threadResume (value : BitVec 64)
  /-- DOORBELL, R324. -/
  | doorbell (value : BitVec 64)
  /-- DEPENDENCE_CELL_READ, R329. -/
  | dependenceCellRead (launch : Nat)
  /-- GANG_PLACEMENT, R326. -/
  | gangPlacement (die cluster : Nat)
  /-- PARK, R407. -/
  | park (die launch gang : Nat)
  /-- RESUME, R409. -/
  | resume (die cluster : Nat)
  /-- TASK_START, R337. -/
  | taskStart (core slot : Nat)
  /-- TASK_DEADLOCK, R339. -/
  | taskDeadlock (launch gang : Nat)
  /-- TJOIN_RELEASE, R338. -/
  | tjoinRelease (core slot : Nat)
  /-- LAUNCH_COMPLETION, R335. -/
  | launchCompletion (launch : Nat)
  /-- ENGINE_COMMAND_EXECUTE, R281. -/
  | engineCommandExecute (queue : Nat)
  /-- COMMAND_COMPLETION, R342. -/
  | commandCompletion (queue : Nat)
  /-- MEDIA_PARAMETER_READ, R359. -/
  | mediaParameterRead (queue : Nat)
  /-- MEDIA_ENGINE_FAILURE, R360. -/
  | mediaEngineFailure (queue reason : Nat)
  /-- PAGE_EXPAND, R374. -/
  | pageExpand (asid : BitVec 16) (va target : BitVec 64)
  /-- STRAINER_DECODE, R355. -/
  | strainerDecode (core slot reg : Nat)
  /-- STREAM_PREFETCH, R145. -/
  | streamPrefetch (core slot reg : Nat)
  /-- DIAG_WORD_COMPLETION, R200. -/
  | diagWordCompletion (core : Nat)
  /-- SETVLHW_WAKE, R118. -/
  | setvlhwWake (line : Nat)
  /-- SCOPEPUT_DRAIN_COMPLETE, R292. -/
  | scopeputDrainComplete (slot entry : Nat)
  /-- SHARED_READ, R250. -/
  | sharedRead (line agent : Nat)
  /-- OWN_READ, R250. -/
  | ownRead (line agent : Nat)
  /-- WRITE_BACK, R250. -/
  | writeBack (line agent : Nat)
  /-- CLEAN_EVICT, R250. -/
  | cleanEvict (line agent : Nat)
  /-- FORWARD, R252. -/
  | forward (line agent : Nat) (own : Bool)
  /-- INVALIDATION, R251. -/
  | invalidation (line agent : Nat)
  /-- CLUSTER_CACHE_EVICTION, R244. -/
  | clusterCacheEviction (cluster sector : Nat)
  /-- MEMORY_SCRUB, R414. -/
  | memoryScrub (die : Nat)
  /-- CONTEXT_CREATE, R365. -/
  | contextCreate (slot : Nat)
  /-- CONTEXT_TERMINATE, R365. -/
  | contextTerminate (slot : Nat)
  /-- MAXLANE, R113. -/
  | maxlane (core : Nat) (value : BitVec 64)
  /-- DBUDGET, R113. -/
  | dbudget (core : Nat) (value : BitVec 64)
  /-- LOST_LINE_CLEAR, R416. -/
  | lostLineClear (value : BitVec 64)
  /-- DEVICE_RESET_WRITE, R419. -/
  | deviceResetWrite (value : BitVec 64)
  /-- DEVICE_REGISTER_WRITE, R242. -/
  | deviceRegisterWrite (offset size : Nat) (value : BitVec 64)
  /-- MGMT_SEMAPHORE_CAS, R381. -/
  | mgmtSemaphoreCas (port : Bool) (expected new : BitVec 64)
  /-- HOLDER_LINK_DOWN, R381. -/
  | holderLinkDown (port : Bool)
  /-- STAGE_IMAGE, R379. -/
  | stageImage (port : Bool) (image : List (BitVec 8))
  /-- COMMIT_VERSION, R387. -/
  | commitVersion (port : Bool) (stage : Nat)
  /-- SET_IDENTITY, R382. -/
  | setIdentity (port : Bool) (value : BitVec 64)
  /-- MGMT_DEVICE_RESET, R379. -/
  | mgmtDeviceReset (port : Bool)
  /-- ATTESTATION_REQUEST, R388. -/
  | attestationRequest (port : Bool) (nonce : BitVec 256)
  /-- BLACK_BOX_READ, R421. -/
  | blackBoxRead (port : Bool)
  /-- LINK_TRAINING, R383. -/
  | linkTraining (port : Nat) (peer : BitVec 16)
  /-- FLIT_REPLAY, R414. -/
  | flitReplay (port : Nat) (good : Bool)
  /-- COLD_BOOT, R389. -/
  | coldBoot
  /-- WEAR_UPDATE, R422. -/
  | wearUpdate (die : Nat) (value : BitVec 16) (firmware : Bool)
  /-- IDLE_WAKE, R405. -/
  | idleWake (core : Nat)
  /-- FABRIC_LINK_DOWN, R417. -/
  | fabricLinkDown (port : Nat)
  /-- HOST_QUEUE_ENABLE, R324. -/
  | hostQueueEnable (queue slot : Nat) (base : BitVec 64) (k : Nat)
  /-- NETWORK_WINDOW_RESPONSE, R241. -/
  | networkWindowResponse (port : Bool) (offset : Nat) (value : BitVec 512)
  deriving DecidableEq, Repr

end Sys2Proof
end

