-- ==== Sys2Proof/WellFormed.lean ====
section
/-! DEFINITION. Well-formed instructions: register numbers inside their class (R59), no reserved value (R57, R340),
assigned control registers (R61), and event operands that name something the device has (R8 to R11). -/

namespace Sys2Proof

/-- The user control registers of R81. -/
def userCsrs : List Nat :=
  [0x000, 0x001, 0x002, 0x003, 0x004, 0x005, 0x006, 0x007, 0x008, 0x009, 0x00A, 0x00B, 0x010, 0x011, 0x012, 0x013, 0x014,
   0x020, 0x021, 0x030, 0x050, 0x051, 0x060]

/-- The user control registers that only hardware writes (R61). -/
def hardwareCsrs : List Nat := [0x000, 0x003, 0x008, 0x009, 0x00A, 0x00B, 0x020, 0x030, 0x051]

/-- CSRR's number is an instruction as far as the word tells (R61); from 0x800 up the check follows privilege. -/
def csrReadable (n : Nat) : Bool := 0x800 ≤ n || userCsrs.contains n

/-- The same for CSRW, CSRS and CSRC (R61). -/
def csrWritable (n : Nat) : Bool := 0x800 ≤ n || (userCsrs.contains n && !hardwareCsrs.contains n)

/-- The instruction is one the spec defines: a word that decodes, or an event about an existing agent. -/
def Instr.wf : Instr → Bool
  | .add _ _ _ => true
  | .sub _ _ _ => true
  | .and _ _ _ => true
  | .or _ _ _ => true
  | .xor _ _ _ => true
  | .sll _ _ _ => true
  | .srl _ _ _ => true
  | .sra _ _ _ => true
  | .slt _ _ _ => true
  | .sltu _ _ _ => true
  | .min _ _ _ => true
  | .max _ _ _ => true
  | .minu _ _ _ => true
  | .maxu _ _ _ => true
  | .mul _ _ _ => true
  | .mulh _ _ _ => true
  | .mulhu _ _ _ => true
  | .div _ _ _ => true
  | .divu _ _ _ => true
  | .rem _ _ _ => true
  | .remu _ _ _ => true
  | .popc _ _ => true
  | .clz _ _ => true
  | .ctz _ _ => true
  | .addi _ _ _ => true
  | .andi _ _ _ => true
  | .ori _ _ _ => true
  | .xori _ _ _ => true
  | .slti _ _ _ => true
  | .slli _ _ _ => true
  | .srli _ _ _ => true
  | .srai _ _ _ => true
  | .lui _ _ => true
  | .lqa _ _ => true
  | .ldb _ _ _ _ => true
  | .ldbu _ _ _ _ => true
  | .ldh _ _ _ _ => true
  | .ldhu _ _ _ _ => true
  | .ldw _ _ _ _ => true
  | .ldwu _ _ _ _ => true
  | .ldd _ _ _ _ => true
  | .stb _ _ _ _ => true
  | .sth _ _ _ _ => true
  | .stw _ _ _ _ => true
  | .std _ _ _ _ => true
  | .beq _ _ _ => true
  | .bne _ _ _ => true
  | .blt _ _ _ => true
  | .bge _ _ _ => true
  | .bltu _ _ _ => true
  | .bgeu _ _ _ => true
  | .j _ => true
  | .jal _ => true
  | .jalr _ _ _ => true
  | .fadd _ _ _ => true
  | .fsub _ _ _ => true
  | .fmul _ _ _ => true
  | .fdiv _ _ _ => true
  | .fsqrt _ _ => true
  | .fmin _ _ _ => true
  | .fmax _ _ _ => true
  | .feq _ _ _ => true
  | .flt _ _ _ => true
  | .fle _ _ _ => true
  | .fcvtfi _ _ => true
  | .fcvtif _ _ => true
  | .vfceq d _ _ _ _ _ _ => (d.toNat ≤ 7)
  | .vfcne d _ _ _ _ _ _ => (d.toNat ≤ 7)
  | .vfclt d _ _ _ _ _ _ => (d.toNat ≤ 7)
  | .vfcle d _ _ _ _ _ _ => (d.toNat ≤ 7)
  | .vfcgt d _ _ _ _ _ _ => (d.toNat ≤ 7)
  | .vfcge d _ _ _ _ _ _ => (d.toNat ≤ 7)
  | .vfcun d _ _ _ _ _ _ => (d.toNat ≤ 7)
  | .csrr _ c => csrReadable c.toNat
  | .csrw _ c => csrWritable c.toNat
  | .csrs _ c => csrWritable c.toNat
  | .csrc _ c => csrWritable c.toNat
  | .trapu _ => true
  | .setvl _ _ => true
  | .setvlhw _ _ _ => true
  | .settype _ _ => true
  | .vadd _ _ _ _ _ _ => true
  | .vsub _ _ _ _ _ _ => true
  | .vmul _ _ _ _ _ _ => true
  | .vmulh _ _ _ _ _ _ => true
  | .vmin _ _ _ _ _ _ => true
  | .vmax _ _ _ _ _ _ => true
  | .vminu _ _ _ _ _ _ => true
  | .vmaxu _ _ _ _ _ _ => true
  | .vand _ _ _ _ _ _ => true
  | .vor _ _ _ _ _ _ => true
  | .vxor _ _ _ _ _ _ => true
  | .vsll _ _ _ _ _ _ => true
  | .vsrl _ _ _ _ _ _ => true
  | .vsra _ _ _ _ _ _ => true
  | .vpopc _ _ _ _ => true
  | .vclz _ _ _ _ => true
  | .vfadd _ _ _ _ _ _ _ => true
  | .vfsub _ _ _ _ _ _ _ => true
  | .vfmul _ _ _ _ _ _ _ => true
  | .vfdiv _ _ _ _ _ _ _ => true
  | .vfmin _ _ _ _ _ _ _ => true
  | .vfmax _ _ _ _ _ _ _ => true
  | .vfsqrt _ _ _ _ _ => true
  | .vfrsq _ _ _ _ _ => true
  | .vfma _ _ _ _ _ _ _ => true
  | .vfms _ _ _ _ _ _ _ => true
  | .vfnma _ _ _ _ _ _ _ => true
  | .vfnms _ _ _ _ _ _ _ => true
  | .vfexp2 _ _ _ _ _ => true
  | .vflog2 _ _ _ _ _ => true
  | .vfrcp _ _ _ _ _ => true
  | .vfclass _ _ _ _ => true
  | .vceq d _ _ _ _ _ => (d.toNat ≤ 7)
  | .vcne d _ _ _ _ _ => (d.toNat ≤ 7)
  | .vclt d _ _ _ _ _ => (d.toNat ≤ 7)
  | .vcle d _ _ _ _ _ => (d.toNat ≤ 7)
  | .vcltu d _ _ _ _ _ => (d.toNat ≤ 7)
  | .vcleu d _ _ _ _ _ => (d.toNat ≤ 7)
  | .vcgt d _ _ _ _ _ => (d.toNat ≤ 7)
  | .vcgtu d _ _ _ _ _ => (d.toNat ≤ 7)
  | .vcvtFBf _ _ _ _ _ => true
  | .vcvtBfF _ _ _ _ _ => true
  | .vcvtFI _ _ _ _ _ => true
  | .vcvtIF _ _ _ _ _ => true
  | .vwiden _ _ _ _ => true
  | .vwidenu _ _ _ _ => true
  | .vnarrow _ _ _ _ => true
  | .vnarrowu _ _ _ _ => true
  | .vmv _ _ _ _ => true
  | .vbcast _ _ _ => true
  | .vmerge _ _ _ _ _ _ => true
  | .vextr _ _ _ => true
  | .vins _ _ _ => true
  | .vid _ _ => true
  | .viota _ a _ => (a.toNat ≤ 7)
  | .vcompress _ _ _ _ => true
  | .vslideup _ _ _ _ _ => true
  | .vslidedn _ _ _ _ _ => true
  | .vpermute _ _ _ _ _ => true
  | .vexpand _ _ _ _ => true
  | .vconflict d _ _ _ => (d.toNat ≤ 7)
  | .vtopk _ _ _ _ _ => true
  | .vrev _ _ _ _ => true
  | .vscan _ _ _ _ _ => true
  | .vredsum _ _ _ _ _ => true
  | .vfredsum _ _ _ _ _ => true
  | .vfredosum _ _ _ _ _ => true
  | .vredmin _ _ _ _ _ => true
  | .vredmax _ _ _ _ _ => true
  | .vfredmini _ _ _ _ => true
  | .vfredmaxi _ _ _ _ => true
  | .vredminui _ _ _ _ => true
  | .kand d a b => (d.toNat ≤ 7) && (a.toNat ≤ 7) && (b.toNat ≤ 7)
  | .kor d a b => (d.toNat ≤ 7) && (a.toNat ≤ 7) && (b.toNat ≤ 7)
  | .kxor d a b => (d.toNat ≤ 7) && (a.toNat ≤ 7) && (b.toNat ≤ 7)
  | .kandn d a b => (d.toNat ≤ 7) && (a.toNat ≤ 7) && (b.toNat ≤ 7)
  | .knot d a => (d.toNat ≤ 7) && (a.toNat ≤ 7)
  | .kloop d => (d.toNat ≤ 7)
  | .kpopc d a => (d.toNat ≤ 7) && (a.toNat ≤ 7)
  | .kfirst d a => (d.toNat ≤ 7) && (a.toNat ≤ 7)
  | .vld _ _ _ _ _ f => (f.toNat ≤ 13)
  | .vlds _ _ _ _ _ f => (f.toNat ≤ 13)
  | .vldx _ _ _ _ _ f => (f.toNat ≤ 13)
  | .vldl _ _ _ _ _ f => (f.toNat ≤ 13)
  | .vst _ _ _ _ _ f => (f.toNat ≤ 13)
  | .vsts _ _ _ _ _ f => (f.toNat ≤ 13)
  | .vstx _ _ _ _ _ f => (f.toNat ≤ 13)
  | .vstl _ _ _ _ _ f => (f.toNat ≤ 13)
  | .vldb _ _ _ _ _ f => (f.toNat ≤ 13)
  | .sbind _ _ => true
  | .sunbind _ => true
  | .send _ _ => true
  | .sseek _ _ => true
  | .spos _ _ => true
  | .dcfg _ _ => true
  | .dzero _ => true
  | .dmac _ _ _ _ _ => true
  | .dmacs _ _ _ _ _ => true
  | .dmact _ _ _ _ => true
  | .dmm _ _ _ _ => true
  | .drd _ _ _ _ => true
  | .dwr _ _ _ _ => true
  | .dwmark _ _ => true
  | .ttclr t _ => (t.toNat ≤ 3)
  | .ttadd _ t _ => (t.toNat ≤ 3)
  | .ttmask d t _ => (d.toNat ≤ 7) && (t.toNat ≤ 3)
  | .ttpos _ t => (t.toNat ≤ 3)
  | .ttpath _ t _ => (t.toNat ≤ 3)
  | .ttprune _ t _ => (t.toNat ≤ 3)
  | .ttcommit _ t _ => (t.toNat ≤ 3)
  | .ttcount _ t => (t.toNat ≤ 3)
  | .kvwalk _ _ _ _ _ => true
  | .kvhint _ _ _ _ => true
  | .kvdrop _ _ _ => true
  | .amoadd _ _ _ _ _ _ => true
  | .amomin _ _ _ _ _ _ => true
  | .amomax _ _ _ _ _ _ => true
  | .amominu _ _ _ _ _ _ => true
  | .amomaxu _ _ _ _ _ _ => true
  | .amoand _ _ _ _ _ _ => true
  | .amoor _ _ _ _ _ _ => true
  | .amoxor _ _ _ _ _ _ => true
  | .amoswp _ _ _ _ _ _ => true
  | .amocas _ _ _ _ _ _ => true
  | .amofadd _ _ _ _ _ => true
  | .lda _ _ _ _ _ => true
  | .stl _ _ _ _ _ => true
  | .vamoadd _ _ _ _ _ => true
  | .vamomin _ _ _ _ _ => true
  | .vamomax _ _ _ _ _ => true
  | .vamofadd _ _ _ _ _ => true
  | .vscadd _ _ _ _ _ => true
  | .accw _ _ _ => true
  | .vacc _ _ _ _ _ => true
  | .merge _ _ => true
  | .fence _ _ => true
  | .fenceRel _ _ => true
  | .fenceAcq _ _ => true
  | .invro _ => true
  | .cclean _ => true
  | .cinval _ => true
  | .scopeput _ _ _ => true
  | .scopeget _ _ _ => true
  | .scopepin _ _ => true
  | .bar _ _ => true
  | .semwait _ _ _ _ => true
  | .semtry _ _ _ _ => true
  | .sempost _ _ _ _ => true
  | .pubhw _ _ _ _ => true
  | .wait _ _ _ _ => true
  | .copy _ _ _ q => (q.toNat < 32)
  | .copy2d _ _ q => (q.toNat < 32)
  | .qcopy _ _ q => (q.toNat < 32)
  | .decbind _ _ => true
  | .mcmd _ _ q => (32 ≤ q.toNat && q.toNat < 48)
  | .launch _ _ => true
  | .tspawn _ _ _ => true
  | .tjoin _ => true
  | .qfence _ => true
  | .trap _ => true
  | .tlbinv _ _ => true
  | .ctxsave _ _ _ => true
  | .ctxload _ _ _ => true
  | .engrst _ => true
  | .migrate _ _ => true
  | .tret => true
  | .yield => true
  | .eret => true
  | .halt => true
  | .idle => true
  | .convoyIssue core => core < 4112
  | .issueAgeing core slot => core < 4112 && slot < 4
  | .governorWindow core => core < 4112
  | .trapRecordWrite => true
  | .threadResume _ => true
  | .doorbell _ => true
  | .dependenceCellRead _ => true
  | .gangPlacement die cluster => die < 8 && cluster < 16
  | .park die _ _ => die < 8
  | .resume die cluster => die < 8 && cluster < 16
  | .taskStart core slot => core < 4096 && slot < 4
  | .taskDeadlock _ _ => true
  | .tjoinRelease core slot => core < 4112 && slot < 4
  | .launchCompletion _ => true
  | .engineCommandExecute queue => queue < 56
  | .commandCompletion queue => queue < 56
  | .mediaParameterRead queue => 32 ≤ queue && queue < 48
  | .mediaEngineFailure queue reason => 32 ≤ queue && queue < 48 && 1 ≤ reason && reason ≤ 4
  | .pageExpand _ _ _ => true
  | .strainerDecode core slot reg => core < 4112 && slot < 4 && reg < 32
  | .streamPrefetch core slot reg => core < 4112 && slot < 4 && reg < 32
  | .diagWordCompletion core => core < 4112
  | .setvlhwWake _ => true
  | .scopeputDrainComplete slot entry => slot < 64 && entry < 16
  | .sharedRead _ _ => true
  | .ownRead _ _ => true
  | .writeBack _ _ => true
  | .cleanEvict _ _ => true
  | .forward _ _ _ => true
  | .invalidation _ _ => true
  | .clusterCacheEviction cluster _ => cluster < 129
  | .memoryScrub die => die < 8
  | .contextCreate slot => slot < 64
  | .contextTerminate slot => slot < 64
  | .maxlane core _ => core < 4096
  | .dbudget core _ => core < 4096
  | .lostLineClear _ => true
  | .deviceResetWrite _ => true
  | .deviceRegisterWrite _ _ _ => true
  | .mgmtSemaphoreCas _ _ _ => true
  | .holderLinkDown _ => true
  | .stageImage _ _ => true
  | .commitVersion _ stage => 1 ≤ stage && stage ≤ 3
  | .setIdentity _ _ => true
  | .mgmtDeviceReset _ => true
  | .attestationRequest _ _ => true
  | .blackBoxRead _ => true
  | .linkTraining port _ => port < 18
  | .flitReplay port _ => port < 18
  | .coldBoot => true
  | .wearUpdate die _ _ => die < 8
  | .idleWake core => 4096 ≤ core && core < 4112
  | .fabricLinkDown port => port < 18
  | .hostQueueEnable queue slot _ k => queue < 256 && slot < 64 && 1 ≤ k && k ≤ 16
  | .networkWindowResponse _ _ _ => true

/-- Words as opposed to events: an event has no encoding. -/
def Instr.isWord : Instr → Bool
  | .convoyIssue .. => false
  | .issueAgeing .. => false
  | .governorWindow .. => false
  | .trapRecordWrite => false
  | .threadResume .. => false
  | .doorbell .. => false
  | .dependenceCellRead .. => false
  | .gangPlacement .. => false
  | .park .. => false
  | .resume .. => false
  | .taskStart .. => false
  | .taskDeadlock .. => false
  | .tjoinRelease .. => false
  | .launchCompletion .. => false
  | .engineCommandExecute .. => false
  | .commandCompletion .. => false
  | .mediaParameterRead .. => false
  | .mediaEngineFailure .. => false
  | .pageExpand .. => false
  | .strainerDecode .. => false
  | .streamPrefetch .. => false
  | .diagWordCompletion .. => false
  | .setvlhwWake .. => false
  | .scopeputDrainComplete .. => false
  | .sharedRead .. => false
  | .ownRead .. => false
  | .writeBack .. => false
  | .cleanEvict .. => false
  | .forward .. => false
  | .invalidation .. => false
  | .clusterCacheEviction .. => false
  | .memoryScrub .. => false
  | .contextCreate .. => false
  | .contextTerminate .. => false
  | .maxlane .. => false
  | .dbudget .. => false
  | .lostLineClear .. => false
  | .deviceResetWrite .. => false
  | .deviceRegisterWrite .. => false
  | .mgmtSemaphoreCas .. => false
  | .holderLinkDown .. => false
  | .stageImage .. => false
  | .commitVersion .. => false
  | .setIdentity .. => false
  | .mgmtDeviceReset .. => false
  | .attestationRequest .. => false
  | .blackBoxRead .. => false
  | .linkTraining .. => false
  | .flitReplay .. => false
  | .coldBoot => false
  | .wearUpdate .. => false
  | .idleWake .. => false
  | .fabricLinkDown .. => false
  | .hostQueueEnable .. => false
  | .networkWindowResponse .. => false
  | _ => true

/-- The control transfers of R34. -/
def Instr.isTransfer : Instr → Bool
  | .beq .. => true
  | .bne .. => true
  | .blt .. => true
  | .bge .. => true
  | .bltu .. => true
  | .bgeu .. => true
  | .j .. => true
  | .jal .. => true
  | .jalr .. => true
  | .tret => true
  | .trapu .. => true
  | .trap .. => true
  | .eret => true
  | .halt => true
  | _ => false

end Sys2Proof
end

