-- ==== Sys2Proof/Decode.lean ====
section
/-! DEFINITION. The decoder, total on every 32-bit word, and the encoder. A word that is not an instruction is refused
with the sub-code of R64: 0 reserved major, 1 reserved function code, 2 must-be-zero field, 3 register outside its
class, 6 control register, 7 other reserved value. Sub-code 5 (placement, R34) needs the whole convoy and stands in
Machine/Convoy.lean. -/

namespace Sys2Proof

/-- Why a word is no instruction: the sub-code of R64 and the failing register number (sub-code 3), else 0. -/
structure DecodeError where
  sub : Nat
  reg : Nat
  deriving DecidableEq, Repr

/-- The field of `n` bits whose lowest bit is bit `lo` (R29). -/
def field (w : BitVec 32) (lo n : Nat) : BitVec n := w.extractLsb' lo n

/-- The checks of R63 step 1 on a selected word, in the order of their sub-codes: must-be-zero bits, register classes
(a list of register number and largest number of its class, in field order), control register, reserved values. -/
def checked (w mbz : BitVec 32) (regs : List (Nat × Nat)) (csrOk : Bool) (resMask resVal : BitVec 32) (valOk : Bool)
    (i : Instr) : Except DecodeError Instr :=
  if w &&& mbz ≠ 0 then .error ⟨2, 0⟩
  else match regs.find? (fun r => r.2 < r.1) with
    | some r => .error ⟨3, r.1⟩
    | none =>
      if !csrOk then .error ⟨6, 0⟩
      else if w &&& resMask ≠ resVal || !valOk then .error ⟨7, 0⟩
      else .ok i

/-- Major 0x01 (R55). -/
def decodeInt (w : BitVec 32) : Except DecodeError Instr :=
  match (field w 0 6).toNat with
  | 0 => checked w 0x000007C0#32 [] true 0x00000000#32 0x00000000#32 true (.add (field w 21 5) (field w 16 5) (field w 11 5))
  | 1 => checked w 0x000007C0#32 [] true 0x00000000#32 0x00000000#32 true (.sub (field w 21 5) (field w 16 5) (field w 11 5))
  | 2 => checked w 0x000007C0#32 [] true 0x00000000#32 0x00000000#32 true (.and (field w 21 5) (field w 16 5) (field w 11 5))
  | 3 => checked w 0x000007C0#32 [] true 0x00000000#32 0x00000000#32 true (.or (field w 21 5) (field w 16 5) (field w 11 5))
  | 4 => checked w 0x000007C0#32 [] true 0x00000000#32 0x00000000#32 true (.xor (field w 21 5) (field w 16 5) (field w 11 5))
  | 5 => checked w 0x000007C0#32 [] true 0x00000000#32 0x00000000#32 true (.sll (field w 21 5) (field w 16 5) (field w 11 5))
  | 6 => checked w 0x000007C0#32 [] true 0x00000000#32 0x00000000#32 true (.srl (field w 21 5) (field w 16 5) (field w 11 5))
  | 7 => checked w 0x000007C0#32 [] true 0x00000000#32 0x00000000#32 true (.sra (field w 21 5) (field w 16 5) (field w 11 5))
  | 8 => checked w 0x000007C0#32 [] true 0x00000000#32 0x00000000#32 true (.slt (field w 21 5) (field w 16 5) (field w 11 5))
  | 9 => checked w 0x000007C0#32 [] true 0x00000000#32 0x00000000#32 true (.sltu (field w 21 5) (field w 16 5) (field w 11 5))
  | 10 => checked w 0x000007C0#32 [] true 0x00000000#32 0x00000000#32 true (.min (field w 21 5) (field w 16 5) (field w 11 5))
  | 11 => checked w 0x000007C0#32 [] true 0x00000000#32 0x00000000#32 true (.max (field w 21 5) (field w 16 5) (field w 11 5))
  | 12 => checked w 0x000007C0#32 [] true 0x00000000#32 0x00000000#32 true (.minu (field w 21 5) (field w 16 5) (field w 11 5))
  | 13 => checked w 0x000007C0#32 [] true 0x00000000#32 0x00000000#32 true (.maxu (field w 21 5) (field w 16 5) (field w 11 5))
  | 14 => checked w 0x000007C0#32 [] true 0x00000000#32 0x00000000#32 true (.mul (field w 21 5) (field w 16 5) (field w 11 5))
  | 15 => checked w 0x000007C0#32 [] true 0x00000000#32 0x00000000#32 true (.mulh (field w 21 5) (field w 16 5) (field w 11 5))
  | 16 => checked w 0x000007C0#32 [] true 0x00000000#32 0x00000000#32 true (.mulhu (field w 21 5) (field w 16 5) (field w 11 5))
  | 17 => checked w 0x000007C0#32 [] true 0x00000000#32 0x00000000#32 true (.div (field w 21 5) (field w 16 5) (field w 11 5))
  | 18 => checked w 0x000007C0#32 [] true 0x00000000#32 0x00000000#32 true (.divu (field w 21 5) (field w 16 5) (field w 11 5))
  | 19 => checked w 0x000007C0#32 [] true 0x00000000#32 0x00000000#32 true (.rem (field w 21 5) (field w 16 5) (field w 11 5))
  | 20 => checked w 0x000007C0#32 [] true 0x00000000#32 0x00000000#32 true (.remu (field w 21 5) (field w 16 5) (field w 11 5))
  | 21 => checked w 0x0000FFC0#32 [] true 0x00000000#32 0x00000000#32 true (.popc (field w 21 5) (field w 16 5))
  | 22 => checked w 0x0000FFC0#32 [] true 0x00000000#32 0x00000000#32 true (.clz (field w 21 5) (field w 16 5))
  | 23 => checked w 0x0000FFC0#32 [] true 0x00000000#32 0x00000000#32 true (.ctz (field w 21 5) (field w 16 5))
  | _ => .error ⟨1, 0⟩

/-- Major 0x02 (R55). -/
def decodeAddi (w : BitVec 32) : Except DecodeError Instr :=
  checked w 0x00000000#32 [] true 0x00000000#32 0x00000000#32 true (.addi (field w 21 5) (field w 16 5) (field w 0 16))

/-- Major 0x03 (R55). -/
def decodeAndi (w : BitVec 32) : Except DecodeError Instr :=
  checked w 0x00000000#32 [] true 0x00000000#32 0x00000000#32 true (.andi (field w 21 5) (field w 16 5) (field w 0 16))

/-- Major 0x04 (R55). -/
def decodeOri (w : BitVec 32) : Except DecodeError Instr :=
  checked w 0x00000000#32 [] true 0x00000000#32 0x00000000#32 true (.ori (field w 21 5) (field w 16 5) (field w 0 16))

/-- Major 0x05 (R55). -/
def decodeXori (w : BitVec 32) : Except DecodeError Instr :=
  checked w 0x00000000#32 [] true 0x00000000#32 0x00000000#32 true (.xori (field w 21 5) (field w 16 5) (field w 0 16))

/-- Major 0x06 (R55). -/
def decodeSlti (w : BitVec 32) : Except DecodeError Instr :=
  checked w 0x00000000#32 [] true 0x00000000#32 0x00000000#32 true (.slti (field w 21 5) (field w 16 5) (field w 0 16))

/-- Major 0x07 (R55). -/
def decodeShi (w : BitVec 32) : Except DecodeError Instr :=
  match (field w 14 2).toNat with
  | 0 => checked w 0x00003FC0#32 [] true 0x00000000#32 0x00000000#32 true (.slli (field w 21 5) (field w 16 5) (field w 0 6))
  | 1 => checked w 0x00003FC0#32 [] true 0x00000000#32 0x00000000#32 true (.srli (field w 21 5) (field w 16 5) (field w 0 6))
  | 2 => checked w 0x00003FC0#32 [] true 0x00000000#32 0x00000000#32 true (.srai (field w 21 5) (field w 16 5) (field w 0 6))
  | _ => if field w 6 8 ≠ 0 then .error ⟨2, 0⟩ else .error ⟨7, 0⟩

/-- Major 0x08 (R55). -/
def decodeFps (w : BitVec 32) : Except DecodeError Instr :=
  match (field w 0 6).toNat with
  | 0 => checked w 0x000007C0#32 [] true 0x00000000#32 0x00000000#32 true (.fadd (field w 21 5) (field w 16 5) (field w 11 5))
  | 1 => checked w 0x000007C0#32 [] true 0x00000000#32 0x00000000#32 true (.fsub (field w 21 5) (field w 16 5) (field w 11 5))
  | 2 => checked w 0x000007C0#32 [] true 0x00000000#32 0x00000000#32 true (.fmul (field w 21 5) (field w 16 5) (field w 11 5))
  | 3 => checked w 0x000007C0#32 [] true 0x00000000#32 0x00000000#32 true (.fdiv (field w 21 5) (field w 16 5) (field w 11 5))
  | 4 => checked w 0x0000FFC0#32 [] true 0x00000000#32 0x00000000#32 true (.fsqrt (field w 21 5) (field w 16 5))
  | 5 => checked w 0x000007C0#32 [] true 0x00000000#32 0x00000000#32 true (.fmin (field w 21 5) (field w 16 5) (field w 11 5))
  | 6 => checked w 0x000007C0#32 [] true 0x00000000#32 0x00000000#32 true (.fmax (field w 21 5) (field w 16 5) (field w 11 5))
  | 7 => checked w 0x000007C0#32 [] true 0x00000000#32 0x00000000#32 true (.feq (field w 21 5) (field w 16 5) (field w 11 5))
  | 8 => checked w 0x000007C0#32 [] true 0x00000000#32 0x00000000#32 true (.flt (field w 21 5) (field w 16 5) (field w 11 5))
  | 9 => checked w 0x000007C0#32 [] true 0x00000000#32 0x00000000#32 true (.fle (field w 21 5) (field w 16 5) (field w 11 5))
  | 10 => checked w 0x0000FFC0#32 [] true 0x00000000#32 0x00000000#32 true (.fcvtfi (field w 21 5) (field w 16 5))
  | 11 => checked w 0x0000FFC0#32 [] true 0x00000000#32 0x00000000#32 true (.fcvtif (field w 21 5) (field w 16 5))
  | _ => .error ⟨1, 0⟩

/-- Major 0x09 (R55). -/
def decodeVfcmp (w : BitVec 32) : Except DecodeError Instr :=
  match (field w 0 3).toNat with
  | 0 => checked w 0x00000000#32 [((field w 21 5).toNat, 7)] true 0x00000000#32 0x00000000#32 true (.vfceq (field w 21 5) (field w 16 5) (field w 11 5) (field w 8 3) (field w 5 3) (field w 4 1) (field w 3 1))
  | 1 => checked w 0x00000000#32 [((field w 21 5).toNat, 7)] true 0x00000000#32 0x00000000#32 true (.vfcne (field w 21 5) (field w 16 5) (field w 11 5) (field w 8 3) (field w 5 3) (field w 4 1) (field w 3 1))
  | 2 => checked w 0x00000000#32 [((field w 21 5).toNat, 7)] true 0x00000000#32 0x00000000#32 true (.vfclt (field w 21 5) (field w 16 5) (field w 11 5) (field w 8 3) (field w 5 3) (field w 4 1) (field w 3 1))
  | 3 => checked w 0x00000000#32 [((field w 21 5).toNat, 7)] true 0x00000000#32 0x00000000#32 true (.vfcle (field w 21 5) (field w 16 5) (field w 11 5) (field w 8 3) (field w 5 3) (field w 4 1) (field w 3 1))
  | 4 => checked w 0x00000000#32 [((field w 21 5).toNat, 7)] true 0x00000000#32 0x00000000#32 true (.vfcgt (field w 21 5) (field w 16 5) (field w 11 5) (field w 8 3) (field w 5 3) (field w 4 1) (field w 3 1))
  | 5 => checked w 0x00000000#32 [((field w 21 5).toNat, 7)] true 0x00000000#32 0x00000000#32 true (.vfcge (field w 21 5) (field w 16 5) (field w 11 5) (field w 8 3) (field w 5 3) (field w 4 1) (field w 3 1))
  | 6 => checked w 0x00000000#32 [((field w 21 5).toNat, 7)] true 0x00000000#32 0x00000000#32 true (.vfcun (field w 21 5) (field w 16 5) (field w 11 5) (field w 8 3) (field w 5 3) (field w 4 1) (field w 3 1))
  | _ => .error ⟨1, 0⟩

/-- Major 0x0A (R55). -/
def decodeLui (w : BitVec 32) : Except DecodeError Instr :=
  checked w 0x00000000#32 [] true 0x00000000#32 0x00000000#32 true (.lui (field w 21 5) (field w 0 21))

/-- Major 0x0B (R55). -/
def decodeLqa (w : BitVec 32) : Except DecodeError Instr :=
  checked w 0x00000000#32 [] true 0x00000000#32 0x00000000#32 true (.lqa (field w 21 5) (field w 0 21))

/-- Major 0x0C (R55). -/
def decodeLdb (w : BitVec 32) : Except DecodeError Instr :=
  checked w 0x00000000#32 [] true 0x00000000#32 0x00000000#32 true (.ldb (field w 21 5) (field w 16 5) (field w 12 4) (field w 0 12))

/-- Major 0x0D (R55). -/
def decodeLdbu (w : BitVec 32) : Except DecodeError Instr :=
  checked w 0x00000000#32 [] true 0x00000000#32 0x00000000#32 true (.ldbu (field w 21 5) (field w 16 5) (field w 12 4) (field w 0 12))

/-- Major 0x0E (R55). -/
def decodeLdh (w : BitVec 32) : Except DecodeError Instr :=
  checked w 0x00000000#32 [] true 0x00000000#32 0x00000000#32 true (.ldh (field w 21 5) (field w 16 5) (field w 12 4) (field w 0 12))

/-- Major 0x0F (R55). -/
def decodeLdhu (w : BitVec 32) : Except DecodeError Instr :=
  checked w 0x00000000#32 [] true 0x00000000#32 0x00000000#32 true (.ldhu (field w 21 5) (field w 16 5) (field w 12 4) (field w 0 12))

/-- Major 0x10 (R55). -/
def decodeLdw (w : BitVec 32) : Except DecodeError Instr :=
  checked w 0x00000000#32 [] true 0x00000000#32 0x00000000#32 true (.ldw (field w 21 5) (field w 16 5) (field w 12 4) (field w 0 12))

/-- Major 0x11 (R55). -/
def decodeLdwu (w : BitVec 32) : Except DecodeError Instr :=
  checked w 0x00000000#32 [] true 0x00000000#32 0x00000000#32 true (.ldwu (field w 21 5) (field w 16 5) (field w 12 4) (field w 0 12))

/-- Major 0x12 (R55). -/
def decodeLdd (w : BitVec 32) : Except DecodeError Instr :=
  checked w 0x00000000#32 [] true 0x00000000#32 0x00000000#32 true (.ldd (field w 21 5) (field w 16 5) (field w 12 4) (field w 0 12))

/-- Major 0x13 (R55). -/
def decodeStb (w : BitVec 32) : Except DecodeError Instr :=
  checked w 0x00000000#32 [] true 0x00000000#32 0x00000000#32 true (.stb (field w 21 5) (field w 16 5) (field w 12 4) (field w 0 12))

/-- Major 0x14 (R55). -/
def decodeSth (w : BitVec 32) : Except DecodeError Instr :=
  checked w 0x00000000#32 [] true 0x00000000#32 0x00000000#32 true (.sth (field w 21 5) (field w 16 5) (field w 12 4) (field w 0 12))

/-- Major 0x15 (R55). -/
def decodeStw (w : BitVec 32) : Except DecodeError Instr :=
  checked w 0x00000000#32 [] true 0x00000000#32 0x00000000#32 true (.stw (field w 21 5) (field w 16 5) (field w 12 4) (field w 0 12))

/-- Major 0x16 (R55). -/
def decodeStd (w : BitVec 32) : Except DecodeError Instr :=
  checked w 0x00000000#32 [] true 0x00000000#32 0x00000000#32 true (.std (field w 21 5) (field w 16 5) (field w 12 4) (field w 0 12))

/-- Major 0x17 (R55). -/
def decodeBeq (w : BitVec 32) : Except DecodeError Instr :=
  checked w 0x00000000#32 [] true 0x00000000#32 0x00000000#32 true (.beq (field w 21 5) (field w 16 5) (field w 0 16))

/-- Major 0x18 (R55). -/
def decodeBne (w : BitVec 32) : Except DecodeError Instr :=
  checked w 0x00000000#32 [] true 0x00000000#32 0x00000000#32 true (.bne (field w 21 5) (field w 16 5) (field w 0 16))

/-- Major 0x19 (R55). -/
def decodeBlt (w : BitVec 32) : Except DecodeError Instr :=
  checked w 0x00000000#32 [] true 0x00000000#32 0x00000000#32 true (.blt (field w 21 5) (field w 16 5) (field w 0 16))

/-- Major 0x1A (R55). -/
def decodeBge (w : BitVec 32) : Except DecodeError Instr :=
  checked w 0x00000000#32 [] true 0x00000000#32 0x00000000#32 true (.bge (field w 21 5) (field w 16 5) (field w 0 16))

/-- Major 0x1B (R55). -/
def decodeBltu (w : BitVec 32) : Except DecodeError Instr :=
  checked w 0x00000000#32 [] true 0x00000000#32 0x00000000#32 true (.bltu (field w 21 5) (field w 16 5) (field w 0 16))

/-- Major 0x1C (R55). -/
def decodeBgeu (w : BitVec 32) : Except DecodeError Instr :=
  checked w 0x00000000#32 [] true 0x00000000#32 0x00000000#32 true (.bgeu (field w 21 5) (field w 16 5) (field w 0 16))

/-- Major 0x1D (R55). -/
def decodeJ (w : BitVec 32) : Except DecodeError Instr :=
  checked w 0x00000000#32 [] true 0x00000000#32 0x00000000#32 true (.j (field w 0 26))

/-- Major 0x1E (R55). -/
def decodeJal (w : BitVec 32) : Except DecodeError Instr :=
  checked w 0x00000000#32 [] true 0x00000000#32 0x00000000#32 true (.jal (field w 0 26))

/-- Major 0x1F (R55). -/
def decodeJalr (w : BitVec 32) : Except DecodeError Instr :=
  checked w 0x00000000#32 [] true 0x00000000#32 0x00000000#32 true (.jalr (field w 21 5) (field w 16 5) (field w 0 16))

/-- Major 0x20 (R55). -/
def decodeCtl (w : BitVec 32) : Except DecodeError Instr :=
  match (field w 0 4).toNat with
  | 0 => checked w 0x001F0000#32 [] (csrReadable (field w 4 12).toNat) 0x00000000#32 0x00000000#32 true (.csrr (field w 21 5) (field w 4 12))
  | 1 => checked w 0x03E00000#32 [] (csrWritable (field w 4 12).toNat) 0x00000000#32 0x00000000#32 true (.csrw (field w 16 5) (field w 4 12))
  | 2 => checked w 0x03E00000#32 [] (csrWritable (field w 4 12).toNat) 0x00000000#32 0x00000000#32 true (.csrs (field w 16 5) (field w 4 12))
  | 3 => checked w 0x03E00000#32 [] (csrWritable (field w 4 12).toNat) 0x00000000#32 0x00000000#32 true (.csrc (field w 16 5) (field w 4 12))
  | 5 => checked w 0x03FF0000#32 [] true 0x00000000#32 0x00000000#32 true (.trapu (field w 4 12))
  | 4 => checked w 0x03FFFFF0#32 [] true 0x00000000#32 0x00000000#32 true (.tret)
  | 6 => checked w 0x03FFFFF0#32 [] true 0x00000000#32 0x00000000#32 true (.yield)
  | _ => .error ⟨1, 0⟩

/-- Major 0x21 (R55). -/
def decodeVcfg (w : BitVec 32) : Except DecodeError Instr :=
  match (field w 0 6).toNat with
  | 0 => checked w 0x0000FFC0#32 [] true 0x00000000#32 0x00000000#32 true (.setvl (field w 21 5) (field w 16 5))
  | 1 => checked w 0x000007C0#32 [] true 0x00000000#32 0x00000000#32 true (.setvlhw (field w 21 5) (field w 16 5) (field w 11 5))
  | 2 => checked w 0x0000FFC0#32 [] true 0x00000000#32 0x00000000#32 true (.settype (field w 21 5) (field w 16 5))
  | _ => .error ⟨1, 0⟩

/-- Major 0x22 (R55). -/
def decodeVint (w : BitVec 32) : Except DecodeError Instr :=
  match (field w 0 3).toNat with
  | 0 => checked w 0x000000E0#32 [] true 0x00000000#32 0x00000000#32 true (.vadd (field w 21 5) (field w 16 5) (field w 11 5) (field w 8 3) (field w 4 1) (field w 3 1))
  | 1 => checked w 0x000000E0#32 [] true 0x00000000#32 0x00000000#32 true (.vsub (field w 21 5) (field w 16 5) (field w 11 5) (field w 8 3) (field w 4 1) (field w 3 1))
  | 2 => checked w 0x000000E0#32 [] true 0x00000000#32 0x00000000#32 true (.vmul (field w 21 5) (field w 16 5) (field w 11 5) (field w 8 3) (field w 4 1) (field w 3 1))
  | 3 => checked w 0x000000E0#32 [] true 0x00000000#32 0x00000000#32 true (.vmulh (field w 21 5) (field w 16 5) (field w 11 5) (field w 8 3) (field w 4 1) (field w 3 1))
  | 4 => checked w 0x000000E0#32 [] true 0x00000000#32 0x00000000#32 true (.vmin (field w 21 5) (field w 16 5) (field w 11 5) (field w 8 3) (field w 4 1) (field w 3 1))
  | 5 => checked w 0x000000E0#32 [] true 0x00000000#32 0x00000000#32 true (.vmax (field w 21 5) (field w 16 5) (field w 11 5) (field w 8 3) (field w 4 1) (field w 3 1))
  | 6 => checked w 0x000000E0#32 [] true 0x00000000#32 0x00000000#32 true (.vminu (field w 21 5) (field w 16 5) (field w 11 5) (field w 8 3) (field w 4 1) (field w 3 1))
  | 7 => checked w 0x000000E0#32 [] true 0x00000000#32 0x00000000#32 true (.vmaxu (field w 21 5) (field w 16 5) (field w 11 5) (field w 8 3) (field w 4 1) (field w 3 1))
  | _ => .error ⟨1, 0⟩

/-- Major 0x23 (R55). -/
def decodeVlog (w : BitVec 32) : Except DecodeError Instr :=
  match (field w 0 3).toNat with
  | 0 => checked w 0x000000E0#32 [] true 0x00000000#32 0x00000000#32 true (.vand (field w 21 5) (field w 16 5) (field w 11 5) (field w 8 3) (field w 4 1) (field w 3 1))
  | 1 => checked w 0x000000E0#32 [] true 0x00000000#32 0x00000000#32 true (.vor (field w 21 5) (field w 16 5) (field w 11 5) (field w 8 3) (field w 4 1) (field w 3 1))
  | 2 => checked w 0x000000E0#32 [] true 0x00000000#32 0x00000000#32 true (.vxor (field w 21 5) (field w 16 5) (field w 11 5) (field w 8 3) (field w 4 1) (field w 3 1))
  | 3 => checked w 0x000000E0#32 [] true 0x00000000#32 0x00000000#32 true (.vsll (field w 21 5) (field w 16 5) (field w 11 5) (field w 8 3) (field w 4 1) (field w 3 1))
  | 4 => checked w 0x000000E0#32 [] true 0x00000000#32 0x00000000#32 true (.vsrl (field w 21 5) (field w 16 5) (field w 11 5) (field w 8 3) (field w 4 1) (field w 3 1))
  | 5 => checked w 0x000000E0#32 [] true 0x00000000#32 0x00000000#32 true (.vsra (field w 21 5) (field w 16 5) (field w 11 5) (field w 8 3) (field w 4 1) (field w 3 1))
  | 6 => checked w 0x0000F8E8#32 [] true 0x00000000#32 0x00000000#32 true (.vpopc (field w 21 5) (field w 16 5) (field w 8 3) (field w 4 1))
  | 7 => checked w 0x0000F8E8#32 [] true 0x00000000#32 0x00000000#32 true (.vclz (field w 21 5) (field w 16 5) (field w 8 3) (field w 4 1))
  | _ => .error ⟨1, 0⟩

/-- Major 0x24 (R55). -/
def decodeVfp (w : BitVec 32) : Except DecodeError Instr :=
  match (field w 0 3).toNat with
  | 0 => checked w 0x00000000#32 [] true 0x00000000#32 0x00000000#32 true (.vfadd (field w 21 5) (field w 16 5) (field w 11 5) (field w 8 3) (field w 5 3) (field w 4 1) (field w 3 1))
  | 1 => checked w 0x00000000#32 [] true 0x00000000#32 0x00000000#32 true (.vfsub (field w 21 5) (field w 16 5) (field w 11 5) (field w 8 3) (field w 5 3) (field w 4 1) (field w 3 1))
  | 2 => checked w 0x00000000#32 [] true 0x00000000#32 0x00000000#32 true (.vfmul (field w 21 5) (field w 16 5) (field w 11 5) (field w 8 3) (field w 5 3) (field w 4 1) (field w 3 1))
  | 3 => checked w 0x00000000#32 [] true 0x00000000#32 0x00000000#32 true (.vfdiv (field w 21 5) (field w 16 5) (field w 11 5) (field w 8 3) (field w 5 3) (field w 4 1) (field w 3 1))
  | 4 => checked w 0x00000000#32 [] true 0x00000000#32 0x00000000#32 true (.vfmin (field w 21 5) (field w 16 5) (field w 11 5) (field w 8 3) (field w 5 3) (field w 4 1) (field w 3 1))
  | 5 => checked w 0x00000000#32 [] true 0x00000000#32 0x00000000#32 true (.vfmax (field w 21 5) (field w 16 5) (field w 11 5) (field w 8 3) (field w 5 3) (field w 4 1) (field w 3 1))
  | 6 => checked w 0x0000F808#32 [] true 0x00000000#32 0x00000000#32 true (.vfsqrt (field w 21 5) (field w 16 5) (field w 8 3) (field w 5 3) (field w 4 1))
  | 7 => checked w 0x0000F808#32 [] true 0x00000000#32 0x00000000#32 true (.vfrsq (field w 21 5) (field w 16 5) (field w 8 3) (field w 5 3) (field w 4 1))
  | _ => .error ⟨1, 0⟩

/-- Major 0x25 (R55). -/
def decodeVfma (w : BitVec 32) : Except DecodeError Instr :=
  match (field w 0 3).toNat with
  | 0 => checked w 0x00000000#32 [] true 0x00000000#32 0x00000000#32 true (.vfma (field w 21 5) (field w 16 5) (field w 11 5) (field w 8 3) (field w 5 3) (field w 4 1) (field w 3 1))
  | 1 => checked w 0x00000000#32 [] true 0x00000000#32 0x00000000#32 true (.vfms (field w 21 5) (field w 16 5) (field w 11 5) (field w 8 3) (field w 5 3) (field w 4 1) (field w 3 1))
  | 2 => checked w 0x00000000#32 [] true 0x00000000#32 0x00000000#32 true (.vfnma (field w 21 5) (field w 16 5) (field w 11 5) (field w 8 3) (field w 5 3) (field w 4 1) (field w 3 1))
  | 3 => checked w 0x00000000#32 [] true 0x00000000#32 0x00000000#32 true (.vfnms (field w 21 5) (field w 16 5) (field w 11 5) (field w 8 3) (field w 5 3) (field w 4 1) (field w 3 1))
  | 4 => checked w 0x0000F808#32 [] true 0x00000000#32 0x00000000#32 true (.vfexp2 (field w 21 5) (field w 16 5) (field w 8 3) (field w 5 3) (field w 4 1))
  | 5 => checked w 0x0000F808#32 [] true 0x00000000#32 0x00000000#32 true (.vflog2 (field w 21 5) (field w 16 5) (field w 8 3) (field w 5 3) (field w 4 1))
  | 6 => checked w 0x0000F808#32 [] true 0x00000000#32 0x00000000#32 true (.vfrcp (field w 21 5) (field w 16 5) (field w 8 3) (field w 5 3) (field w 4 1))
  | 7 => checked w 0x0000F8E8#32 [] true 0x00000000#32 0x00000000#32 true (.vfclass (field w 21 5) (field w 16 5) (field w 8 3) (field w 4 1))
  | _ => .error ⟨1, 0⟩

/-- Major 0x26 (R55). -/
def decodeVcmp (w : BitVec 32) : Except DecodeError Instr :=
  match (field w 0 3).toNat with
  | 0 => checked w 0x000000E0#32 [((field w 21 5).toNat, 7)] true 0x00000000#32 0x00000000#32 true (.vceq (field w 21 5) (field w 16 5) (field w 11 5) (field w 8 3) (field w 4 1) (field w 3 1))
  | 1 => checked w 0x000000E0#32 [((field w 21 5).toNat, 7)] true 0x00000000#32 0x00000000#32 true (.vcne (field w 21 5) (field w 16 5) (field w 11 5) (field w 8 3) (field w 4 1) (field w 3 1))
  | 2 => checked w 0x000000E0#32 [((field w 21 5).toNat, 7)] true 0x00000000#32 0x00000000#32 true (.vclt (field w 21 5) (field w 16 5) (field w 11 5) (field w 8 3) (field w 4 1) (field w 3 1))
  | 3 => checked w 0x000000E0#32 [((field w 21 5).toNat, 7)] true 0x00000000#32 0x00000000#32 true (.vcle (field w 21 5) (field w 16 5) (field w 11 5) (field w 8 3) (field w 4 1) (field w 3 1))
  | 4 => checked w 0x000000E0#32 [((field w 21 5).toNat, 7)] true 0x00000000#32 0x00000000#32 true (.vcltu (field w 21 5) (field w 16 5) (field w 11 5) (field w 8 3) (field w 4 1) (field w 3 1))
  | 5 => checked w 0x000000E0#32 [((field w 21 5).toNat, 7)] true 0x00000000#32 0x00000000#32 true (.vcleu (field w 21 5) (field w 16 5) (field w 11 5) (field w 8 3) (field w 4 1) (field w 3 1))
  | 6 => checked w 0x000000E0#32 [((field w 21 5).toNat, 7)] true 0x00000000#32 0x00000000#32 true (.vcgt (field w 21 5) (field w 16 5) (field w 11 5) (field w 8 3) (field w 4 1) (field w 3 1))
  | 7 => checked w 0x000000E0#32 [((field w 21 5).toNat, 7)] true 0x00000000#32 0x00000000#32 true (.vcgtu (field w 21 5) (field w 16 5) (field w 11 5) (field w 8 3) (field w 4 1) (field w 3 1))
  | _ => .error ⟨1, 0⟩

/-- Major 0x27 (R55). -/
def decodeVcvt (w : BitVec 32) : Except DecodeError Instr :=
  match (field w 0 3).toNat with
  | 0 => checked w 0x0000F808#32 [] true 0x00000000#32 0x00000000#32 true (.vcvtFBf (field w 21 5) (field w 16 5) (field w 8 3) (field w 5 3) (field w 4 1))
  | 1 => checked w 0x0000F808#32 [] true 0x00000000#32 0x00000000#32 true (.vcvtBfF (field w 21 5) (field w 16 5) (field w 8 3) (field w 5 3) (field w 4 1))
  | 2 => checked w 0x0000F808#32 [] true 0x00000000#32 0x00000000#32 true (.vcvtFI (field w 21 5) (field w 16 5) (field w 8 3) (field w 5 3) (field w 4 1))
  | 3 => checked w 0x0000F808#32 [] true 0x00000000#32 0x00000000#32 true (.vcvtIF (field w 21 5) (field w 16 5) (field w 8 3) (field w 5 3) (field w 4 1))
  | 4 => checked w 0x0000F8E8#32 [] true 0x00000000#32 0x00000000#32 true (.vwiden (field w 21 5) (field w 16 5) (field w 8 3) (field w 4 1))
  | 5 => checked w 0x0000F8E8#32 [] true 0x00000000#32 0x00000000#32 true (.vwidenu (field w 21 5) (field w 16 5) (field w 8 3) (field w 4 1))
  | 6 => checked w 0x0000F8E8#32 [] true 0x00000000#32 0x00000000#32 true (.vnarrow (field w 21 5) (field w 16 5) (field w 8 3) (field w 4 1))
  | 7 => checked w 0x0000F8E8#32 [] true 0x00000000#32 0x00000000#32 true (.vnarrowu (field w 21 5) (field w 16 5) (field w 8 3) (field w 4 1))
  | _ => .error ⟨1, 0⟩

/-- Major 0x28 (R55). -/
def decodeVmov (w : BitVec 32) : Except DecodeError Instr :=
  match (field w 0 3).toNat with
  | 0 => checked w 0x0000F8E8#32 [] true 0x00000000#32 0x00000000#32 true (.vmv (field w 21 5) (field w 16 5) (field w 8 3) (field w 4 1))
  | 1 => checked w 0x001F00F0#32 [] true 0x00000008#32 0x00000008#32 true (.vbcast (field w 21 5) (field w 11 5) (field w 8 3))
  | 2 => checked w 0x000000E0#32 [] true 0x00000000#32 0x00000000#32 true (.vmerge (field w 21 5) (field w 16 5) (field w 11 5) (field w 8 3) (field w 4 1) (field w 3 1))
  | 3 => checked w 0x000007F0#32 [] true 0x00000008#32 0x00000008#32 true (.vextr (field w 21 5) (field w 16 5) (field w 11 5))
  | 4 => checked w 0x000007F0#32 [] true 0x00000008#32 0x00000008#32 true (.vins (field w 21 5) (field w 16 5) (field w 11 5))
  | 5 => checked w 0x001FF8F8#32 [] true 0x00000000#32 0x00000000#32 true (.vid (field w 21 5) (field w 8 3))
  | 6 => checked w 0x0000F8F8#32 [((field w 16 5).toNat, 7)] true 0x00000000#32 0x00000000#32 true (.viota (field w 21 5) (field w 16 5) (field w 8 3))
  | 7 => checked w 0x0000F8E8#32 [] true 0x00000000#32 0x00000000#32 true (.vcompress (field w 21 5) (field w 16 5) (field w 8 3) (field w 4 1))
  | _ => .error ⟨1, 0⟩

/-- Major 0x29 (R55). -/
def decodeVperm (w : BitVec 32) : Except DecodeError Instr :=
  match (field w 0 3).toNat with
  | 0 => checked w 0x000000E0#32 [] true 0x00000008#32 0x00000008#32 true (.vslideup (field w 21 5) (field w 16 5) (field w 11 5) (field w 8 3) (field w 4 1))
  | 1 => checked w 0x000000E0#32 [] true 0x00000008#32 0x00000008#32 true (.vslidedn (field w 21 5) (field w 16 5) (field w 11 5) (field w 8 3) (field w 4 1))
  | 2 => checked w 0x000000E0#32 [] true 0x00000008#32 0x00000000#32 true (.vpermute (field w 21 5) (field w 16 5) (field w 11 5) (field w 8 3) (field w 4 1))
  | 3 => checked w 0x0000F8E8#32 [] true 0x00000000#32 0x00000000#32 true (.vexpand (field w 21 5) (field w 16 5) (field w 8 3) (field w 4 1))
  | 4 => checked w 0x0000F8E8#32 [((field w 21 5).toNat, 7)] true 0x00000000#32 0x00000000#32 true (.vconflict (field w 21 5) (field w 16 5) (field w 8 3) (field w 4 1))
  | 5 => checked w 0x000000E0#32 [] true 0x00000008#32 0x00000008#32 true (.vtopk (field w 21 5) (field w 16 5) (field w 11 5) (field w 8 3) (field w 4 1))
  | 6 => checked w 0x0000F8E8#32 [] true 0x00000000#32 0x00000000#32 true (.vrev (field w 21 5) (field w 16 5) (field w 8 3) (field w 4 1))
  | 7 => checked w 0x000000E0#32 [] true 0x00000008#32 0x00000008#32 true (.vscan (field w 21 5) (field w 16 5) (field w 11 5) (field w 8 3) (field w 4 1))
  | _ => .error ⟨1, 0⟩

/-- Major 0x2A (R55). -/
def decodeVred (w : BitVec 32) : Except DecodeError Instr :=
  match (field w 0 3).toNat with
  | 0 => checked w 0x000000E0#32 [] true 0x00000008#32 0x00000008#32 true (.vredsum (field w 21 5) (field w 16 5) (field w 11 5) (field w 8 3) (field w 4 1))
  | 1 => checked w 0x000000E0#32 [] true 0x00000008#32 0x00000008#32 true (.vfredsum (field w 21 5) (field w 16 5) (field w 11 5) (field w 8 3) (field w 4 1))
  | 2 => checked w 0x000000E0#32 [] true 0x00000008#32 0x00000008#32 true (.vfredosum (field w 21 5) (field w 16 5) (field w 11 5) (field w 8 3) (field w 4 1))
  | 3 => checked w 0x000000E0#32 [] true 0x00000008#32 0x00000008#32 true (.vredmin (field w 21 5) (field w 16 5) (field w 11 5) (field w 8 3) (field w 4 1))
  | 4 => checked w 0x000000E0#32 [] true 0x00000008#32 0x00000008#32 true (.vredmax (field w 21 5) (field w 16 5) (field w 11 5) (field w 8 3) (field w 4 1))
  | 5 => checked w 0x0000F8E8#32 [] true 0x00000000#32 0x00000000#32 true (.vfredmini (field w 21 5) (field w 16 5) (field w 8 3) (field w 4 1))
  | 6 => checked w 0x0000F8E8#32 [] true 0x00000000#32 0x00000000#32 true (.vfredmaxi (field w 21 5) (field w 16 5) (field w 8 3) (field w 4 1))
  | 7 => checked w 0x0000F8E8#32 [] true 0x00000000#32 0x00000000#32 true (.vredminui (field w 21 5) (field w 16 5) (field w 8 3) (field w 4 1))
  | _ => .error ⟨1, 0⟩

/-- Major 0x2B (R55). -/
def decodeVmask (w : BitVec 32) : Except DecodeError Instr :=
  match (field w 0 3).toNat with
  | 0 => checked w 0x000007F8#32 [((field w 21 5).toNat, 7), ((field w 16 5).toNat, 7), ((field w 11 5).toNat, 7)] true 0x00000000#32 0x00000000#32 true (.kand (field w 21 5) (field w 16 5) (field w 11 5))
  | 1 => checked w 0x000007F8#32 [((field w 21 5).toNat, 7), ((field w 16 5).toNat, 7), ((field w 11 5).toNat, 7)] true 0x00000000#32 0x00000000#32 true (.kor (field w 21 5) (field w 16 5) (field w 11 5))
  | 2 => checked w 0x000007F8#32 [((field w 21 5).toNat, 7), ((field w 16 5).toNat, 7), ((field w 11 5).toNat, 7)] true 0x00000000#32 0x00000000#32 true (.kxor (field w 21 5) (field w 16 5) (field w 11 5))
  | 3 => checked w 0x000007F8#32 [((field w 21 5).toNat, 7), ((field w 16 5).toNat, 7), ((field w 11 5).toNat, 7)] true 0x00000000#32 0x00000000#32 true (.kandn (field w 21 5) (field w 16 5) (field w 11 5))
  | 4 => checked w 0x0000FFF8#32 [((field w 21 5).toNat, 7), ((field w 16 5).toNat, 7)] true 0x00000000#32 0x00000000#32 true (.knot (field w 21 5) (field w 16 5))
  | 5 => checked w 0x001FFFF8#32 [((field w 21 5).toNat, 7)] true 0x00000000#32 0x00000000#32 true (.kloop (field w 21 5))
  | 6 => checked w 0x0000FFF8#32 [((field w 21 5).toNat, 7), ((field w 16 5).toNat, 7)] true 0x00000000#32 0x00000000#32 true (.kpopc (field w 21 5) (field w 16 5))
  | 7 => checked w 0x0000FFF8#32 [((field w 21 5).toNat, 7), ((field w 16 5).toNat, 7)] true 0x00000000#32 0x00000000#32 true (.kfirst (field w 21 5) (field w 16 5))
  | _ => .error ⟨1, 0⟩

/-- Major 0x2C (R55). -/
def decodeVld (w : BitVec 32) : Except DecodeError Instr :=
  checked w 0x00000000#32 [] true 0x00000000#32 0x00000000#32 ((field w 0 4).toNat ≤ 13) (.vld (field w 21 5) (field w 16 5) (field w 11 5) (field w 8 3) (field w 4 4) (field w 0 4))

/-- Major 0x2D (R55). -/
def decodeVlds (w : BitVec 32) : Except DecodeError Instr :=
  checked w 0x00000000#32 [] true 0x00000000#32 0x00000000#32 ((field w 0 4).toNat ≤ 13) (.vlds (field w 21 5) (field w 16 5) (field w 11 5) (field w 8 3) (field w 4 4) (field w 0 4))

/-- Major 0x2E (R55). -/
def decodeVldx (w : BitVec 32) : Except DecodeError Instr :=
  checked w 0x00000000#32 [] true 0x00000000#32 0x00000000#32 ((field w 0 4).toNat ≤ 13) (.vldx (field w 21 5) (field w 16 5) (field w 11 5) (field w 8 3) (field w 4 4) (field w 0 4))

/-- Major 0x2F (R55). -/
def decodeVldl (w : BitVec 32) : Except DecodeError Instr :=
  checked w 0x00000000#32 [] true 0x00000000#32 0x00000000#32 ((field w 0 4).toNat ≤ 13) (.vldl (field w 21 5) (field w 16 5) (field w 11 5) (field w 8 3) (field w 4 4) (field w 0 4))

/-- Major 0x30 (R55). -/
def decodeVst (w : BitVec 32) : Except DecodeError Instr :=
  checked w 0x00000000#32 [] true 0x00000000#32 0x00000000#32 ((field w 0 4).toNat ≤ 13) (.vst (field w 21 5) (field w 16 5) (field w 11 5) (field w 8 3) (field w 4 4) (field w 0 4))

/-- Major 0x31 (R55). -/
def decodeVsts (w : BitVec 32) : Except DecodeError Instr :=
  checked w 0x00000000#32 [] true 0x00000000#32 0x00000000#32 ((field w 0 4).toNat ≤ 13) (.vsts (field w 21 5) (field w 16 5) (field w 11 5) (field w 8 3) (field w 4 4) (field w 0 4))

/-- Major 0x32 (R55). -/
def decodeVstx (w : BitVec 32) : Except DecodeError Instr :=
  checked w 0x00000000#32 [] true 0x00000000#32 0x00000000#32 ((field w 0 4).toNat ≤ 13) (.vstx (field w 21 5) (field w 16 5) (field w 11 5) (field w 8 3) (field w 4 4) (field w 0 4))

/-- Major 0x33 (R55). -/
def decodeVstl (w : BitVec 32) : Except DecodeError Instr :=
  checked w 0x00000000#32 [] true 0x00000000#32 0x00000000#32 ((field w 0 4).toNat ≤ 13) (.vstl (field w 21 5) (field w 16 5) (field w 11 5) (field w 8 3) (field w 4 4) (field w 0 4))

/-- Major 0x34 (R55). -/
def decodeVldb (w : BitVec 32) : Except DecodeError Instr :=
  checked w 0x00000000#32 [] true 0x00000000#32 0x00000000#32 ((field w 0 4).toNat ≤ 13) (.vldb (field w 21 5) (field w 16 5) (field w 11 5) (field w 8 3) (field w 4 4) (field w 0 4))

/-- Major 0x35 (R55). -/
def decodeStream (w : BitVec 32) : Except DecodeError Instr :=
  match (field w 0 6).toNat with
  | 0 => checked w 0x0000FFC0#32 [] true 0x00000000#32 0x00000000#32 true (.sbind (field w 21 5) (field w 16 5))
  | 1 => checked w 0x001FFFC0#32 [] true 0x00000000#32 0x00000000#32 true (.sunbind (field w 21 5))
  | 2 => checked w 0x0000FFC0#32 [] true 0x00000000#32 0x00000000#32 true (.send (field w 21 5) (field w 16 5))
  | 3 => checked w 0x0000FFC0#32 [] true 0x00000000#32 0x00000000#32 true (.sseek (field w 21 5) (field w 16 5))
  | 4 => checked w 0x0000FFC0#32 [] true 0x00000000#32 0x00000000#32 true (.spos (field w 21 5) (field w 16 5))
  | _ => .error ⟨1, 0⟩

/-- Major 0x36 (R55). -/
def decodeDiag (w : BitVec 32) : Except DecodeError Instr :=
  match (field w 0 5).toNat with
  | 0 => checked w 0x007FFC00#32 [] true 0x00000000#32 0x00000000#32 true (.dcfg (field w 23 3) (field w 5 5))
  | 1 => checked w 0x007FFFE0#32 [] true 0x00000000#32 0x00000000#32 true (.dzero (field w 23 3))
  | 2 => checked w 0x00000000#32 [] true 0x00000000#32 0x00000000#32 true (.dmac (field w 23 3) (field w 20 3) (field w 15 5) (field w 10 5) (field w 5 5))
  | 3 => checked w 0x00000000#32 [] true 0x00000000#32 0x00000000#32 true (.dmacs (field w 23 3) (field w 20 3) (field w 15 5) (field w 10 5) (field w 5 5))
  | 4 => checked w 0x000F8000#32 [] true 0x00000000#32 0x00000000#32 true (.dmact (field w 23 3) (field w 20 3) (field w 10 5) (field w 5 5))
  | 5 => checked w 0x00700000#32 [] true 0x00000000#32 0x00000000#32 true (.dmm (field w 23 3) (field w 15 5) (field w 10 5) (field w 5 5))
  | 6 => checked w 0x00007C00#32 [] true 0x00000000#32 0x00000000#32 true (.drd (field w 23 3) (field w 20 3) (field w 15 5) (field w 5 5))
  | 7 => checked w 0x00007C00#32 [] true 0x00000000#32 0x00000000#32 true (.dwr (field w 23 3) (field w 20 3) (field w 15 5) (field w 5 5))
  | 8 => checked w 0x007FFC00#32 [] true 0x00000000#32 0x00000000#32 true (.dwmark (field w 23 3) (field w 5 5))
  | _ => .error ⟨1, 0⟩

/-- Major 0x37 (R55). -/
def decodeTree (w : BitVec 32) : Except DecodeError Instr :=
  match (field w 0 3).toNat with
  | 0 => checked w 0x03E007F0#32 [((field w 16 5).toNat, 3)] true 0x00000008#32 0x00000008#32 true (.ttclr (field w 16 5) (field w 11 5))
  | 1 => checked w 0x000007F0#32 [((field w 16 5).toNat, 3)] true 0x00000008#32 0x00000000#32 true (.ttadd (field w 21 5) (field w 16 5) (field w 11 5))
  | 2 => checked w 0x000007F0#32 [((field w 21 5).toNat, 7), ((field w 16 5).toNat, 3)] true 0x00000008#32 0x00000008#32 true (.ttmask (field w 21 5) (field w 16 5) (field w 11 5))
  | 3 => checked w 0x0000FFF0#32 [((field w 16 5).toNat, 3)] true 0x00000008#32 0x00000000#32 true (.ttpos (field w 21 5) (field w 16 5))
  | 4 => checked w 0x000007F0#32 [((field w 16 5).toNat, 3)] true 0x00000008#32 0x00000008#32 true (.ttpath (field w 21 5) (field w 16 5) (field w 11 5))
  | 5 => checked w 0x000007F0#32 [((field w 16 5).toNat, 3)] true 0x00000008#32 0x00000008#32 true (.ttprune (field w 21 5) (field w 16 5) (field w 11 5))
  | 6 => checked w 0x000007F0#32 [((field w 16 5).toNat, 3)] true 0x00000008#32 0x00000008#32 true (.ttcommit (field w 21 5) (field w 16 5) (field w 11 5))
  | 7 => checked w 0x0000FFF0#32 [((field w 16 5).toNat, 3)] true 0x00000008#32 0x00000000#32 true (.ttcount (field w 21 5) (field w 16 5))
  | _ => .error ⟨1, 0⟩

/-- Major 0x38 (R55). -/
def decodeKv (w : BitVec 32) : Except DecodeError Instr :=
  match (field w 0 3).toNat with
  | 0 => checked w 0x000000E0#32 [] true 0x00000008#32 0x00000008#32 true (.kvwalk (field w 21 5) (field w 16 5) (field w 11 5) (field w 8 3) (field w 4 1))
  | 1 => checked w 0x03E000E0#32 [] true 0x00000008#32 0x00000008#32 true (.kvhint (field w 16 5) (field w 11 5) (field w 8 3) (field w 4 1))
  | 2 => checked w 0x03E0F8E0#32 [] true 0x00000008#32 0x00000000#32 true (.kvdrop (field w 16 5) (field w 8 3) (field w 4 1))
  | _ => .error ⟨1, 0⟩

/-- Major 0x39 (R55). -/
def decodeAmo (w : BitVec 32) : Except DecodeError Instr :=
  match (field w 0 5).toNat with
  | 0 => checked w 0x00000000#32 [] true 0x00000000#32 0x00000000#32 true (.amoadd (field w 21 5) (field w 16 5) (field w 11 5) (field w 7 4) (field w 5 2) (field w 0 1))
  | 1 => checked w 0x00000000#32 [] true 0x00000000#32 0x00000000#32 true (.amoadd (field w 21 5) (field w 16 5) (field w 11 5) (field w 7 4) (field w 5 2) (field w 0 1))
  | 2 => checked w 0x00000000#32 [] true 0x00000000#32 0x00000000#32 true (.amomin (field w 21 5) (field w 16 5) (field w 11 5) (field w 7 4) (field w 5 2) (field w 0 1))
  | 3 => checked w 0x00000000#32 [] true 0x00000000#32 0x00000000#32 true (.amomin (field w 21 5) (field w 16 5) (field w 11 5) (field w 7 4) (field w 5 2) (field w 0 1))
  | 4 => checked w 0x00000000#32 [] true 0x00000000#32 0x00000000#32 true (.amomax (field w 21 5) (field w 16 5) (field w 11 5) (field w 7 4) (field w 5 2) (field w 0 1))
  | 5 => checked w 0x00000000#32 [] true 0x00000000#32 0x00000000#32 true (.amomax (field w 21 5) (field w 16 5) (field w 11 5) (field w 7 4) (field w 5 2) (field w 0 1))
  | 6 => checked w 0x00000000#32 [] true 0x00000000#32 0x00000000#32 true (.amominu (field w 21 5) (field w 16 5) (field w 11 5) (field w 7 4) (field w 5 2) (field w 0 1))
  | 7 => checked w 0x00000000#32 [] true 0x00000000#32 0x00000000#32 true (.amominu (field w 21 5) (field w 16 5) (field w 11 5) (field w 7 4) (field w 5 2) (field w 0 1))
  | 8 => checked w 0x00000000#32 [] true 0x00000000#32 0x00000000#32 true (.amomaxu (field w 21 5) (field w 16 5) (field w 11 5) (field w 7 4) (field w 5 2) (field w 0 1))
  | 9 => checked w 0x00000000#32 [] true 0x00000000#32 0x00000000#32 true (.amomaxu (field w 21 5) (field w 16 5) (field w 11 5) (field w 7 4) (field w 5 2) (field w 0 1))
  | 10 => checked w 0x00000000#32 [] true 0x00000000#32 0x00000000#32 true (.amoand (field w 21 5) (field w 16 5) (field w 11 5) (field w 7 4) (field w 5 2) (field w 0 1))
  | 11 => checked w 0x00000000#32 [] true 0x00000000#32 0x00000000#32 true (.amoand (field w 21 5) (field w 16 5) (field w 11 5) (field w 7 4) (field w 5 2) (field w 0 1))
  | 12 => checked w 0x00000000#32 [] true 0x00000000#32 0x00000000#32 true (.amoor (field w 21 5) (field w 16 5) (field w 11 5) (field w 7 4) (field w 5 2) (field w 0 1))
  | 13 => checked w 0x00000000#32 [] true 0x00000000#32 0x00000000#32 true (.amoor (field w 21 5) (field w 16 5) (field w 11 5) (field w 7 4) (field w 5 2) (field w 0 1))
  | 14 => checked w 0x00000000#32 [] true 0x00000000#32 0x00000000#32 true (.amoxor (field w 21 5) (field w 16 5) (field w 11 5) (field w 7 4) (field w 5 2) (field w 0 1))
  | 15 => checked w 0x00000000#32 [] true 0x00000000#32 0x00000000#32 true (.amoxor (field w 21 5) (field w 16 5) (field w 11 5) (field w 7 4) (field w 5 2) (field w 0 1))
  | 16 => checked w 0x00000000#32 [] true 0x00000000#32 0x00000000#32 true (.amoswp (field w 21 5) (field w 16 5) (field w 11 5) (field w 7 4) (field w 5 2) (field w 0 1))
  | 17 => checked w 0x00000000#32 [] true 0x00000000#32 0x00000000#32 true (.amoswp (field w 21 5) (field w 16 5) (field w 11 5) (field w 7 4) (field w 5 2) (field w 0 1))
  | 18 => checked w 0x00000000#32 [] true 0x00000000#32 0x00000000#32 true (.amocas (field w 21 5) (field w 16 5) (field w 11 5) (field w 7 4) (field w 5 2) (field w 0 1))
  | 19 => checked w 0x00000000#32 [] true 0x00000000#32 0x00000000#32 true (.amocas (field w 21 5) (field w 16 5) (field w 11 5) (field w 7 4) (field w 5 2) (field w 0 1))
  | 20 => checked w 0x00000000#32 [] true 0x00000000#32 0x00000000#32 true (.amofadd (field w 21 5) (field w 16 5) (field w 11 5) (field w 7 4) (field w 5 2))
  | 22 => checked w 0x0000F800#32 [] true 0x00000040#32 0x00000000#32 true (.lda (field w 21 5) (field w 16 5) (field w 7 4) (field w 5 1) (field w 0 1))
  | 23 => checked w 0x0000F800#32 [] true 0x00000040#32 0x00000000#32 true (.lda (field w 21 5) (field w 16 5) (field w 7 4) (field w 5 1) (field w 0 1))
  | 24 => checked w 0x03E00000#32 [] true 0x00000020#32 0x00000000#32 true (.stl (field w 16 5) (field w 11 5) (field w 7 4) (field w 6 1) (field w 0 1))
  | 25 => checked w 0x03E00000#32 [] true 0x00000020#32 0x00000000#32 true (.stl (field w 16 5) (field w 11 5) (field w 7 4) (field w 6 1) (field w 0 1))
  | _ => .error ⟨1, 0⟩

/-- Major 0x3A (R55). -/
def decodeVamo (w : BitVec 32) : Except DecodeError Instr :=
  match (field w 0 4).toNat with
  | 0 => checked w 0x00000000#32 [] true 0x00000000#32 0x00000000#32 true (.vamoadd (field w 21 5) (field w 16 5) (field w 11 5) (field w 8 3) (field w 4 4))
  | 1 => checked w 0x00000000#32 [] true 0x00000000#32 0x00000000#32 true (.vamomin (field w 21 5) (field w 16 5) (field w 11 5) (field w 8 3) (field w 4 4))
  | 2 => checked w 0x00000000#32 [] true 0x00000000#32 0x00000000#32 true (.vamomax (field w 21 5) (field w 16 5) (field w 11 5) (field w 8 3) (field w 4 4))
  | 3 => checked w 0x00000000#32 [] true 0x00000000#32 0x00000000#32 true (.vamofadd (field w 21 5) (field w 16 5) (field w 11 5) (field w 8 3) (field w 4 4))
  | 4 => checked w 0x00000000#32 [] true 0x00000000#32 0x00000000#32 true (.vscadd (field w 21 5) (field w 16 5) (field w 11 5) (field w 8 3) (field w 4 4))
  | 5 => checked w 0x03E00700#32 [] true 0x00000000#32 0x00000000#32 true (.accw (field w 16 5) (field w 11 5) (field w 4 4))
  | 6 => checked w 0x00000000#32 [] true 0x00000000#32 0x00000000#32 true (.vacc (field w 21 5) (field w 16 5) (field w 11 5) (field w 8 3) (field w 4 4))
  | 7 => checked w 0x03E0FF00#32 [] true 0x00000000#32 0x00000000#32 true (.merge (field w 16 5) (field w 4 4))
  | _ => .error ⟨1, 0⟩

/-- Major 0x3B (R55). -/
def decodeFence (w : BitVec 32) : Except DecodeError Instr :=
  match (field w 3 3).toNat with
  | 0 => checked w 0x00000007#32 [] true 0x00000000#32 0x00000000#32 true (.fence (field w 10 16) (field w 6 4))
  | 1 => checked w 0x00000007#32 [] true 0x00000000#32 0x00000000#32 true (.fenceRel (field w 10 16) (field w 6 4))
  | 2 => checked w 0x00000007#32 [] true 0x00000000#32 0x00000000#32 true (.fenceAcq (field w 10 16) (field w 6 4))
  | 3 => checked w 0x00000007#32 [] true 0x03FFFC00#32 0x00000000#32 true (.invro (field w 6 4))
  | 4 => checked w 0x00000007#32 [] true 0x03FFFC00#32 0x00000000#32 true (.cclean (field w 6 4))
  | 5 => checked w 0x00000007#32 [] true 0x03FFFC00#32 0x00000000#32 true (.cinval (field w 6 4))
  | _ => .error ⟨1, 0⟩

/-- Major 0x3C (R55). -/
def decodeSync (w : BitVec 32) : Except DecodeError Instr :=
  match (field w 0 5).toNat with
  | 0 => checked w 0x0000F800#32 [] true 0x00000060#32 0x00000000#32 true (.scopeput (field w 21 5) (field w 16 5) (field w 7 4))
  | 1 => checked w 0x0000F800#32 [] true 0x00000060#32 0x00000000#32 true (.scopeget (field w 21 5) (field w 16 5) (field w 7 4))
  | 2 => checked w 0x03E0F800#32 [] true 0x00000060#32 0x00000000#32 true (.scopepin (field w 16 5) (field w 7 4))
  | 3 => checked w 0x001FF800#32 [] true 0x00000060#32 0x00000000#32 true (.bar (field w 21 5) (field w 7 4))
  | 4 => checked w 0x00000000#32 [] true 0x00000060#32 0x00000000#32 true (.semwait (field w 21 5) (field w 16 5) (field w 11 5) (field w 7 4))
  | 5 => checked w 0x00000000#32 [] true 0x00000060#32 0x00000000#32 true (.semtry (field w 21 5) (field w 16 5) (field w 11 5) (field w 7 4))
  | 6 => checked w 0x00000000#32 [] true 0x00000060#32 0x00000000#32 true (.sempost (field w 21 5) (field w 16 5) (field w 11 5) (field w 7 4))
  | 7 => checked w 0x00000000#32 [] true 0x00000060#32 0x00000000#32 true (.pubhw (field w 21 5) (field w 16 5) (field w 11 5) (field w 7 4))
  | _ => .error ⟨1, 0⟩

/-- Major 0x3D (R55). -/
def decodeWait (w : BitVec 32) : Except DecodeError Instr :=
  checked w 0x0000003F#32 [] true 0x00000000#32 0x00000000#32 true (.wait (field w 21 5) (field w 16 5) (field w 11 5) (field w 6 5))

/-- Major 0x3E (R55). -/
def decodeEngine (w : BitVec 32) : Except DecodeError Instr :=
  match (field w 0 5).toNat with
  | 0 => checked w 0x00000000#32 [] true 0x00000000#32 0x00000000#32 ((field w 5 6).toNat < 32) (.copy (field w 21 5) (field w 16 5) (field w 11 5) (field w 5 6))
  | 1 => checked w 0x0000F800#32 [] true 0x00000000#32 0x00000000#32 ((field w 5 6).toNat < 32) (.copy2d (field w 21 5) (field w 16 5) (field w 5 6))
  | 2 => checked w 0x0000F800#32 [] true 0x00000000#32 0x00000000#32 ((field w 5 6).toNat < 32) (.qcopy (field w 21 5) (field w 16 5) (field w 5 6))
  | 3 => checked w 0x0000FFE0#32 [] true 0x00000000#32 0x00000000#32 true (.decbind (field w 21 5) (field w 16 5))
  | 4 => checked w 0x0000F800#32 [] true 0x00000000#32 0x00000000#32 (32 ≤ (field w 5 6).toNat && (field w 5 6).toNat < 48) (.mcmd (field w 21 5) (field w 16 5) (field w 5 6))
  | 5 => checked w 0x0000FFE0#32 [] true 0x00000000#32 0x00000000#32 true (.launch (field w 21 5) (field w 16 5))
  | 6 => checked w 0x000007E0#32 [] true 0x00000000#32 0x00000000#32 true (.tspawn (field w 21 5) (field w 16 5) (field w 11 5))
  | 7 => checked w 0x001FFFE0#32 [] true 0x00000000#32 0x00000000#32 true (.tjoin (field w 21 5))
  | 8 => checked w 0x03E0FFE0#32 [] true 0x00000000#32 0x00000000#32 true (.qfence (field w 16 5))
  | _ => .error ⟨1, 0⟩

/-- Major 0x3F (R55). -/
def decodeSystem (w : BitVec 32) : Except DecodeError Instr :=
  match (field w 0 11).toNat with
  | 0 => checked w 0x03E0F800#32 [] true 0x00000000#32 0x00000000#32 true (.trap (field w 16 5))
  | 2 => checked w 0x03E00000#32 [] true 0x00000000#32 0x00000000#32 true (.tlbinv (field w 16 5) (field w 11 5))
  | 3 => checked w 0x00000000#32 [] true 0x00000000#32 0x00000000#32 true (.ctxsave (field w 21 5) (field w 16 5) (field w 11 5))
  | 4 => checked w 0x00000000#32 [] true 0x00000000#32 0x00000000#32 true (.ctxload (field w 21 5) (field w 16 5) (field w 11 5))
  | 1 => checked w 0x03FFF800#32 [] true 0x00000000#32 0x00000000#32 true (.eret)
  | 6 => checked w 0x03FFF800#32 [] true 0x00000000#32 0x00000000#32 true (.halt)
  | 8 => checked w 0x03FFF800#32 [] true 0x00000000#32 0x00000000#32 true (.idle)
  | _ => .error ⟨1, 0⟩

/-- The decoder of every word but ENGRST's and MIGRATE's. It stands apart because Lean's compiler builds no constructor
whose number is above 243, and these two are the 245th and 246th with fields; the kernel has no such limit. -/
def decodeOther (w : BitVec 32) : Except DecodeError Instr :=
  match (field w 26 6).toNat with
  | 0x01 => decodeInt w
  | 0x02 => decodeAddi w
  | 0x03 => decodeAndi w
  | 0x04 => decodeOri w
  | 0x05 => decodeXori w
  | 0x06 => decodeSlti w
  | 0x07 => decodeShi w
  | 0x08 => decodeFps w
  | 0x09 => decodeVfcmp w
  | 0x0A => decodeLui w
  | 0x0B => decodeLqa w
  | 0x0C => decodeLdb w
  | 0x0D => decodeLdbu w
  | 0x0E => decodeLdh w
  | 0x0F => decodeLdhu w
  | 0x10 => decodeLdw w
  | 0x11 => decodeLdwu w
  | 0x12 => decodeLdd w
  | 0x13 => decodeStb w
  | 0x14 => decodeSth w
  | 0x15 => decodeStw w
  | 0x16 => decodeStd w
  | 0x17 => decodeBeq w
  | 0x18 => decodeBne w
  | 0x19 => decodeBlt w
  | 0x1A => decodeBge w
  | 0x1B => decodeBltu w
  | 0x1C => decodeBgeu w
  | 0x1D => decodeJ w
  | 0x1E => decodeJal w
  | 0x1F => decodeJalr w
  | 0x20 => decodeCtl w
  | 0x21 => decodeVcfg w
  | 0x22 => decodeVint w
  | 0x23 => decodeVlog w
  | 0x24 => decodeVfp w
  | 0x25 => decodeVfma w
  | 0x26 => decodeVcmp w
  | 0x27 => decodeVcvt w
  | 0x28 => decodeVmov w
  | 0x29 => decodeVperm w
  | 0x2A => decodeVred w
  | 0x2B => decodeVmask w
  | 0x2C => decodeVld w
  | 0x2D => decodeVlds w
  | 0x2E => decodeVldx w
  | 0x2F => decodeVldl w
  | 0x30 => decodeVst w
  | 0x31 => decodeVsts w
  | 0x32 => decodeVstx w
  | 0x33 => decodeVstl w
  | 0x34 => decodeVldb w
  | 0x35 => decodeStream w
  | 0x36 => decodeDiag w
  | 0x37 => decodeTree w
  | 0x38 => decodeKv w
  | 0x39 => decodeAmo w
  | 0x3A => decodeVamo w
  | 0x3B => decodeFence w
  | 0x3C => decodeSync w
  | 0x3D => decodeWait w
  | 0x3E => decodeEngine w
  | 0x3F => decodeSystem w
  | _ => .error ⟨0, 0⟩

/-- ENGRST's word by its major and function code (R55). -/
def isEngrstWord (w : BitVec 32) : Bool := field w 26 6 == 0x3F#6 && field w 0 11 == 5#11

/-- ENGRST's d and b fields are must-be-zero (R58, R418). -/
def engrstError (w : BitVec 32) : Option DecodeError := if w &&& 0x03E0F800#32 ≠ 0 then some ⟨2, 0⟩ else none

/-- MIGRATE's word by its major and function code (R55). -/
def isMigrateWord (w : BitVec 32) : Bool := field w 26 6 == 0x3F#6 && field w 0 11 == 7#11

/-- MIGRATE's b field is must-be-zero (R58, R375). -/
def migrateError (w : BitVec 32) : Option DecodeError := if w &&& 0x0000F800#32 ≠ 0 then some ⟨2, 0⟩ else none

/-- The decoder: the major opcode selects a format, the function code an instruction (R54 to R59). -/
noncomputable def decodeWord (w : BitVec 32) : Except DecodeError Instr :=
  if isEngrstWord w then
    match engrstError w with
    | some e => .error e
    | none => .ok (.engrst (field w 16 5))
  else if isMigrateWord w then
    match migrateError w with
    | some e => .error e
    | none => .ok (.migrate (field w 21 5) (field w 16 5))
  else decodeOther w

/-- The word of an instruction, written from the field tables of R29 and R55; an event has no word. -/
def encode : Instr → BitVec 32
  | .add d a b => (0x1#6) ++ d ++ a ++ b ++ (0x0#11)
  | .sub d a b => (0x1#6) ++ d ++ a ++ b ++ (0x1#11)
  | .and d a b => (0x1#6) ++ d ++ a ++ b ++ (0x2#11)
  | .or d a b => (0x1#6) ++ d ++ a ++ b ++ (0x3#11)
  | .xor d a b => (0x1#6) ++ d ++ a ++ b ++ (0x4#11)
  | .sll d a b => (0x1#6) ++ d ++ a ++ b ++ (0x5#11)
  | .srl d a b => (0x1#6) ++ d ++ a ++ b ++ (0x6#11)
  | .sra d a b => (0x1#6) ++ d ++ a ++ b ++ (0x7#11)
  | .slt d a b => (0x1#6) ++ d ++ a ++ b ++ (0x8#11)
  | .sltu d a b => (0x1#6) ++ d ++ a ++ b ++ (0x9#11)
  | .min d a b => (0x1#6) ++ d ++ a ++ b ++ (0xA#11)
  | .max d a b => (0x1#6) ++ d ++ a ++ b ++ (0xB#11)
  | .minu d a b => (0x1#6) ++ d ++ a ++ b ++ (0xC#11)
  | .maxu d a b => (0x1#6) ++ d ++ a ++ b ++ (0xD#11)
  | .mul d a b => (0x1#6) ++ d ++ a ++ b ++ (0xE#11)
  | .mulh d a b => (0x1#6) ++ d ++ a ++ b ++ (0xF#11)
  | .mulhu d a b => (0x1#6) ++ d ++ a ++ b ++ (0x10#11)
  | .div d a b => (0x1#6) ++ d ++ a ++ b ++ (0x11#11)
  | .divu d a b => (0x1#6) ++ d ++ a ++ b ++ (0x12#11)
  | .rem d a b => (0x1#6) ++ d ++ a ++ b ++ (0x13#11)
  | .remu d a b => (0x1#6) ++ d ++ a ++ b ++ (0x14#11)
  | .popc d a => (0x1#6) ++ d ++ a ++ (0x15#16)
  | .clz d a => (0x1#6) ++ d ++ a ++ (0x16#16)
  | .ctz d a => (0x1#6) ++ d ++ a ++ (0x17#16)
  | .addi d a i => (0x2#6) ++ d ++ a ++ i
  | .andi d a i => (0x3#6) ++ d ++ a ++ i
  | .ori d a i => (0x4#6) ++ d ++ a ++ i
  | .xori d a i => (0x5#6) ++ d ++ a ++ i
  | .slti d a i => (0x6#6) ++ d ++ a ++ i
  | .slli d a n => (0x7#6) ++ d ++ a ++ (0x0#10) ++ n
  | .srli d a n => (0x7#6) ++ d ++ a ++ (0x100#10) ++ n
  | .srai d a n => (0x7#6) ++ d ++ a ++ (0x200#10) ++ n
  | .lui d i => (0xA#6) ++ d ++ i
  | .lqa d i => (0xB#6) ++ d ++ i
  | .ldb d a c o => (0xC#6) ++ d ++ a ++ c ++ o
  | .ldbu d a c o => (0xD#6) ++ d ++ a ++ c ++ o
  | .ldh d a c o => (0xE#6) ++ d ++ a ++ c ++ o
  | .ldhu d a c o => (0xF#6) ++ d ++ a ++ c ++ o
  | .ldw d a c o => (0x10#6) ++ d ++ a ++ c ++ o
  | .ldwu d a c o => (0x11#6) ++ d ++ a ++ c ++ o
  | .ldd d a c o => (0x12#6) ++ d ++ a ++ c ++ o
  | .stb d a c o => (0x13#6) ++ d ++ a ++ c ++ o
  | .sth d a c o => (0x14#6) ++ d ++ a ++ c ++ o
  | .stw d a c o => (0x15#6) ++ d ++ a ++ c ++ o
  | .std d a c o => (0x16#6) ++ d ++ a ++ c ++ o
  | .beq a b o => (0x17#6) ++ a ++ b ++ o
  | .bne a b o => (0x18#6) ++ a ++ b ++ o
  | .blt a b o => (0x19#6) ++ a ++ b ++ o
  | .bge a b o => (0x1A#6) ++ a ++ b ++ o
  | .bltu a b o => (0x1B#6) ++ a ++ b ++ o
  | .bgeu a b o => (0x1C#6) ++ a ++ b ++ o
  | .j o => (0x1D#6) ++ o
  | .jal o => (0x1E#6) ++ o
  | .jalr d a i => (0x1F#6) ++ d ++ a ++ i
  | .fadd d a b => (0x8#6) ++ d ++ a ++ b ++ (0x0#11)
  | .fsub d a b => (0x8#6) ++ d ++ a ++ b ++ (0x1#11)
  | .fmul d a b => (0x8#6) ++ d ++ a ++ b ++ (0x2#11)
  | .fdiv d a b => (0x8#6) ++ d ++ a ++ b ++ (0x3#11)
  | .fsqrt d a => (0x8#6) ++ d ++ a ++ (0x4#16)
  | .fmin d a b => (0x8#6) ++ d ++ a ++ b ++ (0x5#11)
  | .fmax d a b => (0x8#6) ++ d ++ a ++ b ++ (0x6#11)
  | .feq d a b => (0x8#6) ++ d ++ a ++ b ++ (0x7#11)
  | .flt d a b => (0x8#6) ++ d ++ a ++ b ++ (0x8#11)
  | .fle d a b => (0x8#6) ++ d ++ a ++ b ++ (0x9#11)
  | .fcvtfi d a => (0x8#6) ++ d ++ a ++ (0xA#16)
  | .fcvtif d a => (0x8#6) ++ d ++ a ++ (0xB#16)
  | .vfceq d a b k e l s => (0x9#6) ++ d ++ a ++ b ++ k ++ e ++ l ++ s ++ (0x0#3)
  | .vfcne d a b k e l s => (0x9#6) ++ d ++ a ++ b ++ k ++ e ++ l ++ s ++ (0x1#3)
  | .vfclt d a b k e l s => (0x9#6) ++ d ++ a ++ b ++ k ++ e ++ l ++ s ++ (0x2#3)
  | .vfcle d a b k e l s => (0x9#6) ++ d ++ a ++ b ++ k ++ e ++ l ++ s ++ (0x3#3)
  | .vfcgt d a b k e l s => (0x9#6) ++ d ++ a ++ b ++ k ++ e ++ l ++ s ++ (0x4#3)
  | .vfcge d a b k e l s => (0x9#6) ++ d ++ a ++ b ++ k ++ e ++ l ++ s ++ (0x5#3)
  | .vfcun d a b k e l s => (0x9#6) ++ d ++ a ++ b ++ k ++ e ++ l ++ s ++ (0x6#3)
  | .csrr d c => (0x20#6) ++ d ++ (0x0#5) ++ c ++ (0x0#4)
  | .csrw a c => (0x400#11) ++ a ++ c ++ (0x1#4)
  | .csrs a c => (0x400#11) ++ a ++ c ++ (0x2#4)
  | .csrc a c => (0x400#11) ++ a ++ c ++ (0x3#4)
  | .trapu n => (0x8000#16) ++ n ++ (0x5#4)
  | .setvl d a => (0x21#6) ++ d ++ a ++ (0x0#16)
  | .setvlhw d a b => (0x21#6) ++ d ++ a ++ b ++ (0x1#11)
  | .settype d a => (0x21#6) ++ d ++ a ++ (0x2#16)
  | .vadd d a b k l s => (0x22#6) ++ d ++ a ++ b ++ k ++ (0x0#3) ++ l ++ s ++ (0x0#3)
  | .vsub d a b k l s => (0x22#6) ++ d ++ a ++ b ++ k ++ (0x0#3) ++ l ++ s ++ (0x1#3)
  | .vmul d a b k l s => (0x22#6) ++ d ++ a ++ b ++ k ++ (0x0#3) ++ l ++ s ++ (0x2#3)
  | .vmulh d a b k l s => (0x22#6) ++ d ++ a ++ b ++ k ++ (0x0#3) ++ l ++ s ++ (0x3#3)
  | .vmin d a b k l s => (0x22#6) ++ d ++ a ++ b ++ k ++ (0x0#3) ++ l ++ s ++ (0x4#3)
  | .vmax d a b k l s => (0x22#6) ++ d ++ a ++ b ++ k ++ (0x0#3) ++ l ++ s ++ (0x5#3)
  | .vminu d a b k l s => (0x22#6) ++ d ++ a ++ b ++ k ++ (0x0#3) ++ l ++ s ++ (0x6#3)
  | .vmaxu d a b k l s => (0x22#6) ++ d ++ a ++ b ++ k ++ (0x0#3) ++ l ++ s ++ (0x7#3)
  | .vand d a b k l s => (0x23#6) ++ d ++ a ++ b ++ k ++ (0x0#3) ++ l ++ s ++ (0x0#3)
  | .vor d a b k l s => (0x23#6) ++ d ++ a ++ b ++ k ++ (0x0#3) ++ l ++ s ++ (0x1#3)
  | .vxor d a b k l s => (0x23#6) ++ d ++ a ++ b ++ k ++ (0x0#3) ++ l ++ s ++ (0x2#3)
  | .vsll d a b k l s => (0x23#6) ++ d ++ a ++ b ++ k ++ (0x0#3) ++ l ++ s ++ (0x3#3)
  | .vsrl d a b k l s => (0x23#6) ++ d ++ a ++ b ++ k ++ (0x0#3) ++ l ++ s ++ (0x4#3)
  | .vsra d a b k l s => (0x23#6) ++ d ++ a ++ b ++ k ++ (0x0#3) ++ l ++ s ++ (0x5#3)
  | .vpopc d a k l => (0x23#6) ++ d ++ a ++ (0x0#5) ++ k ++ (0x0#3) ++ l ++ (0x6#4)
  | .vclz d a k l => (0x23#6) ++ d ++ a ++ (0x0#5) ++ k ++ (0x0#3) ++ l ++ (0x7#4)
  | .vfadd d a b k e l s => (0x24#6) ++ d ++ a ++ b ++ k ++ e ++ l ++ s ++ (0x0#3)
  | .vfsub d a b k e l s => (0x24#6) ++ d ++ a ++ b ++ k ++ e ++ l ++ s ++ (0x1#3)
  | .vfmul d a b k e l s => (0x24#6) ++ d ++ a ++ b ++ k ++ e ++ l ++ s ++ (0x2#3)
  | .vfdiv d a b k e l s => (0x24#6) ++ d ++ a ++ b ++ k ++ e ++ l ++ s ++ (0x3#3)
  | .vfmin d a b k e l s => (0x24#6) ++ d ++ a ++ b ++ k ++ e ++ l ++ s ++ (0x4#3)
  | .vfmax d a b k e l s => (0x24#6) ++ d ++ a ++ b ++ k ++ e ++ l ++ s ++ (0x5#3)
  | .vfsqrt d a k e l => (0x24#6) ++ d ++ a ++ (0x0#5) ++ k ++ e ++ l ++ (0x6#4)
  | .vfrsq d a k e l => (0x24#6) ++ d ++ a ++ (0x0#5) ++ k ++ e ++ l ++ (0x7#4)
  | .vfma d a b k e l s => (0x25#6) ++ d ++ a ++ b ++ k ++ e ++ l ++ s ++ (0x0#3)
  | .vfms d a b k e l s => (0x25#6) ++ d ++ a ++ b ++ k ++ e ++ l ++ s ++ (0x1#3)
  | .vfnma d a b k e l s => (0x25#6) ++ d ++ a ++ b ++ k ++ e ++ l ++ s ++ (0x2#3)
  | .vfnms d a b k e l s => (0x25#6) ++ d ++ a ++ b ++ k ++ e ++ l ++ s ++ (0x3#3)
  | .vfexp2 d a k e l => (0x25#6) ++ d ++ a ++ (0x0#5) ++ k ++ e ++ l ++ (0x4#4)
  | .vflog2 d a k e l => (0x25#6) ++ d ++ a ++ (0x0#5) ++ k ++ e ++ l ++ (0x5#4)
  | .vfrcp d a k e l => (0x25#6) ++ d ++ a ++ (0x0#5) ++ k ++ e ++ l ++ (0x6#4)
  | .vfclass d a k l => (0x25#6) ++ d ++ a ++ (0x0#5) ++ k ++ (0x0#3) ++ l ++ (0x7#4)
  | .vceq d a b k l s => (0x26#6) ++ d ++ a ++ b ++ k ++ (0x0#3) ++ l ++ s ++ (0x0#3)
  | .vcne d a b k l s => (0x26#6) ++ d ++ a ++ b ++ k ++ (0x0#3) ++ l ++ s ++ (0x1#3)
  | .vclt d a b k l s => (0x26#6) ++ d ++ a ++ b ++ k ++ (0x0#3) ++ l ++ s ++ (0x2#3)
  | .vcle d a b k l s => (0x26#6) ++ d ++ a ++ b ++ k ++ (0x0#3) ++ l ++ s ++ (0x3#3)
  | .vcltu d a b k l s => (0x26#6) ++ d ++ a ++ b ++ k ++ (0x0#3) ++ l ++ s ++ (0x4#3)
  | .vcleu d a b k l s => (0x26#6) ++ d ++ a ++ b ++ k ++ (0x0#3) ++ l ++ s ++ (0x5#3)
  | .vcgt d a b k l s => (0x26#6) ++ d ++ a ++ b ++ k ++ (0x0#3) ++ l ++ s ++ (0x6#3)
  | .vcgtu d a b k l s => (0x26#6) ++ d ++ a ++ b ++ k ++ (0x0#3) ++ l ++ s ++ (0x7#3)
  | .vcvtFBf d a k e l => (0x27#6) ++ d ++ a ++ (0x0#5) ++ k ++ e ++ l ++ (0x0#4)
  | .vcvtBfF d a k e l => (0x27#6) ++ d ++ a ++ (0x0#5) ++ k ++ e ++ l ++ (0x1#4)
  | .vcvtFI d a k e l => (0x27#6) ++ d ++ a ++ (0x0#5) ++ k ++ e ++ l ++ (0x2#4)
  | .vcvtIF d a k e l => (0x27#6) ++ d ++ a ++ (0x0#5) ++ k ++ e ++ l ++ (0x3#4)
  | .vwiden d a k l => (0x27#6) ++ d ++ a ++ (0x0#5) ++ k ++ (0x0#3) ++ l ++ (0x4#4)
  | .vwidenu d a k l => (0x27#6) ++ d ++ a ++ (0x0#5) ++ k ++ (0x0#3) ++ l ++ (0x5#4)
  | .vnarrow d a k l => (0x27#6) ++ d ++ a ++ (0x0#5) ++ k ++ (0x0#3) ++ l ++ (0x6#4)
  | .vnarrowu d a k l => (0x27#6) ++ d ++ a ++ (0x0#5) ++ k ++ (0x0#3) ++ l ++ (0x7#4)
  | .vmv d a k l => (0x28#6) ++ d ++ a ++ (0x0#5) ++ k ++ (0x0#3) ++ l ++ (0x0#4)
  | .vbcast d b k => (0x28#6) ++ d ++ (0x0#5) ++ b ++ k ++ (0x9#8)
  | .vmerge d a b k l s => (0x28#6) ++ d ++ a ++ b ++ k ++ (0x0#3) ++ l ++ s ++ (0x2#3)
  | .vextr d a b => (0x28#6) ++ d ++ a ++ b ++ (0xB#11)
  | .vins d a b => (0x28#6) ++ d ++ a ++ b ++ (0xC#11)
  | .vid d k => (0x28#6) ++ d ++ (0x0#10) ++ k ++ (0x5#8)
  | .viota d a k => (0x28#6) ++ d ++ a ++ (0x0#5) ++ k ++ (0x6#8)
  | .vcompress d a k l => (0x28#6) ++ d ++ a ++ (0x0#5) ++ k ++ (0x0#3) ++ l ++ (0x7#4)
  | .vslideup d a b k l => (0x29#6) ++ d ++ a ++ b ++ k ++ (0x0#3) ++ l ++ (0x8#4)
  | .vslidedn d a b k l => (0x29#6) ++ d ++ a ++ b ++ k ++ (0x0#3) ++ l ++ (0x9#4)
  | .vpermute d a b k l => (0x29#6) ++ d ++ a ++ b ++ k ++ (0x0#3) ++ l ++ (0x2#4)
  | .vexpand d a k l => (0x29#6) ++ d ++ a ++ (0x0#5) ++ k ++ (0x0#3) ++ l ++ (0x3#4)
  | .vconflict d a k l => (0x29#6) ++ d ++ a ++ (0x0#5) ++ k ++ (0x0#3) ++ l ++ (0x4#4)
  | .vtopk d a b k l => (0x29#6) ++ d ++ a ++ b ++ k ++ (0x0#3) ++ l ++ (0xD#4)
  | .vrev d a k l => (0x29#6) ++ d ++ a ++ (0x0#5) ++ k ++ (0x0#3) ++ l ++ (0x6#4)
  | .vscan d a b k l => (0x29#6) ++ d ++ a ++ b ++ k ++ (0x0#3) ++ l ++ (0xF#4)
  | .vredsum d a b k l => (0x2A#6) ++ d ++ a ++ b ++ k ++ (0x0#3) ++ l ++ (0x8#4)
  | .vfredsum d a b k l => (0x2A#6) ++ d ++ a ++ b ++ k ++ (0x0#3) ++ l ++ (0x9#4)
  | .vfredosum d a b k l => (0x2A#6) ++ d ++ a ++ b ++ k ++ (0x0#3) ++ l ++ (0xA#4)
  | .vredmin d a b k l => (0x2A#6) ++ d ++ a ++ b ++ k ++ (0x0#3) ++ l ++ (0xB#4)
  | .vredmax d a b k l => (0x2A#6) ++ d ++ a ++ b ++ k ++ (0x0#3) ++ l ++ (0xC#4)
  | .vfredmini d a k l => (0x2A#6) ++ d ++ a ++ (0x0#5) ++ k ++ (0x0#3) ++ l ++ (0x5#4)
  | .vfredmaxi d a k l => (0x2A#6) ++ d ++ a ++ (0x0#5) ++ k ++ (0x0#3) ++ l ++ (0x6#4)
  | .vredminui d a k l => (0x2A#6) ++ d ++ a ++ (0x0#5) ++ k ++ (0x0#3) ++ l ++ (0x7#4)
  | .kand d a b => (0x2B#6) ++ d ++ a ++ b ++ (0x0#11)
  | .kor d a b => (0x2B#6) ++ d ++ a ++ b ++ (0x1#11)
  | .kxor d a b => (0x2B#6) ++ d ++ a ++ b ++ (0x2#11)
  | .kandn d a b => (0x2B#6) ++ d ++ a ++ b ++ (0x3#11)
  | .knot d a => (0x2B#6) ++ d ++ a ++ (0x4#16)
  | .kloop d => (0x2B#6) ++ d ++ (0x5#21)
  | .kpopc d a => (0x2B#6) ++ d ++ a ++ (0x6#16)
  | .kfirst d a => (0x2B#6) ++ d ++ a ++ (0x7#16)
  | .vld v a b k c f => (0x2C#6) ++ v ++ a ++ b ++ k ++ c ++ f
  | .vlds v a b k c f => (0x2D#6) ++ v ++ a ++ b ++ k ++ c ++ f
  | .vldx v a b k c f => (0x2E#6) ++ v ++ a ++ b ++ k ++ c ++ f
  | .vldl v a b k c f => (0x2F#6) ++ v ++ a ++ b ++ k ++ c ++ f
  | .vst v a b k c f => (0x30#6) ++ v ++ a ++ b ++ k ++ c ++ f
  | .vsts v a b k c f => (0x31#6) ++ v ++ a ++ b ++ k ++ c ++ f
  | .vstx v a b k c f => (0x32#6) ++ v ++ a ++ b ++ k ++ c ++ f
  | .vstl v a b k c f => (0x33#6) ++ v ++ a ++ b ++ k ++ c ++ f
  | .vldb v a b k c f => (0x34#6) ++ v ++ a ++ b ++ k ++ c ++ f
  | .sbind v a => (0x35#6) ++ v ++ a ++ (0x0#16)
  | .sunbind v => (0x35#6) ++ v ++ (0x1#21)
  | .send d v => (0x35#6) ++ d ++ v ++ (0x2#16)
  | .sseek v a => (0x35#6) ++ v ++ a ++ (0x3#16)
  | .spos d v => (0x35#6) ++ d ++ v ++ (0x4#16)
  | .dcfg x c => (0x36#6) ++ x ++ (0x0#13) ++ c ++ (0x0#5)
  | .dzero x => (0x36#6) ++ x ++ (0x1#23)
  | .dmac x k a b c => (0x36#6) ++ x ++ k ++ a ++ b ++ c ++ (0x2#5)
  | .dmacs x k a b c => (0x36#6) ++ x ++ k ++ a ++ b ++ c ++ (0x3#5)
  | .dmact x k b c => (0x36#6) ++ x ++ k ++ (0x0#5) ++ b ++ c ++ (0x4#5)
  | .dmm x a b c => (0x36#6) ++ x ++ (0x0#3) ++ a ++ b ++ c ++ (0x5#5)
  | .drd x k a c => (0x36#6) ++ x ++ k ++ a ++ (0x0#5) ++ c ++ (0x6#5)
  | .dwr x k a c => (0x36#6) ++ x ++ k ++ a ++ (0x0#5) ++ c ++ (0x7#5)
  | .dwmark x c => (0x36#6) ++ x ++ (0x0#13) ++ c ++ (0x8#5)
  | .ttclr t b => (0x6E0#11) ++ t ++ b ++ (0x8#11)
  | .ttadd d t b => (0x37#6) ++ d ++ t ++ b ++ (0x1#11)
  | .ttmask d t b => (0x37#6) ++ d ++ t ++ b ++ (0xA#11)
  | .ttpos d t => (0x37#6) ++ d ++ t ++ (0x3#16)
  | .ttpath d t b => (0x37#6) ++ d ++ t ++ b ++ (0xC#11)
  | .ttprune d t b => (0x37#6) ++ d ++ t ++ b ++ (0xD#11)
  | .ttcommit d t b => (0x37#6) ++ d ++ t ++ b ++ (0xE#11)
  | .ttcount d t => (0x37#6) ++ d ++ t ++ (0x7#16)
  | .kvwalk d a b k l => (0x38#6) ++ d ++ a ++ b ++ k ++ (0x0#3) ++ l ++ (0x8#4)
  | .kvhint a b k l => (0x700#11) ++ a ++ b ++ k ++ (0x0#3) ++ l ++ (0x9#4)
  | .kvdrop a k l => (0x700#11) ++ a ++ (0x0#5) ++ k ++ (0x0#3) ++ l ++ (0x2#4)
  | .amoadd d a b s o w => (0x39#6) ++ d ++ a ++ b ++ s ++ o ++ (0x0#4) ++ w
  | .amomin d a b s o w => (0x39#6) ++ d ++ a ++ b ++ s ++ o ++ (0x1#4) ++ w
  | .amomax d a b s o w => (0x39#6) ++ d ++ a ++ b ++ s ++ o ++ (0x2#4) ++ w
  | .amominu d a b s o w => (0x39#6) ++ d ++ a ++ b ++ s ++ o ++ (0x3#4) ++ w
  | .amomaxu d a b s o w => (0x39#6) ++ d ++ a ++ b ++ s ++ o ++ (0x4#4) ++ w
  | .amoand d a b s o w => (0x39#6) ++ d ++ a ++ b ++ s ++ o ++ (0x5#4) ++ w
  | .amoor d a b s o w => (0x39#6) ++ d ++ a ++ b ++ s ++ o ++ (0x6#4) ++ w
  | .amoxor d a b s o w => (0x39#6) ++ d ++ a ++ b ++ s ++ o ++ (0x7#4) ++ w
  | .amoswp d a b s o w => (0x39#6) ++ d ++ a ++ b ++ s ++ o ++ (0x8#4) ++ w
  | .amocas d a b s o w => (0x39#6) ++ d ++ a ++ b ++ s ++ o ++ (0x9#4) ++ w
  | .amofadd d a b s o => (0x39#6) ++ d ++ a ++ b ++ s ++ o ++ (0x14#5)
  | .lda d a s o w => (0x39#6) ++ d ++ a ++ (0x0#5) ++ s ++ (0x0#1) ++ o ++ (0xB#4) ++ w
  | .stl a b s o w => (0x720#11) ++ a ++ b ++ s ++ o ++ (0xC#5) ++ w
  | .vamoadd v a b k s => (0x3A#6) ++ v ++ a ++ b ++ k ++ s ++ (0x0#4)
  | .vamomin v a b k s => (0x3A#6) ++ v ++ a ++ b ++ k ++ s ++ (0x1#4)
  | .vamomax v a b k s => (0x3A#6) ++ v ++ a ++ b ++ k ++ s ++ (0x2#4)
  | .vamofadd v a b k s => (0x3A#6) ++ v ++ a ++ b ++ k ++ s ++ (0x3#4)
  | .vscadd v a b k s => (0x3A#6) ++ v ++ a ++ b ++ k ++ s ++ (0x4#4)
  | .accw a b s => (0x740#11) ++ a ++ b ++ (0x0#3) ++ s ++ (0x5#4)
  | .vacc v a b k s => (0x3A#6) ++ v ++ a ++ b ++ k ++ s ++ (0x6#4)
  | .merge a s => (0x740#11) ++ a ++ (0x0#8) ++ s ++ (0x7#4)
  | .fence m s => (0x3B#6) ++ m ++ s ++ (0x0#6)
  | .fenceRel m s => (0x3B#6) ++ m ++ s ++ (0x8#6)
  | .fenceAcq m s => (0x3B#6) ++ m ++ s ++ (0x10#6)
  | .invro s => (0x3B0000#22) ++ s ++ (0x18#6)
  | .cclean s => (0x3B0000#22) ++ s ++ (0x20#6)
  | .cinval s => (0x3B0000#22) ++ s ++ (0x28#6)
  | .scopeput d a s => (0x3C#6) ++ d ++ a ++ (0x0#5) ++ s ++ (0x0#7)
  | .scopeget d a s => (0x3C#6) ++ d ++ a ++ (0x0#5) ++ s ++ (0x1#7)
  | .scopepin a s => (0x780#11) ++ a ++ (0x0#5) ++ s ++ (0x2#7)
  | .bar d s => (0x3C#6) ++ d ++ (0x0#10) ++ s ++ (0x3#7)
  | .semwait d a b s => (0x3C#6) ++ d ++ a ++ b ++ s ++ (0x4#7)
  | .semtry d a b s => (0x3C#6) ++ d ++ a ++ b ++ s ++ (0x5#7)
  | .sempost d a b s => (0x3C#6) ++ d ++ a ++ b ++ s ++ (0x6#7)
  | .pubhw d a b s => (0x3C#6) ++ d ++ a ++ b ++ s ++ (0x7#7)
  | .wait l s c t => (0x3D#6) ++ l ++ s ++ c ++ t ++ (0x0#6)
  | .copy d a b q => (0x3E#6) ++ d ++ a ++ b ++ q ++ (0x0#5)
  | .copy2d d a q => (0x3E#6) ++ d ++ a ++ (0x0#5) ++ q ++ (0x1#5)
  | .qcopy d a q => (0x3E#6) ++ d ++ a ++ (0x0#5) ++ q ++ (0x2#5)
  | .decbind v a => (0x3E#6) ++ v ++ a ++ (0x3#16)
  | .mcmd d a q => (0x3E#6) ++ d ++ a ++ (0x0#5) ++ q ++ (0x4#5)
  | .launch d a => (0x3E#6) ++ d ++ a ++ (0x5#16)
  | .tspawn d a b => (0x3E#6) ++ d ++ a ++ b ++ (0x6#11)
  | .tjoin d => (0x3E#6) ++ d ++ (0x7#21)
  | .qfence a => (0x7C0#11) ++ a ++ (0x8#16)
  | .trap a => (0x7E0#11) ++ a ++ (0x0#16)
  | .tlbinv a b => (0x7E0#11) ++ a ++ b ++ (0x2#11)
  | .ctxsave d a b => (0x3F#6) ++ d ++ a ++ b ++ (0x3#11)
  | .ctxload d a b => (0x3F#6) ++ d ++ a ++ b ++ (0x4#11)
  | .engrst a => (0x7E0#11) ++ a ++ (0x5#16)
  | .migrate d a => (0x3F#6) ++ d ++ a ++ (0x7#16)
  | .tret => (0x80000004#32)
  | .yield => (0x80000006#32)
  | .eret => (0xFC000001#32)
  | .halt => (0xFC000006#32)
  | .idle => (0xFC000008#32)
  | .convoyIssue .. => 0#32
  | .issueAgeing .. => 0#32
  | .governorWindow .. => 0#32
  | .trapRecordWrite => 0#32
  | .threadResume .. => 0#32
  | .doorbell .. => 0#32
  | .dependenceCellRead .. => 0#32
  | .gangPlacement .. => 0#32
  | .park .. => 0#32
  | .resume .. => 0#32
  | .taskStart .. => 0#32
  | .taskDeadlock .. => 0#32
  | .tjoinRelease .. => 0#32
  | .launchCompletion .. => 0#32
  | .engineCommandExecute .. => 0#32
  | .commandCompletion .. => 0#32
  | .mediaParameterRead .. => 0#32
  | .mediaEngineFailure .. => 0#32
  | .pageExpand .. => 0#32
  | .strainerDecode .. => 0#32
  | .streamPrefetch .. => 0#32
  | .diagWordCompletion .. => 0#32
  | .setvlhwWake .. => 0#32
  | .scopeputDrainComplete .. => 0#32
  | .sharedRead .. => 0#32
  | .ownRead .. => 0#32
  | .writeBack .. => 0#32
  | .cleanEvict .. => 0#32
  | .forward .. => 0#32
  | .invalidation .. => 0#32
  | .clusterCacheEviction .. => 0#32
  | .memoryScrub .. => 0#32
  | .contextCreate .. => 0#32
  | .contextTerminate .. => 0#32
  | .maxlane .. => 0#32
  | .dbudget .. => 0#32
  | .lostLineClear .. => 0#32
  | .deviceResetWrite .. => 0#32
  | .deviceRegisterWrite .. => 0#32
  | .mgmtSemaphoreCas .. => 0#32
  | .holderLinkDown .. => 0#32
  | .stageImage .. => 0#32
  | .commitVersion .. => 0#32
  | .setIdentity .. => 0#32
  | .mgmtDeviceReset .. => 0#32
  | .attestationRequest .. => 0#32
  | .blackBoxRead .. => 0#32
  | .linkTraining .. => 0#32
  | .flitReplay .. => 0#32
  | .coldBoot => 0#32
  | .wearUpdate .. => 0#32
  | .idleWake .. => 0#32
  | .fabricLinkDown .. => 0#32
  | .hostQueueEnable .. => 0#32
  | .networkWindowResponse .. => 0#32

/-- The 32-bit word whose bytes, lowest address first, are given (R4, R28); missing bytes read 0. -/
def wordOfBytes (bs : List (BitVec 8)) : BitVec 32 :=
  (bs.getD 3 0) ++ (bs.getD 2 0) ++ (bs.getD 1 0) ++ (bs.getD 0 0)

/-- The bytes of a word as the device stores them, lowest address first (R4). -/
def bytesOfWord (w : BitVec 32) : List (BitVec 8) :=
  [w.extractLsb' 0 8, w.extractLsb' 8 8, w.extractLsb' 16 8, w.extractLsb' 24 8]

/-- The instruction read from a table word of `nbits` bits; bits above `nbits` are 0. -/
noncomputable def decodeTableWord (nbits w : Nat) : Option Instr :=
  (decodeWord (wordOfBytes (bytesOfWord (BitVec.ofNat 32 (w % 2 ^ nbits))))).toOption

end Sys2Proof
end

