-- ==== Sys2Proof/Machine/Flags.lean ====
section
/-! DEFINITION. The flags of fflags (R81) and the integer comparisons and limits the instructions use. -/

namespace Sys2Proof.Machine

/-- Inexact, underflow, overflow, division by zero, invalid, dropped fill-in (R81). -/
def flagNX : BitVec 6 := 0x01#6
def flagUF : BitVec 6 := 0x02#6
def flagOF : BitVec 6 := 0x04#6
def flagDZ : BitVec 6 := 0x08#6
def flagNV : BitVec 6 := 0x10#6
def flagDfill : BitVec 6 := 0x20#6

/-- The flag when a condition holds. -/
def flagIf (c : Bool) (f : BitVec 6) : BitVec 6 := if c then f else 0

/-- The flags that set an exception-mask bit: NV, DZ, OF or UF, never NX (R120). -/
def marksException (f : BitVec 6) : Bool := f &&& 0x1E#6 ≠ 0

/-- The value of an n-bit pattern read as two's complement (R108). -/
def toSigned (n x : Nat) : Int := if x % 2 ^ n < 2 ^ (n - 1) then (x % 2 ^ n : Nat) else (x % 2 ^ n : Nat) - (2 ^ n : Nat)

/-- The n-bit pattern of an integer, modulo 2^n (R5). -/
def ofInt (n : Nat) (x : Int) : Nat := (x % (2 ^ n : Nat)).toNat

/-- The nearest end of a range for a value outside it (R108, R158). -/
def clampInt (lo hi x : Int) : Int := if x < lo then lo else if hi < x then hi else x

/-- The number of 1 bits among the low n bits. -/
def popCount : Nat → Nat → Nat
  | 0, _ => 0
  | n + 1, x => x % 2 + popCount n (x / 2)

/-- Zeros above the highest 1 among the low n bits; n when there is none (R66, R151). -/
def leadingZeros (n x : Nat) : Nat := if x % 2 ^ n = 0 then n else n - 1 - Nat.log2 (x % 2 ^ n)

/-- Zeros below the lowest 1 among the low n bits; n when there is none (R66). -/
def trailingZeros : Nat → Nat → Nat
  | 0, _ => 0
  | n + 1, x => if x % 2 = 1 then 0 else 1 + trailingZeros n (x / 2)

end Sys2Proof.Machine
end

