-- ==== Sys2Proof/Machine/Float.lean ====
section
/-! DEFINITION. The number formats (R91 to R93), the one rounding procedure (R95, R96) and the floating-point operations
(R80, R94, R152 to R156), on codes held as natural numbers. -/

namespace Sys2Proof.Machine

/-- A format of R91: mantissa bits M, exponent bias, width, the code of infinity if any, whether it has NaNs, and the
largest finite code. -/
structure Fmt where
  man    : Nat
  bias   : Nat
  width  : Nat
  inf    : Option Nat
  nan    : Bool
  maxCode : Nat
  deriving DecidableEq, Repr

def fmtF32  : Fmt := ⟨23, 127, 32, some 0x7F800000, true, 0x7F7FFFFF⟩
def fmtBF16 : Fmt := ⟨7, 127, 16, some 0x7F80, true, 0x7F7F⟩
def fmtF16  : Fmt := ⟨10, 15, 16, some 0x7C00, true, 0x7BFF⟩
def fmtE4M3 : Fmt := ⟨3, 7, 8, none, false, 0x7E⟩
def fmtE5M2 : Fmt := ⟨2, 15, 8, some 0x7C, false, 0x7B⟩
def fmtE2M3 : Fmt := ⟨3, 1, 6, none, false, 0x1F⟩
def fmtE3M2 : Fmt := ⟨2, 3, 6, none, false, 0x1F⟩
def fmtE2M1 : Fmt := ⟨1, 1, 4, none, false, 0x7⟩

/-- The floating-point view of an element: BF16 at SEW 16, FP32 at SEW 32 (R90). -/
def fmtOfSew (sew : Nat) : Fmt := if sew = 16 then fmtBF16 else fmtF32

/-- A datum: NaN (signalling or not), infinity, or (-1)^neg * m * 2^e. -/
inductive Fp where
  | nan (signalling : Bool)
  | inf (neg : Bool)
  | fin (neg : Bool) (m : Nat) (e : Int)
  deriving DecidableEq, Repr

/-- The canonical quiet NaN of a format (R93). -/
def Fmt.qnan (f : Fmt) : Nat := f.inf.getD 0 + 2 ^ (f.man - 1)

/-- The sign bit of a format. -/
def Fmt.signBit (f : Fmt) : Nat := 2 ^ (f.width - 1)

/-- The exponent of the smallest normal value (R91). -/
def Fmt.emin (f : Fmt) : Int := 1 - f.bias

/-- A finite magnitude code's value (R92). -/
def Fmt.finite (f : Fmt) (neg : Bool) (mag : Nat) : Fp :=
  let ef := mag / 2 ^ f.man
  let m := mag % 2 ^ f.man
  if ef = 0 then .fin neg m (1 - f.bias - f.man) else .fin neg (m + 2 ^ f.man) ((ef : Int) - f.bias - f.man)

/-- The value of a code (R92, R93); non-canonical codes read as infinity (E5M2) or the largest value (E4M3). -/
def Fmt.decode (f : Fmt) (code : Nat) : Fp :=
  let neg := code / f.signBit % 2 = 1
  let mag := code % f.signBit
  match f.inf with
  | some i =>
    if mag < i then f.finite neg mag
    else if f.nan && i < mag then .nan (mag / 2 ^ (f.man - 1) % 2 = 0)
    else .inf neg
  | none => f.finite neg (min mag f.maxCode)

/-- The value of an E3M5 scale code (R91, R92): mantissa and exponent. -/
def scaleValue (code : Nat) : Nat × Int :=
  let ef := code / 32 % 8
  if ef = 0 then (code % 32, -7) else (code % 32 + 32, (ef : Int) - 8)

/-- A signed code. -/
def Fmt.signed (f : Fmt) (neg : Bool) (mag : Nat) : Nat := if neg then f.signBit + mag else mag

/-- Whether to round the magnitude up: `n` is the lower neighbour's count of spacings, `rem` of `2 * half` remains, and
`sticky` says that a nonzero part lies below the remainder (R95). -/
def roundsUp (mode : Nat) (neg : Bool) (n rem half : Nat) (sticky : Bool) : Bool :=
  match mode with
  | 0 => half < rem || (rem == half && (sticky || n % 2 == 1))
  | 1 => false
  | 2 => !neg && (rem ≠ 0 || sticky)
  | 3 => neg && (rem ≠ 0 || sticky)
  | _ => half ≤ rem

/-- The magnitude `m * 2^e` (and a little more if `sticky`) as a count of spacings `2^qe`, and whether it is exact. -/
def roundAt (mode : Nat) (neg : Bool) (m : Nat) (e qe : Int) (sticky : Bool) : Nat × Bool :=
  if qe ≤ e then (m * 2 ^ (e - qe).toNat, !sticky)
  else
    let sh := (qe - e).toNat
    let n := m / 2 ^ sh
    let rem := m % 2 ^ sh
    (n + (if roundsUp mode neg n rem (2 ^ (sh - 1)) sticky then 1 else 0), rem = 0 && !sticky)

/-- The result of an overflow (R96). -/
def overflowCode (f : Fmt) (mode : Nat) (neg : Bool) : Nat :=
  let toMax := match mode with
    | 1 => true
    | 2 => neg
    | 3 => !neg
    | _ => false
  f.signed neg (match f.inf with
    | some i => if toMax then f.maxCode else i
    | none => f.maxCode)

/-- The one rounding procedure (R95, R96): the code of (-1)^neg * m * 2^e and its flags. A zero keeps its sign. -/
def roundFp (f : Fmt) (mode : Nat) (neg : Bool) (m : Nat) (e : Int) (sticky : Bool) : Nat × BitVec 6 :=
  if m = 0 && !sticky then (f.signed neg 0, 0)
  else
    let top : Int := e + Nat.log2 m
    let qe := max top f.emin - f.man
    let (n, exact) := roundAt mode neg m e qe sticky
    let mag := ((qe + f.man + f.bias - 1).toNat) * 2 ^ f.man + n
    if f.maxCode < mag then (overflowCode f mode neg, flagOF ||| flagNX)
    else
      let (n', _) := roundAt mode neg m e (top - f.man) sticky
      let tiny := top - f.man < f.emin - f.man && n' < 2 ^ (f.emin - (top - f.man)).toNat
      (f.signed neg mag, flagIf (tiny && !exact) flagUF ||| flagIf (!exact) flagNX)

/-- The code of an exact datum in a format that has NaN and infinity; a NaN is canonical, NV for a signalling one. -/
def Fmt.encode (f : Fmt) (mode : Nat) : Fp → Nat × BitVec 6
  | .nan sg => (f.qnan, flagIf sg flagNV)
  | .inf neg => (f.signed neg (f.inf.getD f.maxCode), 0)
  | .fin neg m e => roundFp f mode neg m e false

def Fp.isNan : Fp → Bool
  | .nan _ => true
  | _ => false
def Fp.isSnan : Fp → Bool
  | .nan s => s
  | _ => false
def Fp.isInf : Fp → Bool
  | .inf _ => true
  | _ => false
def Fp.isZero : Fp → Bool
  | .fin _ m _ => m == 0
  | _ => false
def Fp.sign : Fp → Bool
  | .nan _ => false
  | .inf n => n
  | .fin n _ _ => n
def Fp.neg : Fp → Fp
  | .nan s => .nan s
  | .inf n => .inf !n
  | .fin n m e => .fin (!n) m e

/-- The signed mantissa of a finite value at exponent `e0`, not above its own. -/
def Fp.scaled (e0 : Int) : Fp → Int
  | .fin n m e => (if n then -1 else 1) * ((m * 2 ^ (e - e0).toNat : Nat) : Int)
  | _ => 0

def Fp.exp : Fp → Int
  | .fin _ _ e => e
  | _ => 0

/-- Exact sum of two data that are no NaN, and NV for infinities of opposite signs (R80, R148). -/
def Fp.add (mode : Nat) (a b : Fp) : Fp × BitVec 6 :=
  match a, b with
  | .nan s, y => (.nan false, flagIf (s || y.isSnan) flagNV)
  | x, .nan s => (.nan false, flagIf (s || x.isSnan) flagNV)
  | .inf x, .inf y => if x = y then (.inf x, 0) else (.nan false, flagNV)
  | .inf x, _ => (.inf x, 0)
  | _, .inf y => (.inf y, 0)
  | .fin n1 m1 e1, .fin n2 m2 e2 =>
    let e0 := min e1 e2
    let v := Fp.scaled e0 (.fin n1 m1 e1) + Fp.scaled e0 (.fin n2 m2 e2)
    if v = 0 then
      (.fin (if m1 = 0 && m2 = 0 && n1 = n2 then n1 else mode = 3) 0 0, 0)
    else (.fin (v < 0) v.natAbs e0, 0)

/-- Exact product, NV for 0 times infinity or a signalling NaN (R80). -/
def Fp.mul (a b : Fp) : Fp × BitVec 6 :=
  match a, b with
  | .nan s, y => (.nan false, flagIf (s || y.isSnan) flagNV)
  | x, .nan s => (.nan false, flagIf (s || x.isSnan) flagNV)
  | .fin n1 m1 e1, .fin n2 m2 e2 => (.fin (n1 != n2) (m1 * m2) (e1 + e2), 0)
  | x, y => if x.isZero || y.isZero then (.nan false, flagNV) else (.inf (x.sign != y.sign), 0)

/-- a + b rounded once (R79, R152). -/
def fpAdd (f : Fmt) (mode a b : Nat) : Nat × BitVec 6 :=
  let (v, fl) := Fp.add mode (f.decode a) (f.decode b)
  let (c, fl') := f.encode mode v
  (c, fl ||| fl')

/-- a - b rounded once. -/
def fpSub (f : Fmt) (mode a b : Nat) : Nat × BitVec 6 :=
  let (v, fl) := Fp.add mode (f.decode a) (f.decode b).neg
  let (c, fl') := f.encode mode v
  (c, fl ||| fl')

/-- a * b rounded once. -/
def fpMul (f : Fmt) (mode a b : Nat) : Nat × BitVec 6 :=
  let (v, fl) := Fp.mul (f.decode a) (f.decode b)
  let (c, fl') := f.encode mode v
  (c, fl ||| fl')

/-- The fused forms (R153): the product's and the addend's signs may be reversed. -/
def fpFma (f : Fmt) (mode : Nat) (negProd negAdd : Bool) (a b z : Nat) : Nat × BitVec 6 :=
  let (p, fl) := Fp.mul (f.decode a) (f.decode b)
  let zz := f.decode z
  let (v, fl') := Fp.add mode (if negProd then p.neg else p) (if negAdd then zz.neg else zz)
  let (c, fl'') := f.encode mode v
  (c, fl ||| fl' ||| fl'')

/-- The quotient of two nonzero finite magnitudes, rounded. -/
def divRound (f : Fmt) (mode : Nat) (neg : Bool) (m1 : Nat) (e1 : Int) (m2 : Nat) (e2 : Int) : Nat × BitVec 6 :=
  let k := 64 + Nat.log2 m2
  roundFp f mode neg (m1 * 2 ^ k / m2) (e1 - e2 - k) (m1 * 2 ^ k % m2 ≠ 0)

/-- a / b on data (R80). -/
def Fp.divRound (f : Fmt) (mode : Nat) (a b : Fp) : Nat × BitVec 6 :=
  match a, b with
  | .nan s, y => (f.qnan, flagIf (s || y.isSnan) flagNV)
  | x, .nan s => (f.qnan, flagIf (s || x.isSnan) flagNV)
  | .inf _, .inf _ => (f.qnan, flagNV)
  | .inf x, y => (f.signed (x != y.sign) (f.inf.getD 0), 0)
  | x, .inf y => (f.signed (x.sign != y) 0, 0)
  | .fin n1 m1 e1, .fin n2 m2 e2 =>
    if m2 = 0 then (if m1 = 0 then (f.qnan, flagNV) else (f.signed (n1 != n2) (f.inf.getD 0), flagDZ))
    else if m1 = 0 then (f.signed (n1 != n2) 0, 0)
    else Machine.divRound f mode (n1 != n2) m1 e1 m2 e2

/-- a / b rounded once. -/
def fpDiv (f : Fmt) (mode a b : Nat) : Nat × BitVec 6 := Fp.divRound f mode (f.decode a) (f.decode b)

/-- 1 / a rounded once (R154). -/
def fpRcp (f : Fmt) (mode a : Nat) : Nat × BitVec 6 := Fp.divRound f mode (.fin false 1 0) (f.decode a)

/-- The bits of the integer square root, from bit `k - 1` down, added to `r`. -/
def isqrtFrom (n : Nat) : Nat → Nat → Nat
  | 0, r => r
  | k + 1, r => isqrtFrom n k (if (r + 2 ^ k) * (r + 2 ^ k) ≤ n then r + 2 ^ k else r)

/-- The integer square root. -/
def isqrt (n : Nat) : Nat := isqrtFrom n (Nat.log2 n / 2 + 1) 0

/-- The square root, rounded (R79, R80). -/
def fpSqrt (f : Fmt) (mode a : Nat) : Nat × BitVec 6 :=
  match f.decode a with
  | .nan s => (f.qnan, flagIf s flagNV)
  | .inf n => if n then (f.qnan, flagNV) else (f.inf.getD 0, 0)
  | .fin n m e =>
    if m = 0 then (f.signed n 0, 0)
    else if n then (f.qnan, flagNV)
    else
      let (m', e') := if e % 2 = 0 then (m, e) else (2 * m, e - 1)
      let v := m' * 2 ^ 128
      let r := isqrt v
      roundFp f mode false r (e' / 2 - 64) (r * r ≠ v)

/-- The reciprocal square root, rounded (R154). -/
def fpRsqrt (f : Fmt) (mode a : Nat) : Nat × BitVec 6 :=
  match f.decode a with
  | .nan s => (f.qnan, flagIf s flagNV)
  | .inf n => if n then (f.qnan, flagNV) else (0, 0)
  | .fin n m e =>
    if m = 0 then (f.signed n (f.inf.getD 0), flagDZ)
    else if n then (f.qnan, flagNV)
    else
      let (m', e') := if e % 2 = 0 then (m, e) else (2 * m, e - 1)
      let k := 80 + Nat.log2 m'
      let r := isqrt (2 ^ (2 * k) / m')
      roundFp f mode false r (-(e' / 2) - k) (r * r * m' ≠ 2 ^ (2 * k))

/-- Fixed-point places of the exponential and logarithm. Their results are never midway between two codes, so this many
places decide the rounding (R154). -/
def fixPlaces : Nat := 320

/-- 2 * (z + z^3/3 + z^5/5 + ...) in fixed point, `z` in units of 2^-320. -/
def atanhSum (zz : Nat) : Nat → Nat → Nat → Nat → Nat
  | 0, _, _, acc => 2 * acc
  | n + 1, k, pw, acc => atanhSum zz n (k + 2) (pw * zz / 2 ^ fixPlaces) (acc + pw / k)

/-- The natural logarithm of num/den, 1 ≤ num/den < 2, in units of 2^-320. -/
def lnFix (num den : Nat) : Nat :=
  let z := (num - den) * 2 ^ fixPlaces / (num + den)
  atanhSum (z * z / 2 ^ fixPlaces) 110 1 z 0

/-- ln 2 in units of 2^-320: 2 * atanh(1/3). -/
def ln2Fix : Nat :=
  let z := 2 ^ fixPlaces / 3
  atanhSum (z * z / 2 ^ fixPlaces) 110 1 z 0

/-- The exponential series of `x` (units of 2^-320, below 1), from term `k` on. -/
def expSum (x : Nat) : Nat → Nat → Nat → Nat → Nat
  | 0, _, _, acc => acc
  | n + 1, k, term, acc => expSum x n (k + 1) (term * x / (k * 2 ^ fixPlaces)) (acc + term)

/-- 2^x of a finite x: exact for an integer, else 2^floor(x) times the series of the fraction (R154). -/
def exp2Round (f : Fmt) (mode : Nat) (neg : Bool) (m : Nat) (e : Int) : Nat × BitVec 6 :=
  if m = 0 then roundFp f mode false 1 0 false
  else if 11 < e + Nat.log2 m then roundFp f mode false 1 (if neg then -4096 else 4096) true
  else
    let places := (-e).toNat
    let whole : Int := if e < 0 then m / 2 ^ places else m * 2 ^ e.toNat
    let part := if e < 0 then m % 2 ^ places else 0
    if part = 0 then roundFp f mode false 1 (if neg then -whole else whole) false
    else
      let fl : Int := if neg then -whole - 1 else whole
      let fr := if neg then 2 ^ places - part else part
      let x := fr * ln2Fix / 2 ^ places
      roundFp f mode false (expSum x 90 1 (2 ^ fixPlaces) 0) (fl - fixPlaces) true

/-- VFEXP2 (R153, R154). -/
def fpExp2 (f : Fmt) (mode a : Nat) : Nat × BitVec 6 :=
  match f.decode a with
  | .nan s => (f.qnan, flagIf s flagNV)
  | .inf n => (if n then 0 else f.inf.getD 0, 0)
  | .fin n m e => exp2Round f mode n m e

/-- VFLOG2 (R153, R154). -/
def fpLog2 (f : Fmt) (mode a : Nat) : Nat × BitVec 6 :=
  match f.decode a with
  | .nan s => (f.qnan, flagIf s flagNV)
  | .inf n => if n then (f.qnan, flagNV) else (f.inf.getD 0, 0)
  | .fin n m e =>
    if m = 0 then (f.signed true (f.inf.getD 0), flagDZ)
    else if n then (f.qnan, flagNV)
    else
      let l := Nat.log2 m
      let k : Int := e + l
      if m = 2 ^ l then roundFp f mode (k < 0) k.natAbs 0 false
      else
        let v : Int := k * (2 ^ fixPlaces : Nat) + ((lnFix m (2 ^ l) * 2 ^ fixPlaces / ln2Fix : Nat) : Int)
        roundFp f mode (v < 0) v.natAbs (-(fixPlaces : Int)) true

/-- Order of two data that are no NaN: -1, 0 or 1; zeros are equal. -/
def Fp.cmp (a b : Fp) : Int :=
  match a, b with
  | .inf x, .inf y => if x = y then 0 else if x then -1 else 1
  | .inf x, _ => if x then -1 else 1
  | _, .inf y => if y then 1 else -1
  | x, y =>
    let e0 := min x.exp y.exp
    let d := x.scaled e0 - y.scaled e0
    if d < 0 then -1 else if d = 0 then 0 else 1

/-- The order that also puts -0 below +0 (R80, R167, R175). -/
def Fp.below (a b : Fp) : Bool := Fp.cmp a b < 0 || (Fp.cmp a b == 0 && a.sign && !b.sign)

/-- The lesser or greater of two codes (R80): one NaN gives the other operand (log 19). -/
def fpMinMax (f : Fmt) (greater : Bool) (a b : Nat) : Nat × BitVec 6 :=
  let x := f.decode a
  let y := f.decode b
  let fl := flagIf (x.isSnan || y.isSnan) flagNV
  if x.isNan && y.isNan then (f.qnan, fl)
  else if x.isNan then (b, fl)
  else if y.isNan then (a, fl)
  else ((if greater then (if Fp.below x y then b else a) else (if Fp.below y x then b else a)), fl)

/-- The relations of R80 and R156. -/
inductive FRel where
  | eq | ne | lt | le | gt | ge | un
  deriving DecidableEq, Repr

/-- A comparison and its NV flag (R80, R156). -/
def fpRel (f : Fmt) (r : FRel) (a b : Nat) : Bool × BitVec 6 :=
  let x := f.decode a
  let y := f.decode b
  let nan := x.isNan || y.isNan
  let snan := x.isSnan || y.isSnan
  let c := Fp.cmp x y
  match r with
  | .eq => (!nan && c == 0, flagIf snan flagNV)
  | .ne => (nan || c != 0, flagIf snan flagNV)
  | .lt => (!nan && c < 0, flagIf nan flagNV)
  | .le => (!nan && c ≤ 0, flagIf nan flagNV)
  | .gt => (!nan && 0 < c, flagIf nan flagNV)
  | .ge => (!nan && 0 ≤ c, flagIf nan flagNV)
  | .un => (nan, flagIf snan flagNV)

/-- An integer rounded to a format (R79, R158). -/
def fpOfInt (f : Fmt) (mode : Nat) (x : Int) : Nat × BitVec 6 := roundFp f mode (x < 0) x.natAbs 0 false

/-- A code rounded to an n-bit signed integer, saturating; a NaN gives 0 (R80, R158). -/
def fpToInt (f : Fmt) (mode n a : Nat) : Nat × BitVec 6 :=
  let hi : Int := (2 ^ (n - 1) : Nat) - 1
  let lo : Int := -(2 ^ (n - 1) : Nat)
  match f.decode a with
  | .nan _ => (0, flagNV)
  | .inf s => (ofInt n (if s then lo else hi), flagNV)
  | .fin s m e =>
    let (k, exact) := roundAt mode s m e 0 false
    let v : Int := if s then -(k : Int) else k
    if hi < v then (ofInt n hi, flagNV)
    else if v < lo then (ofInt n lo, flagNV)
    else (ofInt n v, flagIf (!exact) flagNX)

/-- The class code of R155. -/
def fpClass (f : Fmt) (a : Nat) : Nat :=
  let sub := a % f.signBit < 2 ^ f.man
  match f.decode a with
  | .nan s => if s then 0x100 else 0x200
  | .inf n => if n then 0x001 else 0x080
  | .fin n m _ =>
    if m = 0 then (if n then 0x008 else 0x010)
    else if n then (if sub then 0x004 else 0x002) else (if sub then 0x020 else 0x040)

/-- A code of one format widened exactly to FP32: a NaN becomes the canonical NaN (R98, R164). -/
def widen32 (f : Fmt) (a : Nat) : Nat := (fmtF32.encode 0 (f.decode a)).1

/-- The exact sum of a list of data, with the NV flags met (R200). DESIGN CHOICE (log 71): the entries are added from the last one, so that a
quiet NaN and infinities of both signs raise NV where both infinities stand behind the NaN. -/
def sumExact : List Fp → Fp × BitVec 6
  | [] => (.fin true 0 0, 0)
  | x :: t =>
    let (s, fl) := sumExact t
    let (v, fl') := Fp.add 0 x s
    (v, fl ||| fl')

/-- One run of products added to an accumulator element (R200): both roundings are RNE to FP32. -/
def accumulateRun (acc : Nat) (run : List (Fp × BitVec 6)) : Nat × BitVec 6 :=
  let fl := run.foldl (fun x p => x ||| p.2) 0
  let (v, fl1) := sumExact (run.map (·.1))
  let (g, fl2) := fmtF32.encode 0 v
  let (r, fl3) := fpAdd fmtF32 0 acc g
  (r, fl ||| fl1 ||| fl2 ||| fl3)

end Sys2Proof.Machine
end

