-- ==== Sys2Proof/Machine/Formats.lean ====
section
/-! DEFINITION. Memory formats (R97 to R108): sizes, conversion on a load and on a store, and blocked FP4. -/

namespace Sys2Proof.Machine

/-- The memory format may be used at the SEW (R97). -/
def fmtLegal (fmt sew : Nat) : Bool :=
  match fmt with
  | 0 | 1 | 2 | 3 | 4 | 5 | 6 => true
  | 7 | 8 | 9 | 10 | 11 | 13 => sew ≠ 64
  | 12 => sew = 32
  | _ => false

/-- Bits of a memory element (R128). -/
def fmtBits (fmt sew : Nat) : Nat :=
  match fmt with
  | 0 => sew
  | 1 | 2 | 7 | 8 => 8
  | 3 | 4 | 12 | 13 => 16
  | 5 | 6 | 11 => 4
  | _ => 6

/-- A format whose elements are whole bytes (R128). -/
def byteFmt (fmt : Nat) : Bool := [0, 1, 2, 3, 4, 7, 8, 12, 13].contains fmt

/-- The floating-point format of a code 7 to 13 (R44). -/
def memFmt (fmt : Nat) : Fmt :=
  match fmt with
  | 7 => fmtE4M3
  | 8 => fmtE5M2
  | 9 => fmtE2M3
  | 10 => fmtE3M2
  | 11 => fmtE2M1
  | 12 => fmtF16
  | _ => fmtBF16

/-- A signed memory integer format (R97). -/
def fmtSigned (fmt : Nat) : Bool := fmt = 1 || fmt = 3 || fmt = 5

/-- The register value of a memory code at a SEW, exact (R98, R103). `scale` is the block's scale code for fmt 11. -/
def widenElem (fmt sew code scale : Nat) : Nat :=
  match fmt with
  | 0 => code % 2 ^ sew
  | 1 | 2 | 3 | 4 | 5 | 6 =>
    if fmtSigned fmt then ofInt sew (toSigned (fmtBits fmt sew) code) else code % 2 ^ fmtBits fmt sew
  | 11 =>
    match fmtE2M1.decode code with
    | .fin n m e => ((fmtOfSew sew).encode 0 (.fin n (m * (scaleValue scale).1) (e + (scaleValue scale).2))).1
    | _ => 0
  | 13 => if sew = 16 then code % 65536 else ((fmtOfSew sew).encode 0 (fmtBF16.decode code)).1
  | _ => ((fmtOfSew sew).encode 0 ((memFmt fmt).decode code)).1

/-- The memory code of a register element and the flags of its conversion (R99, R108). Not used for fmt 11. A finite source saturates in a
format without NaN, E5M2 among them, whose infinities only an infinite source gives (R99; DEDUCED, log 64). -/
def narrowElem (fmt sew mode x : Nat) : Nat × BitVec 6 :=
  match fmt with
  | 0 => (x % 2 ^ sew, 0)
  | 1 | 3 | 5 =>
    let n := fmtBits fmt sew
    (ofInt n (clampInt (-(2 ^ (n - 1) : Nat)) ((2 ^ (n - 1) : Nat) - 1) (toSigned sew x)), 0)
  | 2 | 4 | 6 => (min (x % 2 ^ sew) (2 ^ fmtBits fmt sew - 1), 0)
  | _ =>
    if fmt = 13 && sew = 16 then (x % 65536, 0)
    else
      let f := memFmt fmt
      match (fmtOfSew sew).decode x with
      | .nan sg => if f.nan then (f.qnan, flagIf sg flagNV) else (0, flagNV)
      | .inf neg =>
        match f.inf with
        | some i => (f.signed neg i, 0)
        | none => (f.signed neg f.maxCode, flagNV)
      | .fin neg m e => roundFp (if f.nan then f else { f with inf := none }) mode neg m e false

/-- The size of a magnitude, infinity above every finite one: for choosing a block's scale. -/
def Fp.magnitude : Fp → Option (Nat × Int)
  | .nan _ => some (0, 0)
  | .inf _ => none
  | .fin _ m e => some (m, e)

/-- `m1 * 2^e1 ≤ m2 * 2^e2`. -/
def magLe (m1 : Nat) (e1 : Int) (m2 : Nat) (e2 : Int) : Bool :=
  let e0 := min e1 e2
  m1 * 2 ^ (e1 - e0).toNat ≤ m2 * 2 ^ (e2 - e0).toNat

/-- The largest magnitude of a block, NaNs excluded; `none` stands for infinity (R104). -/
def amaxOf : List Fp → Option (Nat × Int)
  | [] => some (0, 0)
  | x :: t =>
    match x.magnitude, amaxOf t with
    | some a, some b => if magLe a.1 a.2 b.1 b.2 then some b else some a
    | _, _ => none

/-- The scale code of a block: the smallest E3M5 value at least amax / 6, or 31.5 (R104). -/
def blockScale (amax : Option (Nat × Int)) : Nat :=
  match amax with
  | none => 255
  | some (m, e) =>
    ((List.range 256).find? (fun c => magLe m e (6 * (scaleValue c).1) (scaleValue c).2)).getD 255

/-- A block of 8 elements encoded (R104): nibbles, scale code, flags of the eight conversions. DEDUCED (log 65): a NaN raises NV in a block
of amax 0 too. -/
def encodeBlock (mode : Nat) (xs : List Fp) : List Nat × Nat × BitVec 6 :=
  let amax := amaxOf xs
  if amax.map (·.1) = some 0 then
    (xs.map (fun _ => 0), 0, flagIf (xs.any Fp.isNan) flagNV)
  else
    let sc := blockScale amax
    let one (x : Fp) : Nat × BitVec 6 :=
      match x with
      | .nan _ => (0, flagNV)
      | .inf neg => (fmtE2M1.signed neg 7, flagNV)
      | .fin neg m e =>
        if m = 0 then (fmtE2M1.signed neg 0, 0)
        else divRound fmtE2M1 mode neg m e (scaleValue sc).1 (scaleValue sc).2
    let rs := xs.map one
    (rs.map (·.1), sc, rs.foldl (fun f r => f ||| r.2) 0)

/-- The five bytes of a block as a number, lowest byte first (R102). -/
def blockBytes (nibbles : List Nat) (scale : Nat) : Nat :=
  nibbles.foldr (fun n acc => n % 16 + 16 * acc) 0 % 2 ^ 32 + scale * 2 ^ 32

end Sys2Proof.Machine
end

