-- ==== Sys2Proof/Config.lean ====
section
/-! DEFINITION. What the spec leaves open or hands to another standard: constants without a body, so that no proof can
see a value. Each is named in the assumption log (log 3, 14, 16, 22, 23, 35). -/

namespace Sys2Proof.Config

/-- A free choice between two behaviours the spec allows, for the n-th such choice of a run (log 3, 11, 35). -/
opaque choice : Nat → Bool

/-- A free number, for the n-th such number of a run: cycles beyond the first that a convoy takes (log 14). -/
opaque number : Nat → Nat

/-- A free bracketing order of additions that reach one word (R300): a place below the given bound (log 16). -/
opaque place : Nat → Nat → Nat

/-- The video of a decode's bitstream, as its standard reads it: pictures, width, height, bit depth, chroma format and superblock or CTU
size (R357, log 22). -/
opaque codecStream : BitVec 2048 → List (BitVec 8) → Nat × Nat × Nat × Nat × Nat × Nat

/-- A decode's bitstream does not conform or exceeds what the command block states (R343, log 22). -/
opaque codecRefuses : BitVec 2048 → List (BitVec 8) → Bool

/-- The output sample of a decode, by picture, its number in the picture table, plane, column and row (R357, log 22). -/
opaque codecSample : BitVec 2048 → List (BitVec 8) → Nat → Nat → Nat → Nat → Nat → Nat

/-- The bitstream bytes of a decode that are consumed (R342, log 22). -/
opaque codecConsumed : BitVec 2048 → List (BitVec 8) → Nat

/-- The bitstream bytes that an encode makes of a row of a picture, from its source pictures and the parameters read so far (R357, R359,
log 22). -/
opaque codecBits : BitVec 2048 → List (BitVec 8) → List (BitVec 8) → Nat → Nat → List (BitVec 8)

/-- What the engine leaves in its working area at a row of a picture: offset and byte pairs (R358, log 22). -/
opaque codecWork : BitVec 2048 → List (BitVec 8) → List (BitVec 8) → Nat → Nat → List (Nat × BitVec 8)

/-- Some parameter of mode 2 lay outside its element's legal range (R359, log 22). -/
opaque codecClamps : BitVec 2048 → List (BitVec 8) → Bool

/-- Whether width, height, tools and quantiser of an encode lie within the codec's profile and level (R358, log 22). -/
opaque codecLimits : BitVec 2048 → Bool

/-- SHA-384 of a byte string (R386, log 23). -/
opaque sha384 : List (BitVec 8) → BitVec 384

/-- ECDSA P-384 verification of a signature under the vendor key (R385, log 23). -/
opaque ecdsaVerifies : BitVec 768 → List (BitVec 8) → Bool

/-- LMS verification under the fused LMS public key (R385, log 23). -/
opaque lmsVerifies : List (BitVec 8) → List (BitVec 8) → Bool

/-- The ECDSA signature of a report under the device's identity key (R388, log 23). -/
opaque ecdsaSign : List (BitVec 8) → BitVec 768

/-- The LMS signature of a report: boot count and leaf choose the one-time key (R389, log 23). -/
opaque lmsSign : Nat → Nat → List (BitVec 8) → List (BitVec 8)

/-- The hash that spreads a caddy's blocks over its sets (R227, log 36). -/
opaque caddySet : Nat → Nat

/-- The boot ROM's bytes (R386, log 23). -/
opaque rom : List (BitVec 8)

/-- Where the ROM places the body of a stage in HBM (R384, log 4). -/
opaque stagePlace : Nat → Nat

/-- The address at which the control-core firmware begins, and the page-table root under which it runs (R384, log 4). -/
opaque firmwareEntry : BitVec 64
opaque firmwareRoot : BitVec 64

/-- The fused serial of the part (R388, log 8). -/
opaque serial : BitVec 64

/-- The number of 4 KiB chunks the lossless compression of a page takes, before clamping to 1..16 (R373, log 23). -/
opaque chunks : List (Nat × BitVec 8) → Nat

end Sys2Proof.Config
end

