-- ==== Sys2Proof/Machine/State.lean ====
section
/-! DEFINITION. The machine's state as plain data, the reasons a step can stop, and the state after reset.
One device of the domain is modelled; the memory of its peers is held in `mem` under their identities (R15). -/

namespace Sys2Proof.Machine

open Sys2Proof

/-! ## Registers of a thread -/

/-- A mask register: a bitmap of 16,384 bits, or a count n made at SEW code w (R122). -/
inductive MaskReg where
  | bitmap (bits : BitVec 16384)
  | count (n : BitVec 15) (w : BitVec 2)
  deriving DecidableEq, Repr

/-- A node of a token tree: its parent (`none` is the root) and the number it had when created (R217). -/
structure TreeNode where
  parent : Option Nat
  origin : Nat
  deriving DecidableEq, Repr

/-- A token-tree register; its node count n is the length of the list (R217). -/
structure Tree where
  base  : BitVec 40
  nodes : List TreeNode
  deriving DecidableEq, Repr

/-- An element fetched ahead of its consumer: position, memory code, block scale, and the SEW of the fetch (R145). -/
structure Ahead where
  pos   : Nat
  code  : Nat
  scale : Nat
  sew   : Nat
  deriving DecidableEq, Repr

/-- A stream binding (R137, R142, R353). `ahead` holds the elements fetched or decoded ahead of their consumer (R145, R355), `place`
the number and header of the strainer's next block (R354). `fresh` is true from an SBIND or SSEEK until an element is consumed
(R147). -/
structure Binding where
  reg      : Nat
  desc     : BitVec 512
  pos      : Nat
  shape    : BitVec 256
  attached : Bool
  limit    : Nat
  place    : Option (Nat × Word)
  ahead    : List Ahead
  fresh    : Bool
  deriving DecidableEq, Repr

/-- The user control registers that hold a value of their own (R81); vlmax, cycle, detmode and the numbers of R21 are
derived or stand in `Thread`. -/
structure Csrs where
  vl        : BitVec 15
  vtype     : BitVec 6
  vstart    : BitVec 15
  frm       : BitVec 3
  fflags    : BitVec 6
  hwbase    : BitVec 63
  hwscope   : BitVec 4
  uth       : Word
  uepc      : Word
  ucause    : BitVec 8
  uinfo     : Word
  ustat     : Word
  phase     : BitVec 32
  dgov      : BitVec 32
  cvret     : Word
  preempted : BitVec 2
  deriving DecidableEq, Repr

/-- The privileged registers of a control core (R394); `privileged` is the mode. Compute-core threads are in user mode
and reach none of these (R60). -/
structure Priv where
  privileged : Bool
  sstatus    : Word
  sepc       : Word
  scause     : BitVec 8
  sinfo      : Word
  maxlane    : BitVec 2
  asid       : BitVec 16
  ptroot     : Word
  dbudget    : BitVec 11
  sth        : Word
  deriving DecidableEq, Repr

/-- Whether a thread may be selected: `stopped` by a system trap (R392), `halted` on a control core (R394, R404). -/
inductive RunState where
  | ready | stopped | halted
  deriving DecidableEq, Repr


/-- A system trap's record (R392). `ring` is the index of the record once it is written. -/
structure TrapRec where
  sepc    : Word
  cause   : BitVec 8
  sinfo   : Word
  sstatus : Word
  ring    : Option Nat
  deriving DecidableEq, Repr

/-- Where an access goes (R241): a core's scratchpad, a line of memory seen from a cluster, a line at its home, a line
at its home with the cluster's sector given up or kept clean (R178, R268 step 3, R271), a device register or a network window. -/
inductive Target where
  | scratch (core off : Nat)
  | cluster (cl addr : Nat)
  | home (addr : Nat)
  | through (cl addr : Nat)
  | device (off : Nat)
  | window (port : Bool) (off : Nat)
  deriving DecidableEq, Repr

/-- What a thread's next convoy waits for (R24, R395), as its last attempt found it: a write to a chain cell's line whose bytes were `seen`
(R118), a semaphore at a scope-table entry, a barrier, its join counter, room in its cluster's task queue, the trap ring, a token, room in an engine's
queue behind the convoy's own earlier commands, room in the urns, a page, a governor window, the commands that a WAIT or QFENCE counts, a
network window's answer, the drain of a scope-table entry, a page that a strainer reads, the attachment of a binding, room among a strainer's
attachments (R353), a resumed convoy's translations (R398), or the pages of a context's scope table. -/
inductive Wait where
  | none
  | cell (line : Nat) (t : Target) (seen : Nat)
  | sem (n entry : Nat)
  | barrier
  | join
  | spawn
  | idle
  | token (k : Nat)
  | queue (q own : Nat)
  | urn (dies : List Nat)
  | page (va : Word) (kind : Nat)
  | governor
  | commands (limit : Nat)
  | fence (queues : Word)
  | network (port : Bool) (off size : Nat)
  | drain (entry : Nat)
  | strainer (va : Word)
  | attached (reg : Nat)
  | attachment
  | translation (va sel : Word)
  | creation (slot : Nat)
  deriving DecidableEq, Repr

/-! ## Caches and translation -/

/-- A sector of a cluster cache: data, the bits written, and whether the other bits are filled (R244, R270).
Cluster 128 is the control cluster (R17). -/
structure Sector where
  cluster : Nat
  addr    : Nat
  data    : BitVec 256
  written : BitVec 256
  filled  : Bool
  deriving DecidableEq, Repr

/-- A sector of a core's read-only-path cache (R246). -/
structure RoSector where
  core : Nat
  addr : Nat
  data : BitVec 256
  deriving DecidableEq, Repr

/-- A sector of a core's instruction cache, by physical address (R14, R378). -/
structure ICopy where
  core : Nat
  addr : Nat
  data : BitVec 256
  deriving DecidableEq, Repr

/-- A leaf held by a cluster's second-level TLB for one 64 KiB page number (R371). -/
structure TlbEntry where
  cluster : Nat
  asid    : BitVec 16
  page    : Nat
  pte     : Word
  level   : Nat
  deriving DecidableEq, Repr

/-- A leaf held by the TLB slice of a lane group of a core (R371). -/
structure SliceEntry where
  core  : Nat
  group : Nat
  leaf  : TlbEntry
  deriving DecidableEq, Repr

/-- A non-leaf entry, by its address, in the walk cache of a die's walker (R371). -/
structure WalkEntry where
  die  : Nat
  addr : Nat
  pte  : Word
  deriving DecidableEq, Repr

/-- What a KV word does to a block of a caddy: makes it resident, its protect bit set, cleared or left, or drops it (R229, R236). -/
inductive CaddyAct where
  | touch (protect : Option Bool)
  | drop
  deriving DecidableEq, Repr

/-- A block of a caddy (R227); `age` orders replacement. -/
structure CaddyBlock where
  tag     : Nat
  valid   : BitVec 512
  protect : Bool
  age     : Nat
  deriving DecidableEq, Repr

/-! ## Cores and dies -/

/-- An accumulating word that a diagonal engine has accepted, with its operands as read (R196); `group` counts the flat groups of a
tile product that are final (R205). -/
structure DiagWord where
  uid  : Nat
  fn   : Nat
  head : Nat
  cfg  : Word
  mask : MaskReg
  sew  : Nat
  per  : Nat
  vl   : Nat
  va   : List (BitVec 32768)
  vb   : List (BitVec 32768)
  op   : Word
  group : Nat
  deriving DecidableEq, Repr

/-- A core's own settings and queues (R113, R210, R198). `budget` is the value the current window uses, `last` that window,
`turn` the slot that issued last (R23). -/
structure CoreRec where
  core    : Nat
  maxlane : BitVec 2
  dbudget : BitVec 11
  budget  : BitVec 11
  charge  : Nat
  issued  : Bool
  last    : Nat
  turn    : Nat
  diag    : List DiagWord
  deriving DecidableEq, Repr

/-- A die: 0-7 the compute dies, 8 the I/O die. `urn` lists the launches it has accepted and not yet begun or not yet placed
whole, in arrival order (R326). -/
structure Die where
  cycle     : Word
  window    : Word
  corrected : Nat
  multicast : Nat
  scrubbed  : Nat
  bbSeq     : Word
  bb        : List (BitVec 256)
  wear      : BitVec 16
  parkBase  : Word
  parkSize  : Word
  lost      : List Nat
  urn       : List Nat
  caddy     : List CaddyBlock
  deriving DecidableEq, Repr

/-! ## Contexts, launches, synchronisation -/

/-- A scope-table entry as the device holds it (R287, R290, R292). -/
structure ScopeEntry where
  image    : BitVec 4608
  serial   : Word
  draining : Bool
  deriving DecidableEq, Repr

/-- A context slot: its 64-byte record (R364), scope table and device list. -/
structure Ctx where
  slot    : Nat
  image   : BitVec 512
  scopes  : List ScopeEntry
  devices : List Nat
  deriving DecidableEq, Repr

/-- Where a completion token goes (R323, R325): a thread's register under a token number, a host queue entry, or
nowhere. -/
inductive TokenDest where
  | reg (uid token : Nat)
  | host (ctx : Nat) (addr : Word)
  | nowhere
  deriving DecidableEq, Repr

/-- A thread slot of a gang: core, slot and window offset, whether the gang still holds it (R335, R337), and the
maxlane code under which the gang was saved (R112). -/
structure Spot where
  core  : Nat
  slot  : Nat
  win   : Nat
  held  : Bool
  lanes : BitVec 2
  deriving DecidableEq, Repr

/-- A gang of a launch: its number (R21), its cluster while placed, the die whose park region holds it while parked,
and its slots in the order of cores and indices: spot c * T + t. -/
structure Gang where
  num     : Nat
  die     : Nat
  cluster : Option Nat
  parked  : Option Nat
  placed  : Bool
  done    : Bool
  order   : Nat
  spots   : List Spot
  deriving DecidableEq, Repr

/-- A rank tag of a deterministic launch: word address, rank and sub-word bit (R178). -/
structure RankTag where
  word : Nat
  rank : Nat
  sub  : Bool
  deriving DecidableEq, Repr

/-- A partial of an accumulation window: the word's virtual and physical word addresses, thread number, FP32 value and the
flags of its additions (R302, R303). -/
structure Partial where
  word  : Nat
  home  : Nat
  rank  : Nat
  val   : BitVec 32
  flags : BitVec 6
  deriving DecidableEq, Repr

/-- A launch that an urn accepted (R322 to R336). `cells` lists the chain-cell lines its PUBHW words wrote and the doublewords
written in each (R336), `windows` its open accumulation windows as address and bytes (R301), `past` the core and gang of each retired
thread (R182, R310). `owed` is a token that a page that moves keeps from being written, with the root and the ASID of its address (R374);
nothing else is left of that launch. -/
structure Launch where
  id       : Nat
  ctx      : Nat
  image    : BitVec 1024
  token    : TokenDest
  released : Bool
  gangs    : List Gang
  retired  : Nat
  past     : List (Nat × Nat)
  cells    : List (Nat × BitVec 16)
  windows  : List (Word × Nat)
  partials : List Partial
  tags     : List RankTag
  owed     : Option (Word × Nat × BitVec 16)
  deriving DecidableEq, Repr

/-- A queued child task (R337). -/
structure Task where
  cluster : Nat
  launch  : Nat
  gang    : Nat
  parent  : Nat
  entry   : Word
  arg     : Word
  deriving DecidableEq, Repr

/-- A waiter's place in a semaphore's queue: the waiter, what it takes, and the entry whose serial it checked (R291, R313). -/
structure SemPlace where
  uid   : Nat
  take  : BitVec 32
  scope : ScopeEntry
  deriving DecidableEq, Repr

/-- A served waiter's value, which it has not yet departed with (R313, R314). -/
structure SemServed where
  uid   : Nat
  value : Word
  scope : ScopeEntry
  deriving DecidableEq, Repr

/-- A semaphore that is not all zero: count, error flag, waiters in order and the served waiters (R312, R313). -/
structure Sem where
  num    : Nat
  count  : BitVec 32
  err    : Bool
  queue  : List SemPlace
  served : List SemServed
  deriving DecidableEq, Repr

/-- A barrier instance (R310): its entry as it stood at the checked serial (R291), its participants, the threads that have arrived in
their order, whether it is complete, and the threads that have departed. -/
structure Bar where
  launch   : Nat
  entry    : Nat
  scope    : ScopeEntry
  members  : List Nat
  arrivals : List Nat
  complete : Bool
  left     : List Nat
  deriving DecidableEq, Repr

/-! ## Engines -/

/-- What an engine command does (R345, R346, R347, R358, R375): its operands as the word read them. -/
inductive CmdKind where
  | copy (src dst : Word) (count : Nat)
  | copy2d (desc : BitVec 256)
  | qcopy (desc : BitVec 512)
  | media (block : BitVec 2048)
  | migrate (desc : BitVec 256)
  deriving DecidableEq, Repr

/-- A queued command (R341). Queues 0-47 are those of R340; 48-55 are the migration engines of dies 0-7 (R418).
`wrote` lists the sectors of memory it has written (R284), `result` is the token value once the command is performed. For a media
command `input` is what it has read, `made` the bitstream bytes it has written, `pic` and `row` say how far it is, `posted` that it has
posted and waits for a parameter slot, `took` that it has taken the slot's semaphore and not yet read it, `params` the slots it has read
(R358, R359). -/
structure Cmd where
  queue   : Nat
  kind    : CmdKind
  uid     : Nat
  token   : Nat
  ctx     : Nat
  core    : Nat
  winBase : Nat
  winSize : Nat
  input   : Option (List (BitVec 8))
  made    : Nat
  pic     : Nat
  row     : Nat
  posted  : Bool
  took    : Bool
  params  : List (BitVec 8)
  wrote   : List Nat
  result  : Option Word
  deriving DecidableEq, Repr

/-- A compressed page's image: its first chunk's address, chunk count and the page's bytes (R373). -/
structure Packed where
  addr  : Nat
  k     : Nat
  bytes : List Host.Cell
  deriving DecidableEq, Repr

/-- A host launch queue (R324). -/
structure HostQueue where
  num      : Nat
  ctx      : Nat
  base     : Word
  k        : Nat
  accepted : BitVec 32
  taken    : BitVec 32
  errors   : Nat
  deriving DecidableEq, Repr

/-- An access performed at a network window by a thread, and its answer (R241); the widest is a record of 64 bytes (R235). -/
structure NetAccess where
  uid   : Nat
  port  : Bool
  off   : Nat
  size  : Nat
  store : Bool
  data  : BitVec 512
  deriving DecidableEq, Repr

/-- What a management master is told (R379 to R381, R388, R416, R421). -/
inductive Reply where
  | old (port : Bool) (value : Word)
  | notHolder (port : Bool)
  | refused (port : Bool)
  | done (port : Bool)
  | report (port : Bool) (body : List Byte) (ecdsa : BitVec 768) (lms : Option (List Byte))
  | blackBox (port : Bool) (rings : List (List (BitVec 256))) (copies : List (List (List (BitVec 256))))
  | resetRequest (die : Nat)
  deriving DecidableEq, Repr

/-- Damaged storage (R414 to R417): a line of memory, a line held by a die's L2, a sector of a die's caddy, of a cluster cache or of a
core's read-only path, a scratchpad doubleword, or a 64-bit word of a thread's register (class 0 vector, 1 accumulator, 2 scalar,
3 mask). An error that its code corrects is `soft` in a line of memory and `softNear` in any other storage of a die (R414). -/
inductive Damage where
  | line (n : Nat)
  | soft (n : Nat)
  | softNear (die : Nat)
  | l2 (die line : Nat)
  | caddy (die sector : Nat)
  | sector (cluster addr : Nat)
  | ro (core addr : Nat)
  | scratch (core word : Nat)
  | reg (uid cls num word : Nat)
  deriving DecidableEq, Repr

/-! ## The convoy being executed (log 2, 17) -/

/-- An effect of an element-wise word, or of a word that stands when vstart is nonzero, that a faulting convoy may keep
(R396). `amo` is an atomic's store (R299), `scatter` what a word's contributions have made of a target (R300); `clean` is the cleaning of a store that a fence made a
release (R268), `taken` the use of a network window's answer (R241), `decoded` what a strainer has made of a block (R355), `acquire` the
discarding of a SETVLHW (R118). -/
inductive Eff where
  | vset (reg bit width : Nat) (val : Word)
  | kset (k i : Nat) (b : Bool) (sew : Nat)
  | flags (f : BitVec 6)
  | advance (reg : Nat)
  | store (t : Target) (val mask : BitVec 64) (size : Nat) (rank : Option (Nat × Nat))
  | amo (t : Target) (val : Word) (size : Nat)
  | scatter (word : Nat) (t : Target) (val : Word) (f : BitVec 6)
  | clean (e : ScopeEntry)
  | acquire (e : ScopeEntry)
  | taken (a : NetAccess)
  | decoded (reg : Nat) (place : Option (Nat × Word)) (ahead : List Ahead)
  | acc (a i : Nat) (v : BitVec 32)
  | pte (addr : Nat) (bits : Word)
  | part (launch : Nat) (p : Partial)
  | caddy (die addr : Nat) (act : CaddyAct)
  | sreg (d : Nat) (v : Word)
  | setVl (vl : BitVec 15)
  | setType (vtype : BitVec 6)
  | setBase (hwbase : BitVec 63)
  | bind (b : Binding)
  | seek (reg pos : Nat)
  | tree (t : Tree)
  deriving DecidableEq, Repr

/-- A fault: cause, element, word index and detail (R391, R395). -/
structure FaultRec where
  cause : Nat
  elem  : Nat
  word  : Nat
  info  : Word
  deriving DecidableEq, Repr

/-- What a convoy that waits leaves behind: a semaphore place (R313), a barrier arrival (R311), a request sent to a
network window for an element, the effects of the words before it with the cluster cache cleaned (R283) or, for work that one of them
has started, as they are (R325, R338, log 2), or nothing. -/
inductive Register where
  | nothing
  | hold
  | clean
  | sem (n : Nat) (p : SemPlace)
  | arrive (b : Bar)
  | request (a : NetAccess) (elem : Nat)
  deriving DecidableEq, Repr

/-- The convoy in progress. `kept` lists effects, newest first, with the element they belong to (`none`: the effect of
a position-setting or tree-changing word). `whole` and `wholeK` are the registers and masks that whole-source words read
(R169), `marks` the last-read marks (R121): a register and the bits written since, `trees` the TREE words seen and whether one
of the convoy changes its tree (R220), `tokenRegs` the registers that commands of this
convoy will write with their token numbers (R341), `reset` that a word wrote the device-reset register (R419), `maxlane` the value that a control core's convoy wrote to its own,
which counts from the next convoy (R113). `cycle` is its die's cycle as it issued (R26),
`pages` the pages that its accesses have named, by element (R398), `leaves` the translations that the word in progress uses (R372), `noting` that what happens now belongs to elements and is noted for
a fault (R396), `noteAt` the element of a chunk that it belongs to (R144). -/
structure Convoy where
  addr     : Word
  cycle    : Word
  word     : Nat
  raw      : BitVec 32
  limit    : Option Nat
  fault    : Option FaultRec
  wait     : Option (Wait × Register)
  vstart0  : Nat
  vstartSet : Bool
  next     : Option Word
  kept     : List (Option Nat × Eff)
  whole    : List Nat
  wholeK   : List Nat
  marks    : List (Nat × BitVec 32768)
  trees    : Nat × Bool
  cmds     : List Cmd
  diags    : List DiagWord
  tokenRegs : List (Nat × Nat)
  trap     : Option FaultRec
  halt     : Bool
  yield    : Bool
  reset    : Bool
  maxlane  : Option (BitVec 2)
  pages    : List (Nat × Nat)
  leaves   : List TlbEntry
  noting   : Bool
  noteAt   : Option Nat
  deriving DecidableEq, Repr

/-! ## Threads -/

/-- A thread: a control core's one thread, or the thread of a compute core's slot (R11, R81, R330). `core` is the device
core number, or 4,096 + n for control core n (R10, R17). `tokens` pairs a register with the token number it waits for;
`relStores` holds, for each fence that made later stores releases, its scope as checked and its classes (R259, R268); `landed` the
registers that hold a written token, each with the sectors that its command wrote or, for a launch's token, without (R284, R335);
`needs` the translations that a resumed convoy holds until its element completes (R398); `saved` the window of a parked thread, by offset
(R406), and `parkAt` the address of its image in a park region (R407);
`held` is a convoy whose words before a BAR, QFENCE, TJOIN, token or network access that waits have taken effect (R283, R311, R325, R338, log 2);
`yieldTo` the threads that are owed an issue opportunity before this one is selected again (R88); `carried` the last-read marks
of convoys that faulted, by address and the vstart they left (R121, log 43). -/
structure Thread where
  uid      : Nat
  core     : Nat
  slot     : Nat
  ctx      : Nat
  launch   : Nat
  gang     : Nat
  index    : Nat
  threadNo : BitVec 32
  lcoreNo  : BitVec 32
  lgangNo  : BitVec 32
  lcountNo : BitVec 32
  det      : Bool
  pc       : Word
  regs     : Vector Word 32
  vregs    : Vector (BitVec 32768) 32
  masks    : Vector MaskReg 8
  accs     : Vector (BitVec 65536) 8
  accCfg   : Vector Word 8
  tree     : Tree
  pins     : Vector Word 16
  binds    : List Binding
  csr      : Csrs
  priv     : Priv
  nregs    : Nat
  naccs    : Nat
  winBase  : Nat
  winSize  : Nat
  tokens   : List (Nat × Nat)
  parent   : Option Nat
  join     : BitVec 32
  retired  : BitVec 32
  prio     : Nat
  curPrio  : Nat
  passed   : Nat
  yieldTo  : List Nat
  govHeld  : Bool
  run      : RunState
  parked   : Bool
  wait     : Wait
  trap     : Option TrapRec
  relStores : List (ScopeEntry × BitVec 16)
  landed   : List (Nat × Option (List Nat))
  needs    : List TlbEntry
  saved    : List Host.Cell
  parkAt   : Option Nat
  held     : Option Convoy
  carried  : List (Word × Nat × List (Nat × BitVec 32768))
  deriving DecidableEq, Repr

/-! ## The machine -/

/-- The whole machine. `th` is the thread whose convoy the next step runs; `others` holds every other thread. `woken` lists the
compressed pages that an access has met and no engine has expanded yet, by ASID and page (R374); `replays` counts each fabric port's flit
replays, 8 for a port that was up and must train again (R414). -/
structure State where
  th       : Thread
  others   : List Thread
  nextUid  : Nat
  mem      : List Host.Cell
  scratch  : List Host.Cell
  metas    : List (Nat × BitVec 32)
  copies   : List (Nat × Nat)
  sectors  : List Sector
  ro       : List RoSector
  icache   : List ICopy
  tlb      : List TlbEntry
  slices   : List SliceEntry
  walks    : List WalkEntry
  woken    : List (BitVec 16 × Nat)
  cores    : List CoreRec
  dies     : Vector Die 9
  ctxs     : List Ctx
  launches : List Launch
  nextLaunch : Nat
  tasks    : List Task
  sems     : List Sem
  bars     : List Bar
  queues   : List Cmd
  packed   : List Packed
  hostQs   : List HostQueue
  netOut   : List NetAccess
  netIn    : List NetAccess
  ringBase : Word
  ringSize : Word
  ringTail : Word
  ringHead : Word
  ringWait : List Nat
  mgmt     : Word
  identity : Word
  fabric   : BitVec 18
  replays  : Vector Nat 18
  measures : Vector (BitVec 384) 4
  versions : Vector Nat 3
  rollback : Vector Nat 3
  stage    : Nat
  failing  : Nat
  bootFuses : Nat
  leaves   : Nat
  flash    : List (List Byte)
  bbFlash  : List (List (List (BitVec 256)))
  replies  : List Reply
  damage   : List Damage
  cv       : Convoy
  agenda   : List Instr
  free     : Nat
  deriving DecidableEq, Repr

/-- Why the machine would stop for good. No meaning of this model raises one: every instruction and event completes, traps
or waits (safe: none is reached). -/
inductive Fault where
  /-- Raised by nobody; the type needs a name for a machine that cannot go on (safe). -/
  | stuck
  deriving DecidableEq, Repr

/-- Why an instruction would have no meaning. -/
inductive Refusal where
  /-- Raised by the arm of an instruction that has no meaning yet (safe). -/
  | notModelled (mnemonic : String)
  deriving DecidableEq, Repr

/-! ## Reset -/

/-- The default accumulator configuration: L 2,048, q 1, o 0, linear, policy 0, n 2,048, span 1 (R190). -/
def defaultAccCfg : Word := 0x1800000000001800#64

/-- The user control registers at thread start (R81); after reset a control core has the same (log 5). -/
def Csrs.start : Csrs where
  vl := 0
  vtype := 0x01#6
  vstart := 0
  frm := 0
  fflags := 0
  hwbase := 0
  hwscope := 0
  uth := 0
  uepc := 0
  ucause := 0
  uinfo := 0
  ustat := 0
  phase := 0
  dgov := 0
  cvret := 0
  preempted := 0

/-- The privileged registers at reset (R394). -/
def Priv.reset : Priv where
  privileged := true
  sstatus := 0x8#64
  sepc := 0
  scause := 0
  sinfo := 0
  maxlane := 3#2
  asid := 0
  ptroot := 0
  dbudget := 1024#11
  sth := 0

/-- A control core's thread at reset: the full register file (R17), registers zero (log 5), pc 0 (log 4). Control core 0
runs (R384); the others are halted until the boot has loaded stage 1 (log 4). -/
def Thread.resetControl (n : Nat) : Thread where
  uid := n
  core := 4096 + n
  slot := 0
  ctx := 64
  launch := 0
  gang := 0
  index := 0
  threadNo := 0
  lcoreNo := 0
  lgangNo := 0
  lcountNo := 0
  det := false
  pc := 0
  regs := Vector.replicate 32 0
  vregs := Vector.replicate 32 0
  masks := Vector.replicate 8 (.bitmap 0)
  accs := Vector.replicate 8 0
  accCfg := Vector.replicate 8 defaultAccCfg
  tree := ⟨0, []⟩
  pins := Vector.replicate 16 0
  binds := []
  csr := Csrs.start
  priv := Priv.reset
  nregs := 32
  naccs := 8
  winBase := 0
  winSize := 131072
  tokens := []
  parent := none
  join := 0
  retired := 0
  prio := 0
  curPrio := 0
  passed := 0
  yieldTo := []
  govHeld := false
  run := if n = 0 then .ready else .halted
  parked := false
  wait := .none
  trap := none
  relStores := []
  landed := []
  needs := []
  saved := []
  parkAt := none
  held := none
  carried := []

/-- No convoy in progress. -/
def Convoy.empty : Convoy where
  addr := 0
  cycle := 0
  word := 0
  raw := 0
  limit := none
  fault := none
  wait := none
  vstart0 := 0
  vstartSet := false
  next := none
  kept := []
  whole := []
  wholeK := []
  marks := []
  trees := (0, false)
  cmds := []
  diags := []
  tokenRegs := []
  trap := none
  halt := false
  yield := false
  reset := false
  maxlane := none
  pages := []
  leaves := []
  noting := true
  noteAt := none

/-- A die after reset: counters 0 (R25, R210), an empty black box (R420), wear not yet known (R422). -/
def Die.reset : Die where
  cycle := 0
  window := 0
  corrected := 0
  multicast := 0
  scrubbed := 0
  bbSeq := 0
  bb := []
  wear := 0xFFFF#16
  parkBase := 0
  parkSize := 0
  lost := []
  urn := []
  caddy := []

/-- The machine right after its first reset. -/
def State.reset : State where
  th := Thread.resetControl 0
  others := (List.range 15).map (fun i => Thread.resetControl (i + 1))
  nextUid := 16
  mem := []
  scratch := []
  metas := []
  copies := []
  sectors := []
  ro := []
  icache := []
  tlb := []
  slices := []
  walks := []
  woken := []
  cores := []
  dies := Vector.replicate 9 Die.reset
  ctxs := []
  launches := []
  nextLaunch := 1
  tasks := []
  sems := []
  bars := []
  queues := []
  packed := []
  hostQs := []
  netOut := []
  netIn := []
  ringBase := 0
  ringSize := 0
  ringTail := 0
  ringHead := 0
  ringWait := []
  mgmt := 0
  identity := 0
  fabric := 0
  replays := Vector.replicate 18 0
  measures := Vector.replicate 4 0
  versions := Vector.replicate 3 0
  rollback := Vector.replicate 3 0
  stage := 0
  failing := 0
  bootFuses := 0
  leaves := 0
  flash := []
  bbFlash := []
  replies := []
  damage := []
  cv := Convoy.empty
  agenda := []
  free := 0

end Sys2Proof.Machine
end

