-- ==== Sys2Proof/Machine/Ops.lean ====
section
/-! DEFINITION. The named operations over registers, byte stores, threads and dies; recording and taking an exception,
and the return from one. -/

namespace Sys2Proof.Machine

open Sys2Proof

/-! ## Byte stores in one canonical form -/

/-- A byte no store has reached reads 0 (DESIGN CHOICE, log 6). -/
def blankByte : Byte := 0

/-- The byte at an address. -/
def cellsRead : List Host.Cell → Nat → Byte
  | [], _ => blankByte
  | (x, b) :: t, a => if a = x then b else cellsRead t a

/-- An entry put before the first one with a higher address. -/
def cellsInsert : List Host.Cell → Nat → Byte → List Host.Cell
  | [], a, v => [(a, v)]
  | (x, b) :: t, a, v => if a < x then (a, v) :: (x, b) :: t else (x, b) :: cellsInsert t a v

/-- Store one byte; storing the blank byte removes the entry. -/
def cellsWrite (m : List Host.Cell) (a : Nat) (v : Byte) : List Host.Cell :=
  let rest := m.filter (fun c => c.1 != a)
  if v = blankByte then rest else cellsInsert rest a v

/-- The canonical form: addresses strictly rising from `lo`, no blank byte listed. -/
def cellsWfFrom : Nat → List Host.Cell → Bool
  | _, [] => true
  | lo, (x, b) :: t => lo ≤ x && b ≠ blankByte && cellsWfFrom (x + 1) t

/-- The canonical form of a byte store. -/
def Memory.wf (m : List Host.Cell) : Bool := cellsWfFrom 0 m

/-- `n` bytes from an address up, as a number, lowest byte first (R4). -/
def cellsReadNat (m : List Host.Cell) (a : Nat) : Nat → Nat
  | 0 => 0
  | n + 1 => (cellsRead m a).toNat + 256 * cellsReadNat m (a + 1) n

/-- Store the bits of `v` that `mask` selects into `n` bytes from `a` up, lowest byte first (R4, R101). -/
def cellsMerge (m : List Host.Cell) (a : Nat) (v mask : Nat) : Nat → List Host.Cell
  | 0 => m
  | n + 1 =>
    let k : Byte := BitVec.ofNat 8 mask
    let old := cellsRead m a
    let m' := if k = 0 then m else cellsWrite m a ((old &&& ~~~k) ||| (BitVec.ofNat 8 v &&& k))
    cellsMerge m' (a + 1) (v / 256) (mask / 256) n

/-! ## Vectors and lists -/

/-- Element `i` of a vector, or `d` beyond it. -/
def vget {α : Type} {n : Nat} (xs : Vector α n) (i : Nat) (d : α) : α := xs[i]?.getD d

/-- `xs` with element `i` replaced. -/
def vput {α : Type} {n : Nat} (xs : Vector α n) (i : Nat) (x : α) : Vector α n := xs.setIfInBounds i x

/-- The list with `f` applied to each entry that `p` selects. -/
def updWhere {α : Type} (p : α → Bool) (f : α → α) (l : List α) : List α := l.map (fun x => if p x then f x else x)

/-- The indices from `lo` up to `hi`, excluded. -/
def span (lo hi : Nat) : List Nat := (List.range (hi - lo)).map (· + lo)

/-- Sign extension of the low `n` bits of a word to 64 bits. -/
def sextBits (n : Nat) (x : Word) : Word :=
  if n = 0 then 0 else ((x <<< (64 - n)).sshiftRight (64 - n))

/-- The low `n` bits of a word. -/
def lowBits (n : Nat) (x : Word) : Word := x &&& (BitVec.ofNat 64 (2 ^ n - 1))

/-! ## Scalar registers -/

/-- Register s of a thread; s0 reads zero (R65). -/
def Thread.reg (t : Thread) (d : Nat) : Word := if d = 0 then 0 else vget t.regs d 0

/-- Write register s; writes to s0 are discarded (R65). -/
def Thread.setReg (t : Thread) (d : Nat) (v : Word) : Thread :=
  if d = 0 then t else { t with regs := vput t.regs d v }

/-- Change the current thread. -/
def State.onTh (s : State) (f : Thread → Thread) : State := { s with th := f s.th }

/-- Change the current thread's user control registers. -/
def State.onCsr (s : State) (f : Csrs → Csrs) : State := s.onTh (fun t => { t with csr := f t.csr })

/-- Change the convoy in progress. -/
def State.onCv (s : State) (f : Convoy → Convoy) : State := { s with cv := f s.cv }

/-- Register s of the current thread. -/
def State.reg (s : State) (d : BitVec 5) : Word := s.th.reg d.toNat

/-- Write register s of the current thread. -/
def State.setReg (s : State) (d : BitVec 5) (v : Word) : State := s.onTh (fun t => t.setReg d.toNat v)

/-- A free choice for the model's next open point, and the state that has used it (log 3). -/
def State.freeChoice (s : State) : Bool × State := (Config.choice s.free, { s with free := s.free + 1 })

/-! ## Places: cores, clusters, dies (R9, R10, R17) -/

/-- The cluster of a core; 128 is the control cluster. -/
def clusterOf (core : Nat) : Nat := if core < 4096 then core / 32 else 128

/-- The die of a core; 8 is the I/O die. -/
def dieOf (core : Nat) : Nat := if core < 4096 then core / 512 else 8

/-- The core is one of the 16 control cores. -/
def isControl (core : Nat) : Bool := 4096 ≤ core

/-- A core's settings; a core without an entry has the reset values (R113). -/
def State.coreRec (s : State) (core : Nat) : CoreRec :=
  (s.cores.find? (·.core == core)).getD ⟨core, 3#2, 1024#11, 1024#11, 0, false, 0, 0, []⟩

/-- Replace a core's settings. -/
def State.putCore (s : State) (c : CoreRec) : State :=
  { s with cores := c :: s.cores.filter (·.core != c.core) }

/-- Change one die. -/
def State.onDie (s : State) (d : Nat) (f : Die → Die) : State :=
  { s with dies := vput s.dies d (f (vget s.dies d Die.reset)) }

/-- A die. -/
def State.die (s : State) (d : Nat) : Die := vget s.dies d Die.reset

/-- Powered lane groups of a maxlane code (R113). -/
def lanesOf (code : BitVec 2) : Nat := 2 ^ code.toNat

/-- Powered lane groups the current thread's core has (R110, R112, R113). -/
def State.lanes (s : State) : Nat :=
  if isControl s.th.core then lanesOf s.th.priv.maxlane else lanesOf (s.coreRec s.th.core).maxlane

/-- Bytes of the current thread's scratchpad window that its core's powered lane groups hold: a control core's window is its whole
scratchpad (R17, R135). -/
def State.winBytes (s : State) : Nat := min s.th.winSize (16384 * s.lanes)

/-- The identity bits of this device's addresses (R382, R383). -/
def State.ident (s : State) : Nat := (s.identity.toNat % 8192)

/-- The first global physical address of this device (R15). -/
def State.deviceBase (s : State) : Nat := s.ident * 2 ^ 43

/-! ## Element width and length (R109, R110) -/

/-- SEW in bits from vtype. -/
def sewOf (vtype : BitVec 6) : Nat := 16 * 2 ^ (vtype.extractLsb' 0 2).toNat

/-- LMUL from vtype. -/
def lmulOf (vtype : BitVec 6) : Nat := 2 ^ (vtype.extractLsb' 2 2).toNat

/-- VLMAX of R110. -/
def vlmaxOf (vtype : BitVec 6) (lanes : Nat) : Nat := lmulOf vtype * 4096 * lanes / sewOf vtype

def State.sew (s : State) : Nat := sewOf s.th.csr.vtype
def State.lmul (s : State) : Nat := lmulOf s.th.csr.vtype
def State.vlmax (s : State) : Nat := vlmaxOf s.th.csr.vtype s.lanes
def State.vl (s : State) : Nat := s.th.csr.vl.toNat
def State.vstart (s : State) : Nat := s.th.csr.vstart.toNat
/-- Tail-agnostic, mask-agnostic (R109, R119). -/
def State.ta (s : State) : Bool := s.th.csr.vtype.getLsbD 4
def State.ma (s : State) : Bool := s.th.csr.vtype.getLsbD 5
/-- Elements that one register holds at the given SEW (R111). -/
def State.perReg (s : State) (sew : Nat) : Nat := 4096 * s.lanes / sew

/-! ## Recording a fault or a wait -/

/-- Record a fault at an element; the lowest element wins, then the lowest word (R395). Elements at or above it are
not worked on by later words. -/
def State.raise (s : State) (cause elem : Nat) (info : Word) : State :=
  match s.cv.fault with
  | some f => if elem < f.elem then s.onCv (fun c => { c with fault := some ⟨cause, elem, c.word, info⟩, limit := some elem })
              else s
  | none => s.onCv (fun c => { c with fault := some ⟨cause, elem, c.word, info⟩, limit := some elem })

/-- Record a fault of a word that R395 counts at vstart. -/
def State.raiseHere (s : State) (cause : Nat) (info : Word) : State := s.raise cause s.cv.vstart0 info

/-- The convoy must wait; `r` is what the wait leaves behind (R24, R395). -/
def State.waitFor (s : State) (w : Wait) (r : Register) : State := s.onCv (fun c => { c with wait := some (w, r) })

/-- The word goes on: no fault that stops it at its first element, and no wait. -/
def State.goes (s : State) : Bool :=
  s.cv.wait.isNone && match s.cv.fault with
    | none => true
    | some f => s.cv.vstart0 < f.elem

/-- The word stops before element `e`: a fault is at or below it, or the convoy waits. -/
def State.stopsAt (s : State) (e : Nat) : Bool :=
  s.cv.wait.isSome || (match s.cv.limit with
    | some l => l ≤ e
    | none => false)

/-- Bits [63:0] of an illegal-instruction detail (R64): word, sub-code, register. -/
def illegalInfo (raw : BitVec 32) (sub reg cls : Nat) : Word :=
  BitVec.ofNat 64 (raw.toNat + sub % 256 * 2 ^ 32 + reg % 32 * 2 ^ 40 + cls % 8 * 2 ^ 45)

/-- An illegal instruction with a sub-code of R64, counted at vstart. -/
def State.illegal (s : State) (sub reg : Nat) : State := s.raiseHere 0x01 (illegalInfo s.cv.raw sub reg 0)

/-- Address form of a detail (R391): address and access kind. -/
def addrInfo (addr : Word) (kind : Nat) : Word := BitVec.ofNat 64 (addr.toNat % 2 ^ 57 + kind % 4 * 2 ^ 57)

/-- Number form of a detail (R391). -/
def numberInfo (n : Nat) : Word := BitVec.ofNat 64 (n % 65536 + 2 ^ 59)

/-! ## Effects that a faulting convoy may keep (R396) -/

/-- Note an effect of an element, newest first; a word counted at vstart has none but those of its chunks. -/
def State.keep (s : State) (elem : Nat) (e : Eff) : State :=
  if s.cv.noting then s.onCv (fun c => { c with kept := (some (s.cv.noteAt.getD elem), e) :: c.kept }) else s

/-- An operation whose effects belong to element `e` of a chunk, whatever the word and wherever it would fault (R144). -/
def State.noted (s : State) (e : Nat) (f : State → State) : State :=
  let on := s.cv.noting
  let at_ := s.cv.noteAt
  (f (s.onCv (fun c => { c with noting := true, noteAt := some e }))).onCv (fun c => { c with noting := on, noteAt := at_ })

/-- Note an effect of a position-setting or tree-changing word (R114, R220). -/
def State.keepStanding (s : State) (e : Eff) : State := s.onCv (fun c => { c with kept := (none, e) :: c.kept })

/-- OR flags into fflags (R80). -/
def State.orFlags (s : State) (f : BitVec 6) : State := s.onCsr (fun c => { c with fflags := c.fflags ||| f })

/-! ## The black box (R420) -/

/-- Stage 1 copies every ring to flash; the last 8 copies stay (R421). Nothing happens while stage 1 does not run. -/
def State.copyRings (s : State) : State :=
  if s.stage = 0 then s
  else { s with bbFlash := (s.bbFlash ++ [s.dies.toList.map (·.bb)]).drop (s.bbFlash.length + 1 - 8) }

/-- An event of a die enters its ring: the oldest of 4,096 entries gives way. -/
def State.logEvent (s : State) (d code : Nat) (asid : BitVec 16) (detail : Word) : State :=
  s.onDie d (fun x =>
    let entry : BitVec 256 := detail ++ (0#16) ++ asid ++ (0#8) ++ BitVec.ofNat 8 d ++ BitVec.ofNat 16 code ++ x.cycle ++ x.bbSeq
    { x with bbSeq := x.bbSeq + 1, bb := (x.bb ++ [entry]).drop ((x.bb.length + 1) - 4096) })

/-- An event of a die is logged; codes 0x01, 0x05 and 0x09 also make stage 1 copy the rings (R420, R421). -/
def State.blackBox (s : State) (d code : Nat) (asid : BitVec 16) (detail : Word) : State :=
  let s := s.logEvent d code asid detail
  if code = 0x01 || code = 0x05 || code = 0x09 then s.copyRings else s

/-! ## Contexts (R363, R364) -/

/-- The record of a slot as it stands in the device registers; a slot never written reads 0 (log 7). -/
def State.ctxRec (s : State) (slot : Nat) : BitVec 512 := ((s.ctxs.find? (·.slot == slot)).map (·.image)).getD 0

/-- A context's ASID; ASID 0 is the control cores' (R363). -/
def State.asidOfSlot (s : State) (slot : Nat) : BitVec 16 := (s.ctxRec slot).extractLsb' 0 16

/-- The ASID under which a thread translates. -/
def State.asidOf (s : State) (t : Thread) : BitVec 16 := if isControl t.core then t.priv.asid else s.asidOfSlot t.ctx

/-! ## Taking an exception -/

/-- Causes delivered to the user handler (R85, R391). -/
def userDeliverable (cause : Nat) : Bool := [0x08, 0x0A, 0x0B, 0x0C, 0x0D, 0x0E, 0x10].contains cause

/-- The status word a trap saves: word index, in-handler, previous mode, vstart (R85, R392, R394). -/
def savedStatus (word : Nat) (mode : Bool) (vstart : BitVec 15) : Word :=
  BitVec.ofNat 64 (word % 4 + 4 + (if mode then 8 else 0) + vstart.toNat * 2 ^ 16)

/-- Delivery to the user handler (R85). -/
def Thread.userTrap (t : Thread) (epc : Word) (f : FaultRec) : Thread :=
  { t with
    pc := t.csr.uth
    csr := { t.csr with
      uepc := epc
      ucause := BitVec.ofNat 8 f.cause
      uinfo := f.info
      ustat := savedStatus f.word false t.csr.vstart
      vstart := 0 } }

/-- Delivery to a control core's own handler (R394). -/
def Thread.controlTrap (t : Thread) (epc : Word) (f : FaultRec) : Thread :=
  { t with
    pc := t.priv.sth
    csr := { t.csr with vstart := 0 }
    priv := { t.priv with
      sepc := epc
      scause := BitVec.ofNat 8 f.cause
      sinfo := f.info
      sstatus := savedStatus f.word t.priv.privileged t.csr.vstart
      privileged := true } }

/-- A compute-core thread stops at its convoy with a trap record that the ring will take (R392). -/
def Thread.stopTrap (t : Thread) (epc : Word) (f : FaultRec) : Thread :=
  { t with
    pc := epc
    run := .stopped
    trap := some ⟨epc, BitVec.ofNat 8 f.cause, f.info, savedStatus f.word false t.csr.vstart, none⟩ }

/-- The detail of a control core's stop: the convoy address in bits [56:0], the cause in [63:57] (R394, R420, log 56). -/
def stopDetail (epc : Word) (cause : Nat) : Word := BitVec.ofNat 64 (epc.toNat % 2 ^ 57 + cause % 128 * 2 ^ 57)

/-- Taking an exception: a user-deliverable cause goes to uth unless uth is 0 or a handler is active (R85); otherwise a
compute-core thread stops and its record waits for the ring (R392), and a control core enters its handler or, if one
is active, stops for good with a black-box event (R394). `epc` is the address the trap records. -/
def State.takeTrap (s : State) (epc : Word) (f : FaultRec) : State :=
  let t := s.th
  if userDeliverable f.cause && t.csr.uth ≠ 0 && !t.csr.ustat.getLsbD 2 then s.onTh (·.userTrap epc f)
  else if isControl t.core then
    if t.priv.sstatus.getLsbD 2 then
      (s.onTh (fun t => { t with run := .halted })).blackBox 8 0x09 (s.asidOf t) (stopDetail epc f.cause)
    else s.onTh (·.controlTrap epc f)
  else { s.onTh (·.stopTrap epc f) with ringWait := s.ringWait ++ [t.uid] }

/-- The return from a user handler (R87). -/
def Thread.userReturn (t : Thread) : Thread :=
  { t with
    pc := t.csr.uepc
    csr := { t.csr with vstart := t.csr.ustat.extractLsb' 16 15, ustat := 0 } }

/-- The return from a system handler on a control core (R403). -/
def Thread.controlReturn (t : Thread) : Thread :=
  { t with
    pc := t.priv.sepc
    csr := { t.csr with vstart := t.priv.sstatus.extractLsb' 16 15 }
    priv := { t.priv with
      privileged := t.priv.sstatus.getLsbD 3
      sstatus := t.priv.sstatus &&& ~~~(4#64) } }

/-! ## Threads -/

/-- Every thread, the current one first. -/
def State.threads (s : State) : List Thread := s.th :: s.others

/-- Change the threads that `p` selects, the current one included. -/
def State.onThreads (s : State) (p : Thread → Bool) (f : Thread → Thread) : State :=
  { s with th := (if p s.th then f s.th else s.th), others := updWhere p f s.others }

/-- Make the thread with this number the current one. -/
def State.switchTo (s : State) (uid : Nat) : State :=
  match s.others.find? (·.uid == uid) with
  | some t => { s with th := t, others := s.th :: s.others.filter (·.uid != uid) }
  | none => s

/-- A token's value enters the register that waits for it. -/
def Thread.takeToken (t : Thread) (token : Nat) (v : Word) (cover : Option (List Nat)) : Thread :=
  match t.tokens.find? (·.2 == token) with
  | some (d, _) => { t.setReg d v with
      tokens := t.tokens.filter (·.2 != token), landed := (d, cover) :: t.landed.filter (·.1 != d) }
  | none => t

/-- Mask register `k`; k0 reads all ones (R123). -/
def Thread.mask (t : Thread) (k : Nat) : MaskReg := if k = 0 then .bitmap (BitVec.allOnes 16384) else vget t.masks k (.bitmap 0)

/-- A token's value is written to the register that waits for it (R325, R341), with what its reads discard (R284, R335); a thread
that has retired receives nothing (R404). -/
def State.writeToken (s : State) (uid token : Nat) (v : Word) (cover : Option (List Nat)) : State :=
  s.onThreads (fun t => t.uid == uid) (fun t => t.takeToken token v cover)

end Sys2Proof.Machine
end

