-- ==== Sys2Proof/Machine/Home.lean ====
section
/-! DEFINITION. Homes (R247): memory at its home, the coherence metadata (R249) and what a home does with each request (R245, R250 to
R253), copies and caddy sectors (R227, R228), corrected and uncorrectable lines (R414, R416). -/

namespace Sys2Proof.Machine

open Sys2Proof

/-! ## Homes -/

/-- `n` bytes at a home, lowest byte first. -/
def State.homeRead (s : State) (a n : Nat) : Nat := cellsReadNat s.mem a n

/-- The bits of `v` that `mask` selects stored at a home. -/
def State.homeWrite (s : State) (a v mask n : Nat) : State := { s with mem := cellsMerge s.mem a v mask n }

/-- The home die of a local offset (R247): by 128 GiB of HBM, by 768 GiB of the capacity tier. -/
def homeDie (x : Nat) : Nat := if x < 2 ^ 40 then x / 2 ^ 37 % 8 else (x - 2 ^ 40) / (3 * 2 ^ 38) % 8

/-- The home slice of a local offset (R247). -/
def homeSlice (x : Nat) : Nat := (x / 2 ^ 7 % 16) ^^^ (x / 2 ^ 11 % 16) ^^^ (x / 2 ^ 15 % 16) ^^^ (x / 2 ^ 19 % 16)

/-- The source field of a data error at a global physical address (R415): 0 HBM, 1 capacity tier, 7 peer device. -/
def State.sourceOf (s : State) (a : Nat) : Nat :=
  if a / 2 ^ 43 ≠ s.ident then 7 else if a % 2 ^ 43 < 2 ^ 40 then 0 else 1

/-- The address lies on another device and no fabric port is up (R417). -/
def State.pathDown (s : State) (a : Nat) : Bool := a / 2 ^ 43 ≠ s.ident && s.fabric == 0

/-! ## Metadata (R249) -/

/-- The states of a line, in the order of their codes. -/
inductive Coh where
  | i | s | e | o | m | sw
  deriving DecidableEq, Repr

/-- A line's metadata: state, pointer agent, mask of the home device's dies, and remote-sharer count. -/
structure Meta where
  coh   : Coh
  ptr   : Nat
  mask  : BitVec 8
  count : Nat
  deriving DecidableEq, Repr

/-- The code of a state. -/
def Coh.code : Coh → Nat
  | .i => 0
  | .s => 1
  | .e => 2
  | .o => 3
  | .m => 4
  | .sw => 5

/-- The state of a code; 6 and 7 are none (R253). -/
def Coh.ofCode (n : Nat) : Option Coh := [Coh.i, .s, .e, .o, .m, .sw][n]?

/-- The 32 bits of a line's metadata. -/
def Meta.bits (x : Meta) : BitVec 32 :=
  BitVec.ofNat 32 (x.coh.code * 2 ^ 29 + x.ptr % 65536 * 2 ^ 13 + x.mask.toNat * 2 ^ 5 + x.count % 32)

/-- Metadata read back; nothing for a state code of 6 or 7. -/
def Meta.ofBits (b : BitVec 32) : Option Meta :=
  (Coh.ofCode (b.extractLsb' 29 3).toNat).map (fun c => ⟨c, (b.extractLsb' 13 16).toNat, b.extractLsb' 5 8, (b.extractLsb' 0 5).toNat⟩)

/-- No copies. -/
def Meta.none : Meta := ⟨.i, 0, 0, 0⟩

/-- The stored bits of a line's metadata; a line never granted is in I. -/
def State.metaBits (s : State) (line : Nat) : BitVec 32 := ((s.metas.find? (·.1 == line)).map (·.2)).getD 0

/-- Write a line's metadata; state I with nothing else is not listed. -/
def State.putMeta (s : State) (line : Nat) (x : Meta) : State :=
  let rest := s.metas.filter (·.1 != line)
  { s with metas := if x.bits = 0 then rest else (line, x.bits) :: rest }

/-- The line is homed on this device (R247). -/
def State.ownLine (s : State) (line : Nat) : Bool := line / 2 ^ 36 == s.ident && line % 2 ^ 36 < 7 * 2 ^ 33

/-- An agent of the domain: an L2 of a die of a device (R249). -/
def isAgent (a : Nat) : Bool := a < 4608 * 8

/-- The agent is an L2 of the home device. -/
def State.localAgent (s : State) (a : Nat) : Bool := a / 8 == s.ident

/-- Add a sharer: to the mask, or to pointer and count; a second remote sharer makes Sw, whose remote sharers are not named. -/
def Meta.share (x : Meta) (isLocal : Bool) (a : Nat) : Meta :=
  if isLocal then ⟨x.coh, x.ptr, x.mask ||| (1#8 <<< (a % 8)), x.count⟩
  else match x.coh with
    | .s =>
      if x.count = 0 then ⟨.s, a, x.mask, 1⟩
      else if x.ptr = a then x
      else ⟨.sw, 0, x.mask, min 31 (x.count + 1)⟩
    | c => ⟨c, x.ptr, x.mask, min 31 (x.count + 1)⟩

/-! ## Uncorrectable lines (R253, R416) -/

/-- The line is in its home's lost-line table: every access to it faults (R416). A damaged line of another device counts as in the
table of its home (log 30). -/
def State.lineLost (s : State) (a : Nat) : Bool :=
  if a / 2 ^ 43 ≠ s.ident then s.damage.contains (.line (a / 128)) else (s.die (homeDie (a % 2 ^ 43))).lost.contains (a / 128 * 128)

/-- The line of an address is uncorrectable, its metadata included, lost or out of reach (R253, R416, R417). -/
def State.lineBad (s : State) (a : Nat) : Bool :=
  s.pathDown a || s.damage.contains (.line (a / 128)) || s.lineLost a ||
  (s.ownLine (a / 128) && (Meta.ofBits (s.metaBits (a / 128))).isNone)

/-- A management master is told something (R379). -/
def State.reply (s : State) (r : Reply) : State := { s with replies := s.replies ++ [r] }

/-- The home die enters a line in its table, or, with the table full, asks both masters for a reset; a line of another device is its
home's to enter (log 30). -/
def State.loseLine (s : State) (line : Nat) : State :=
  let a := line * 128
  let d := homeDie (a % 2 ^ 43)
  if a / 2 ^ 43 ≠ s.ident then (if s.damage.contains (.line line) then s else { s with damage := .line line :: s.damage })
  else if (s.die d).lost.contains a then s
  else if (s.die d).lost.length < 1024 then
    (s.onDie d (fun x => { x with lost := x.lost ++ [a] })).blackBox d 0x03 0 (BitVec.ofNat 64 (a / 65536 * 65536))
  else (((s.blackBox d 0x03 0 (BitVec.ofNat 64 a)).blackBox d 0x05 0 (BitVec.ofNat 64 a)).reply (.resetRequest d))

/-- The home has read an uncorrectable line of its own device (R253, R416). -/
def State.foundBad (s : State) (a : Nat) : State :=
  if a / 2 ^ 43 == s.ident && s.lineBad a then s.loseLine (a / 128) else s

/-! ## Corrected errors (R414) -/

/-- Corrected errors of a die are counted; an event is logged at every 2^16 of them (R414, R420). -/
def State.countCorrected (s : State) (d : Nat) : Nat → State
  | 0 => s
  | n + 1 =>
    let c := (s.die d).corrected + 1
    let s := s.onDie d (fun x => { x with corrected := c })
    (if c % 65536 = 0 then s.blackBox d 0x02 0 (BitVec.ofNat 64 c) else s).countCorrected d n

/-- The home reads a line: an error that its code corrects is counted and written back corrected (R414). -/
def State.correctLine (s : State) (line : Nat) : State :=
  if s.damage.contains (.soft line) then
    let s := { s with damage := s.damage.filter (· != Damage.soft line) }
    if s.ownLine line then s.countCorrected (homeDie (line * 128 % 2 ^ 43)) 1 else s
  else s

/-! ## Copies (R14, R227, R228, R249) -/

/-- The agent's L2 holds a sector (R14). -/
def State.holdsSector (s : State) (sector a : Nat) : Bool := s.copies.contains (sector, a)

/-- The agent's L2 holds a sector of the line. -/
def State.hasCopy (s : State) (line a : Nat) : Bool := s.copies.any (fun c => c.1 / 4 == line && c.2 == a)

/-- Change the valid bits `m` of the block that holds a line in the caddy of a die, where the block is resident (R227). -/
def State.caddyBits (s : State) (d line : Nat) (m : BitVec 512) (valid : Bool) : State :=
  let f := fun (b : CaddyBlock) => { b with valid := if valid then b.valid ||| m else b.valid &&& ~~~m }
  s.onDie d (fun x => { x with caddy := updWhere (fun (b : CaddyBlock) => b.tag == line / 128) f x.caddy })

/-- A read miss fills the sector of an address in the caddy of an agent's die, where its block is resident; a sector with an
uncorrectable error is refilled (R227, R230). -/
def State.caddyFill (s : State) (agent a : Nat) : State :=
  if s.localAgent agent then
    let s := { s with damage := s.damage.filter (· != Damage.caddy (agent % 8) (a / 32)) }
    s.caddyBits (agent % 8) (a / 128) (1#512 <<< (a / 32 % 512)) true
  else s

/-- An agent's copy is invalidated, its caddy's sectors of the line included (R228); damage of the copy goes with it. -/
def State.dropCopy (s : State) (line a : Nat) : State :=
  let s := { s with copies := s.copies.filter (fun c => !(c.1 / 4 == line && c.2 == a)) }
  if s.localAgent a then
    { s.caddyBits (a % 8) line (0xF#512 <<< (line % 128 * 4)) false with damage := s.damage.filter (· != Damage.l2 (a % 8) line) }
  else s

/-- Every copy of a line but the requester's is invalidated (R250, R251). -/
def State.dropOthers (s : State) (line : Nat) (a : Option Nat) : State :=
  ((s.copies.filter (fun c => c.1 / 4 == line && a != some c.2)).map (·.2)).foldl (fun s b => s.dropCopy line b) s

/-- The state that a write-back by the owner leaves (R250). -/
def Meta.writtenBack (x : Meta) : Meta :=
  match x.coh with
  | .m => .none
  | .o => { x with coh := if x.count = 0 then .s else .sw, ptr := 0 }
  | _ => x

/-- The only copy that is current stands dirty in an L2 of this device and is uncorrectable (R249, R415). -/
def State.dirtyBad (s : State) (line : Nat) : Bool :=
  match Meta.ofBits (s.metaBits line) with
  | some x => (x.coh == .m || x.coh == .o) && s.localAgent x.ptr && s.hasCopy line x.ptr && s.damage.contains (.l2 (x.ptr % 8) line)
  | none => false

/-- The agent owns a line whose only current copy, its own, is dirty and uncorrectable (R249, R416). -/
def State.ownsBad (s : State) (line g : Nat) : Bool := s.dirtyBad line && (Meta.ofBits (s.metaBits line)).any (·.ptr == g)

/-- An agent gives up its copy of a line (R249, R250): an owner in M or O writes it back, one in E tells the home, a sharer does not. A
dirty copy that is uncorrectable loses the line (R416). -/
def State.evictCopy (s : State) (line g : Nat) : State :=
  match (if s.ownLine line then Meta.ofBits (s.metaBits line) else none) with
  | some x =>
    if x.ptr = g && (x.coh = .m || x.coh = .o) then
      ((if s.ownsBad line g then s.loseLine line else s).dropCopy line g).putMeta line x.writtenBack
    else if x.ptr = g && x.coh = .e then (s.dropCopy line g).putMeta line .none
    else s.dropCopy line g
  | none => s.dropCopy line g

/-- An agent receives the sector of an address; an L2 of 64 MiB that is full gives up the line that it has held longest (R243, R244). -/
def State.giveCopy (s : State) (a g : Nat) : State :=
  if s.holdsSector (a / 32) g then s
  else
    let mine := s.copies.filter (·.2 == g)
    let s := if mine.length < 2097152 then s else match mine.getLast? with
      | some c => s.evictCopy (c.1 / 4) g
      | none => s
    { s with copies := (a / 32, g) :: s.copies }

/-! ## Requests (R245, R250) -/

/-- The home reads a line and its metadata, or has an owner supply it; an uncorrectable read or a state code of 6 or 7 loses the line and
grants nothing (R253, R416). -/
def State.homeMeta (s : State) (line : Nat) : Option Meta × State :=
  let s := s.correctLine line
  if s.lineBad (line * 128) || s.dirtyBad line then (none, s.loseLine line) else (Meta.ofBits (s.metaBits line), s)

/-- The state that a shared read leaves: `gone` says that the recorded owner no longer holds the line (R252). -/
def Meta.shared (x : Meta) (loc : Nat → Bool) (a : Nat) (gone : Bool) : Meta :=
  let alone : Meta := ⟨.e, a, 0, 0⟩
  match x.coh with
  | .i => alone
  | .s | .sw => x.share (loc a) a
  | .e => if x.ptr = a then x else if gone then alone else ((⟨.s, 0, 0, 0⟩ : Meta).share (loc x.ptr) x.ptr).share (loc a) a
  | .m => if x.ptr = a then x else if gone then alone else (⟨.o, x.ptr, 0, 0⟩ : Meta).share (loc a) a
  | .o => if x.ptr = a then x else if gone then { x with coh := if x.count = 0 then .s else .sw, ptr := 0 }.share (loc a) a
      else x.share (loc a) a

/-- The state that a shared read without a sharer leaves (R245): an owner keeps what it supplied. -/
def Meta.served (x : Meta) (loc : Nat → Bool) (gone : Bool) : Meta :=
  match x.coh with
  | .e => if gone then .none else (⟨.s, 0, 0, 0⟩ : Meta).share (loc x.ptr) x.ptr
  | .m => if gone then .none else ⟨.o, x.ptr, 0, 0⟩
  | .o => if gone then { x with coh := if x.count = 0 then .s else .sw, ptr := 0 } else x
  | _ => x

/-- The grant of the sector at `a` to an agent, which its caddy fills too (R14, R227, R250). -/
def State.grant (s : State) (a g : Nat) : State := (s.giveCopy a g).caddyFill g a

/-- A shared read of the sector at `a` by an agent, or by one that caches nothing (R245, R250). An agent that holds the sector asks no
home; a line of another device is granted by its home there (log 26). -/
def State.sharedRead (s : State) (agent : Option Nat) (a : Nat) : State :=
  let line := a / 128
  match agent with
  | some g =>
    if s.holdsSector (a / 32) g then s
    else if s.ownLine line then
      match s.homeMeta line with
      | (none, s) => s
      | (some x, s) => (s.putMeta line (x.shared s.localAgent g (!s.hasCopy line x.ptr))).grant a g
    else
      let s := s.correctLine line
      if s.lineBad a then s else s.grant a g
  | none =>
    if s.ownLine line then
      match s.homeMeta line with
      | (none, s) => s
      | (some x, s) => s.putMeta line (x.served s.localAgent (!s.hasCopy line x.ptr))
    else s.correctLine line

/-- An own-read sends a domain multicast: from Sw, and from O with remote sharers (R250, R251). -/
def Meta.multicasts (x : Meta) : Bool := x.coh == .sw || (x.coh == .o && x.count != 0)

/-- An own-read of the line of the sector at `a` (R250): every other copy goes, a multicast is counted on the home die, and the requester owns the
line; one that caches nothing writes it back at once (R245). -/
def State.ownRead (s : State) (agent : Option Nat) (a : Nat) : State :=
  let line := a / 128
  if s.ownLine line then
    match s.homeMeta line with
    | (none, s) => s
    | (some x, s) =>
      let s := s.dropOthers line agent
      let s := if x.multicasts then s.onDie (homeDie (a % 2 ^ 43)) (fun d => { d with multicast := d.multicast + 1 }) else s
      match agent with
      | some g => (s.giveCopy a g).putMeta line ⟨.m, g, 0, 0⟩
      | none => s.putMeta line .none
  else
    let s := s.correctLine line
    if s.lineBad a then s
    else
      let s := s.dropOthers line agent
      match agent with
      | some g => s.giveCopy a g
      | none => s

/-- The L2 of the home of a line of this device, which executes the atomics at home; that of a peer's line is outside (R271, log 26). -/
def State.homeAgent (s : State) (a : Nat) : Option Nat :=
  if s.ownLine (a / 128) then some (s.ident * 8 + homeDie (a % 2 ^ 43)) else none

/-- An L2 of this device holds the sector of an address with an uncorrectable error (R415). -/
def State.l2Bad (s : State) (agent : Option Nat) (a : Nat) : Bool :=
  match agent with
  | some g => s.localAgent g && s.damage.contains (.l2 (g % 8) (a / 128)) && s.holdsSector (a / 32) g
  | none => false

/-- The agent through which a cluster reaches memory: its die's L2; the control cluster has none (R245, R249). -/
def State.agentOf (s : State) (cl : Nat) : Option Nat := if cl < 128 then some (s.ident * 8 + cl / 16) else none

/-- A store at its home: the line is taken by own-read and the bits are merged (R245, R250); an uncorrectable line is lost. -/
def State.storeHome (s : State) (agent : Option Nat) (a v mask n : Nat) : State :=
  let s := s.ownRead agent a
  if s.lineBad a then s else s.homeWrite a v mask n

end Sys2Proof.Machine
end

