-- ==== Sys2Proof/Machine/Mem.lean ====
section
/-! DEFINITION. Memory below the instructions: cluster caches (R244, R270), the page walk (R367 to R370),
the kinds of address (R15, R241) and one access at each kind of place. -/

namespace Sys2Proof.Machine

open Sys2Proof

/-- The detail of a data error (R415). -/
def dataInfo (addr : Word) (kind source : Nat) : Word := BitVec.ofNat 64 (addr.toNat % 2 ^ 57 + kind % 4 * 2 ^ 57 + source % 8 * 2 ^ 59)

/-- The detail of a data error in a register: source 6. The spec gives a register no address and no access kind, so that both are free
(R415, log 47). -/
def State.registerInfo (s : State) : Word := dataInfo (BitVec.ofNat 64 (Config.number s.free)) (Config.number (s.free + 1)) 6

/-! ## Cluster caches -/

/-- The sector of a cluster cache that holds an address. -/
def State.sector (s : State) (cl a : Nat) : Option Sector :=
  s.sectors.find? (fun x => x.cluster == cl && x.addr == a / 32)

/-- Put a sector in place of the cache's copy. -/
def State.putSector (s : State) (x : Sector) : State :=
  { s with sectors := x :: s.sectors.filter (fun y => !(y.cluster == x.cluster && y.addr == x.addr)) }

/-- The sector with the bits not written filled from its home (R244). -/
def State.filledSector (s : State) (cl a : Nat) : Sector :=
  let home : BitVec 256 := BitVec.ofNat 256 (s.homeRead (a / 32 * 32) 32)
  match s.sector cl a with
  | some x => if x.filled then x else { x with data := (x.data &&& x.written) ||| (home &&& ~~~x.written), filled := true }
  | none => ⟨cl, a / 32, home, 0, true⟩

/-- A sector is gone from its cache, and a damaged copy with it. -/
def State.dropSector (s : State) (x : Sector) : State :=
  { s with
    sectors := s.sectors.filter (fun y => !(y.cluster == x.cluster && y.addr == x.addr))
    damage := s.damage.filter (· != .sector x.cluster x.addr) }

/-- A cluster cache of 2 MiB can take the sector of an address (R243). -/
def State.hasRoom (s : State) (cl a : Nat) : Bool := (s.sector cl a).isSome || (s.sectors.filter (·.cluster == cl)).length < 65536

/-- A full cluster cache gives up the clean sector that it has held longest, if it has one (R243, R244). -/
def State.makeRoom (s : State) (cl a : Nat) : State :=
  if s.hasRoom cl a then s
  else match (s.sectors.filter (fun x => x.cluster == cl && x.written == 0)).getLast? with
    | some x => s.dropSector x
    | none => s

/-- The sector of a cluster cache is filled from the line's home through the die's L2 where it is not whole (R244); a cache full of dirty
sectors keeps no copy. -/
def State.fillSector (s : State) (cl a : Nat) : State :=
  let s := match s.sector cl a with
    | some x => if x.filled then s else s.sharedRead (s.agentOf cl) a
    | none => s.sharedRead (s.agentOf cl) a
  let s := s.makeRoom cl a
  if s.hasRoom cl a then s.putSector (s.filledSector cl a) else s

/-- Read `n` bytes through a cluster cache; the sector is filled (R244). -/
def State.clusterRead (s : State) (cl a n : Nat) : Nat × State :=
  let s := s.fillSector cl a
  ((s.filledSector cl a).data.toNat / 2 ^ (8 * (a % 32)) % 2 ^ (8 * n), s)

/-- A sector as a clean copy of its home (R268 step 2). -/
def State.keepClean (s : State) (x : Sector) : State :=
  s.putSector { x with data := BitVec.ofNat 256 (s.homeRead (x.addr * 32) 32), written := 0, filled := true }

/-- A sector's written bits reach the home through an own-read and merge, and it stays as a clean copy (R268 step 2, R270). A damaged
dirty sector cannot be cleaned and a damaged home cannot take it: the line is lost (R253, R416). Toward a home out of reach the sector
stays dirty (R417). -/
def State.cleanSector (s : State) (x : Sector) : State :=
  if x.written = 0 || s.pathDown (x.addr * 32) then s
  else if s.damage.contains (.sector x.cluster x.addr) then (s.loseLine (x.addr / 4)).dropSector x
  else if s.lineBad (x.addr * 32) then (s.loseLine (x.addr / 4)).dropSector x
  else (s.storeHome (s.agentOf x.cluster) (x.addr * 32) x.data.toNat x.written.toNat 32).keepClean x

/-- Write bits into a cluster cache; they stay there until cleaned (R244, R270). -/
def State.clusterPut (s : State) (cl a v mask n : Nat) : State :=
  let m : BitVec 256 := BitVec.ofNat 256 (mask % 2 ^ (8 * n)) <<< (8 * (a % 32))
  let d : BitVec 256 := BitVec.ofNat 256 (v % 2 ^ (8 * n)) <<< (8 * (a % 32))
  let x := (s.sector cl a).getD ⟨cl, a / 32, 0, 0, false⟩
  s.putSector { x with data := (x.data &&& ~~~m) ||| (d &&& m), written := x.written ||| m }

/-- Write bits into a cluster cache; one full of dirty sectors first cleans the one that it has held longest (R243, R244). -/
def State.clusterWrite (s : State) (cl a v mask n : Nat) : State :=
  let s := if s.hasRoom cl a then s
    else
      let s := match (s.makeRoom cl a).hasRoom cl a, (s.sectors.filter (·.cluster == cl)).getLast? with
        | false, some x => s.cleanSector x
        | _, _ => s
      s.makeRoom cl a
  s.clusterPut cl a v mask n

/-- Every sector that `p` selects is cleaned and stays as a clean copy (R268 step 2). -/
def State.cleanWhere (s : State) (p : Sector → Bool) : State := (s.sectors.filter p).foldl State.cleanSector s

/-- Clean sectors that `p` selects are discarded; of dirty ones only the written bits stay (R269 step 2). -/
def State.discardWhere (s : State) (p : Sector → Bool) : State :=
  let gone := s.sectors.filter (fun x => p x && x.written == 0)
  let s := gone.foldl State.dropSector s
  { s with sectors := updWhere p (fun x => { x with filled := false }) s.sectors }

/-- A cluster cache is cleaned (R268 step 2). -/
def State.cleanCluster (s : State) (cl : Nat) : State := s.cleanWhere (·.cluster == cl)

/-- A cluster cache discards its clean sectors and unwritten bits (R269 step 2). -/
def State.discardCluster (s : State) (cl : Nat) : State := s.discardWhere (·.cluster == cl)

/-- A cluster cache gives one sector up: its written bits reach the home and it is gone (R244, R271); what cannot be cleaned stays. -/
def State.evictSector (s : State) (cl a : Nat) : State :=
  match s.sector cl a with
  | some x =>
    let s := s.cleanSector x
    match s.sector cl a with
    | some y => if y.written = 0 then s.dropSector y else s
    | none => s
  | none => s

/-- A store that performs at its home (R178, R268 step 3): the cluster's sector keeps no dirty bit of it and shows it. -/
def State.storeThrough (s : State) (cl a v mask n : Nat) : State :=
  let s := s.storeHome (s.agentOf cl) a v mask n
  match s.sector cl a with
  | none => s
  | some x =>
    let m : BitVec 256 := BitVec.ofNat 256 (mask % 2 ^ (8 * n)) <<< (8 * (a % 32))
    let d : BitVec 256 := BitVec.ofNat 256 (v % 2 ^ (8 * n)) <<< (8 * (a % 32))
    let w := x.written &&& ~~~m
    if w = 0 && !x.filled then s.keepClean x
    else s.putSector { x with data := (x.data &&& ~~~m) ||| (d &&& m), written := w }

/-- A cluster's sector takes its clean bits of `n` bytes from the home: a thread's own store that its home dropped stands before what
the home holds (R178, R262). -/
def State.refresh (s : State) (cl a n : Nat) : State :=
  match s.sector cl a with
  | none => s
  | some x =>
    let m : BitVec 256 := (BitVec.ofNat 256 (2 ^ (8 * n) - 1) <<< (8 * (a % 32))) &&& ~~~x.written
    s.putSector { x with data := (x.data &&& ~~~m) ||| (BitVec.ofNat 256 (s.homeRead (a / 32 * 32) 32) &&& m) }

/-- Every cluster cache cleans the sectors of a range and discards them (R254). -/
def State.recallRange (s : State) (lo n : Nat) : State :=
  let p : Sector → Bool := fun x => lo ≤ x.addr * 32 && x.addr * 32 < lo + n
  let s' := s.cleanWhere p
  (s'.sectors.filter p).foldl State.dropSector s'

/-- The L2 and caddy copies of a frame's lines go, and each line's metadata returns to I (R228, R254); a line whose metadata or whose
dirty copy is uncorrectable is lost (R253, R416). -/
def State.recallCopies (s : State) (lo n : Nat) : State :=
  let mine := s.copies.filter (fun c => lo / 32 ≤ c.1 && c.1 < (lo + n) / 32)
  let bad := (s.metas.filter (fun x => lo / 128 ≤ x.1 && x.1 < (lo + n) / 128 && ((Meta.ofBits x.2).isNone || s.dirtyBad x.1))).map (·.1)
  let s := bad.foldl (fun s line => if s.ownLine line then s.loseLine line else s) s
  let s := mine.foldl (fun s c => s.dropCopy (c.1 / 4) c.2) s
  { s with metas := s.metas.filter (fun x => !(lo / 128 ≤ x.1 && x.1 < (lo + n) / 128)) }

/-- The sectors of a frame that the read-only paths and the instruction caches hold go (R254, R375). -/
def State.recallNear (s : State) (lo n : Nat) : State :=
  { s with
    ro := s.ro.filter (fun x => !(lo / 32 ≤ x.addr && x.addr < (lo + n) / 32))
    icache := s.icache.filter (fun x => !(lo / 32 ≤ x.addr && x.addr < (lo + n) / 32)) }

/-- Every copy of every line of a frame is recalled (R254). -/
def State.recall (s : State) (lo n : Nat) : State := ((s.recallRange lo n).recallCopies lo n).recallNear lo n

/-- A core's read-only-path cache is invalidated (R278). -/
def State.dropRo (s : State) (core : Nat) : State := { s with ro := s.ro.filter (·.core != core) }

/-! ## Page tables -/

/-- What a walk finds: a leaf with its level and the address of its entry, no leaf for a reason (cause, detail), an entry in an
uncorrectable line, or a page that is moving or compressed (R369, R374, R415). -/
inductive Walk where
  | leaf (pte : Word) (level at_ : Nat)
  | fault (cause : Nat) (info : Word)
  | bad (at_ : Nat) (info : Word)
  | stall (level at_ : Nat)
  deriving DecidableEq, Repr

/-- Index width and lowest bit of each level (R367). -/
def walkLevels : List (Nat × Nat × Nat) := [(1, 49, 256), (2, 38, 2048), (3, 27, 2048), (4, 16, 2048)]

/-- The bits below a leaf of a level (R367). -/
def leafBits (level : Nat) : Nat := if level = 2 then 38 else if level = 3 then 27 else 16

/-- The entry at `a` as the walker of a die reads it: a non-leaf entry may come from its walk cache while that differs, by free choice
(R371, log 11). An agent without a walker reads the home. -/
def State.readEntry (s : State) (die : Option Nat) (level a : Nat) : Word :=
  let fresh : Word := BitVec.ofNat 64 (s.homeRead a 8)
  match die.bind (fun d => s.walks.find? (fun x => x.die == d && x.addr == a)) with
  | some x => if x.pte ≠ fresh && Config.choice (s.free + level) then x.pte else fresh
  | none => fresh

/-- The walk from a table through the remaining levels: the first three checks of R369, then the stall of R374. A table that an entry
places on a device of the domain is read there, whatever the device's number (DESIGN CHOICE, log 57). -/
def State.walkFrom (s : State) (die : Option Nat) (va : Word) (kind : Nat) : List (Nat × Nat × Nat) → Nat → Walk
  | [], _ => .fault 0x06 (addrInfo va kind)
  | (level, lo, n) :: rest, table =>
    let a := table + 8 * (va.toNat / 2 ^ lo % n)
    if s.lineBad a then .bad a (dataInfo va kind (s.sourceOf a))
    else
      let pte : Word := s.readEntry die level a
      if !pte.getLsbD 0 then .fault 0x05 (addrInfo va kind)
      else if pte.getLsbD 5 then
        if level = 1 then .fault 0x06 (addrInfo va kind)
        else if pte.toNat % 2 ^ 56 / 2 ^ 16 * 2 ^ 16 % 2 ^ leafBits level ≠ 0 then .fault 0x06 (addrInfo va kind)
        else if !pte.getLsbD 11 && pte.extractLsb' 12 4 ≠ 0 then .fault 0x06 (addrInfo va kind)
        else if pte.getLsbD 10 || pte.getLsbD 11 then .stall level a
        else .leaf pte level a
      else s.walkFrom die va kind rest (pte.toNat % 2 ^ 56 / 2 ^ 16 * 2 ^ 16)

/-- The non-leaf entries on the way of a walk, with their addresses. -/
def State.wayOf (s : State) (va : Word) : List (Nat × Nat × Nat) → Nat → List (Nat × Word)
  | [], _ => []
  | (_, lo, n) :: rest, table =>
    let a := table + 8 * (va.toNat / 2 ^ lo % n)
    let pte : Word := BitVec.ofNat 64 (s.homeRead a 8)
    if !pte.getLsbD 0 || pte.getLsbD 5 then [] else (a, pte) :: s.wayOf va rest (pte.toNat % 2 ^ 56 / 2 ^ 16 * 2 ^ 16)

/-- The page-table root of an ASID: a control core's own, or the valid context's (R364, R394). -/
def State.rootOf (s : State) (t : Thread) : Nat :=
  if isControl t.core then t.priv.ptroot.toNat else ((s.ctxRec t.ctx).extractLsb' 64 64).toNat

/-- The last three checks of R369 on a leaf: User, permissions, attribute. `compute` says that a compute core's thread
(or an engine for it) makes the access. -/
def State.leafAllows (s : State) (pte : Word) (kind : Nat) (compute : Bool) : Bool :=
  let frame := pte.toNat % 2 ^ 56 / 2 ^ 16 * 2 ^ 16
  let dev := frame / 2 ^ 43
  let off := frame % 2 ^ 43
  let mine := dev == s.ident
  (pte.getLsbD 4 || !compute) &&
  (match kind with
    | 0 => pte.getLsbD 1
    | 1 => pte.getLsbD 2
    | 2 => pte.getLsbD 1 && pte.getLsbD 2
    | _ => pte.getLsbD 3) &&
  (match (pte.extractLsb' 6 2).toNat with
    | 0 => mine && off < 2 ^ 40
    | 1 => mine && 2 ^ 40 ≤ off && off < 7 * 2 ^ 40
    | 2 => !mine && dev < 4608
    | _ => mine && 7 * 2 ^ 40 ≤ off && !(off < 0x78000000000 && pte.getLsbD 4))

/-- A virtual address is canonical (R15). -/
def canonical (va : Word) : Bool := va.toNat / 2 ^ 56 = 0 || va.toNat / 2 ^ 56 = 255

/-- A scratchpad address by its top seven bits (R15). -/
def isScratchAddr (va : Word) : Bool := va.toNat / 2 ^ 57 = 0x40

/-- A translation: the place's attribute and global physical address, a fault, or a stall. -/
inductive Xlate where
  | ok (attr phys : Nat)
  | fault (cause : Nat) (info : Word)
  | stall
  deriving DecidableEq, Repr

/-- The walk of a virtual address under a root, with every check (R369), and the entry used. -/
def State.walk (s : State) (die : Option Nat) (root : Nat) (va : Word) (kind : Nat) (compute : Bool) : Walk :=
  match s.walkFrom die va kind walkLevels root with
  | .leaf pte level a => if s.leafAllows pte kind compute then .leaf pte level a else .fault 0x06 (addrInfo va kind)
  | w => w

/-- The global physical address a leaf gives (R367). -/
def leafPhys (pte : Word) (level : Nat) (va : Word) : Nat :=
  pte.toNat % 2 ^ 56 / 2 ^ 16 * 2 ^ 16 + va.toNat % 2 ^ leafBits level

/-- Accessed and Dirty bits that an access sets in its entry (R370). -/
def accessBits (pte : Word) (kind : Nat) : Word :=
  (if pte.getLsbD 8 then 0 else 0x100#64) ||| (if kind = 1 || kind = 2 then (if pte.getLsbD 9 then 0 else 0x200#64) else 0)

/-- OR bits into a page-table entry at its home (R370). -/
def State.orPte (s : State) (a : Nat) (bits : Word) : State :=
  if bits = 0 then s else s.homeWrite a bits.toNat bits.toNat 8

/-- The page number that TLBs are tagged with (R371). -/
def pageOf (va : Word) : Nat := va.toNat / 2 ^ 16 % 2 ^ 41

/-- An access has met a compressed page, which wakes the page's migration engine (R374). -/
def State.wakeEngine (s : State) (asid : BitVec 16) (va : Word) (at_ : Nat) : State :=
  if (s.homeRead at_ 8).testBit 11 && !s.woken.contains (asid, pageOf va) then { s with woken := (asid, pageOf va) :: s.woken } else s

/-- What stalled leaves no effect but the engines that it woke (R343, R374). -/
def State.woke (s0 s : State) : State := { s0 with woken := s.woken }

/-- The addresses of the entries that a walk reads, the last one included. -/
def State.entriesOf (s : State) (va : Word) : List (Nat × Nat × Nat) → Nat → List Nat
  | [], _ => []
  | (_, lo, n) :: rest, table =>
    let a := table + 8 * (va.toNat / 2 ^ lo % n)
    let pte : Word := BitVec.ofNat 64 (s.homeRead a 8)
    a :: (if !pte.getLsbD 0 || pte.getLsbD 5 then [] else s.entriesOf va rest (pte.toNat % 2 ^ 56 / 2 ^ 16 * 2 ^ 16))

/-- Errors that their code corrects in the entries that a walk has read are found (R414). -/
def State.correctWay (s : State) (root : Nat) (va : Word) : State :=
  if s.damage.isEmpty then s else (s.entriesOf va walkLevels root).foldl (fun s a => s.correctLine (a / 128)) s

/-- Translate for an agent that is not a thread: walks afresh, reads entries at their homes, and sets Accessed and Dirty for an access
that can be made: one at a window or a register, or at an uncorrectable line, sets no bit (R370). `user` says that it acts for a compute
core's thread, so that the User bit is checked (log 45). -/
def State.engineXlate (s : State) (root : Nat) (asid : BitVec 16) (va : Word) (kind : Nat) (user : Bool) : Xlate × State :=
  if !canonical va then (.fault 0x06 (addrInfo va kind), s)
  else match s.walk none root va kind user with
    | .leaf pte level a =>
      let attr := (pte.extractLsb' 6 2).toNat
      let phys := leafPhys pte level va
      let s := s.correctWay root va
      if attr = 3 then (.ok attr phys, s)
      else if s.lineBad phys then (.fault 0x07 (dataInfo va kind (s.sourceOf phys)), s.foundBad phys)
      else (.ok attr phys, s.orPte a (accessBits pte kind))
    | .fault c i => (.fault c i, s.correctWay root va)
    | .bad a i => (.fault 0x07 i, s.foundBad a)
    | .stall _ a => (.stall, s.wakeEngine asid va a)

/-- The lane group whose TLB slice serves a page of the current thread: a fetch uses group 0 (R371, R378). -/
def State.laneOf (s : State) (va : Word) (kind : Nat) : Nat := if kind = 3 then 0 else pageOf va % s.lanes

/-- The leaf is the translation of a page in an ASID at a cluster. -/
def TlbEntry.serves (x : TlbEntry) (cl : Nat) (asid : BitVec 16) (page : Nat) : Bool := x.cluster == cl && x.asid == asid && x.page == page

/-- A TLB copy that no longer agrees with its entry may still be used (R377): the model leaves the choice free (log 11). The slice
of the lane group is asked before the cluster's TLB (R371). -/
def State.tlbStale (s : State) (asid : BitVec 16) (va : Word) (kind : Nat) (fresh : Option Word) : Option TlbEntry :=
  let cl := clusterOf s.th.core
  let near := (s.slices.find? (fun x => x.core == s.th.core && x.group == s.laneOf va kind && x.leaf.serves cl asid (pageOf va))).map (·.leaf)
  match near.orElse (fun _ => s.tlb.find? (·.serves cl asid (pageOf va))) with
  | some x => if fresh.map (· ||| 0x300#64) = some (x.pte ||| 0x300#64) then none else some x
  | none => none

/-- A leaf enters the current core's slice of 64 entries and the cluster's TLB of 4,096 (R371); the one longest there gives way. -/
def State.loadTlb (s : State) (va : Word) (kind : Nat) (x : TlbEntry) : State :=
  let g := s.laneOf va kind
  let here := fun (y : SliceEntry) => y.core == s.th.core && y.group == g
  let slice := (s.slices.filter (fun y => here y && !(y.leaf.serves x.cluster x.asid x.page))).take 63
  let mine := (s.tlb.filter (fun y => y.cluster == x.cluster && !(y.serves x.cluster x.asid x.page))).take 4095
  { s with
    slices := ⟨s.th.core, g, x⟩ :: slice ++ s.slices.filter (fun y => !here y)
    tlb := x :: mine ++ s.tlb.filter (fun y => y.cluster != x.cluster) }

/-- The walker of a die keeps the non-leaf entries that it read (R371). -/
def State.keepWay (s : State) (die : Nat) (way : List (Nat × Word)) : State :=
  { s with walks := way.map (fun x => ⟨die, x.1, x.2⟩) ++ s.walks.filter (fun y => !(y.die == die && way.any (fun x => x.1 == y.addr))) }

/-- The convoy notes a page that an element needs (R398). -/
def State.notePage (s : State) (elem page : Nat) : State :=
  if s.cv.pages.contains (elem, page) then s else s.onCv (fun c => { c with pages := (elem, page) :: c.pages })

/-- The translation that a resumed convoy holds for a page of its first element (R398). -/
def State.heldLeaf (s : State) (elem page : Nat) : Option TlbEntry :=
  if elem = s.cv.vstart0 then s.th.needs.find? (fun x => x.page == page && x.pte.getLsbD 0) else none

/-- Where a leaf leads (R367). -/
def leadsTo (x : TlbEntry) (va : Word) : Xlate := .ok (x.pte.extractLsb' 6 2).toNat (leafPhys x.pte x.level va)

/-- A resumed convoy completes its element through the translation that it holds, where a walk would raise the missing page again
(R398). -/
def State.holdNeed (s : State) (va : Word) (kind elem : Nat) (r : Xlate × State) : Xlate × State :=
  match r.1, s.heldLeaf elem (pageOf va) with
  | .fault 0x05 _, some x =>
    if s.leafAllows x.pte kind (!isControl s.th.core) then (leadsTo x va, r.2)
    else (.fault 0x06 (addrInfo va kind), r.2)
  | _, _ => r

/-- The leaf allows an access of a kind, and a store finds it Dirty (R369, R370). -/
def State.leafServes (s : State) (pte : Word) (kind : Nat) : Bool :=
  s.leafAllows pte kind (!isControl s.th.core) && !((kind = 1 || kind = 2) && !pte.getLsbD 9)

/-- A translation that the word in progress uses for a page, which all of its elements on that page share (R372). -/
def State.shareLeaf (s : State) (x : TlbEntry) : State := s.onCv (fun c => { c with leaves := x :: c.leaves.filter (·.page != x.page) })

/-- What a fresh walk gives the current thread: a leaf that passes every check sets Accessed and Dirty and enters the TLBs (R370). -/
def State.useWalk (s : State) (asid : BitVec 16) (va : Word) (kind elem : Nat) (w : Walk) : Xlate × State :=
  match w with
  | .leaf pte level a =>
    let bits := accessBits pte kind
    let s := s.correctWay (s.rootOf s.th) va
    let s := if bits = 0 then s else (s.orPte a bits).keep elem (.pte a bits)
    let s := s.keepWay (dieOf s.th.core) (s.wayOf va walkLevels (s.rootOf s.th))
    let x : TlbEntry := ⟨clusterOf s.th.core, asid, pageOf va, pte ||| bits, level⟩
    (leadsTo x va, (s.loadTlb va kind x).shareLeaf x)
  | .fault c i => (.fault c i, s)
  | .bad a i => (.fault 0x07 i, s.foundBad a)
  | .stall _ a => (.stall, s.wakeEngine asid va a)

/-- A fresh translation of a page for the current thread: a stale TLB copy by free choice, or a walk. A copy that refuses the access, or
that a store meets with Dirty 0, is walked again (R369 to R371, log 11). -/
def State.xlateFresh (s : State) (va : Word) (kind : Nat) (elem : Nat) : Xlate × State :=
  let asid := s.asidOf s.th
  let w := s.walk (some (dieOf s.th.core)) (s.rootOf s.th) va kind (!isControl s.th.core)
  let stale := s.tlbStale asid va kind (match w with | .leaf pte _ _ => some pte | _ => none)
  let (pick, s) := match stale with
    | some _ => s.freeChoice
    | none => (false, s)
  match (if pick then stale else none) with
  | some x => if s.leafServes x.pte kind then (leadsTo x va, s.shareLeaf x) else s.useWalk asid va kind elem w
  | none => s.useWalk asid va kind elem w

/-- Translate for the current thread (R369 to R372): the translation that the word already uses for the page, or a fresh one; a missing
page may be one that the convoy still holds (R398). -/
def State.xlate (s : State) (va : Word) (kind : Nat) (elem : Nat) : Xlate × State :=
  if !canonical va then (.fault 0x06 (addrInfo va kind), s)
  else
    let s := s.notePage elem (pageOf va)
    match s.cv.leaves.find? (fun x => x.page == pageOf va && s.leafServes x.pte kind) with
    | some x => (leadsTo x va, s)
    | none => s.holdNeed va kind elem (s.xlateFresh va kind elem)

/-- The translations that a resumed thread holds for the pages that its convoy's element needs, as a walk finds them now (R398). -/
def State.fillNeeds (s : State) (t : Thread) : List TlbEntry :=
  t.needs.filterMap (fun x =>
    match s.walkFrom none (BitVec.ofNat 64 (x.page * 65536)) 0 walkLevels (s.rootOf t) with
    | .leaf pte level _ => some { x with pte := pte, level := level }
    | _ => none)

/-- The current thread goes back from a handler: its convoy holds what a fault of a missing page promised it (R398). -/
def State.holdNeeds (s : State) : State := s.onTh (fun t => { t with needs := s.fillNeeds t })

/-! ## Where an address leads (R15, R241) -/

/-- A place, a fault, or a stall. -/
inductive Place where
  | at_ (t : Target) (attr : Nat)
  | fault (cause : Nat) (info : Word)
  | stall
  deriving DecidableEq, Repr

/-- A scratchpad access of `size` bytes lies in the thread's window (R15, R366). -/
def inWindow (base size : Nat) (off n : Nat) : Bool := base ≤ off && off + n ≤ base + size

/-- The place of a scratchpad address, or the protection fault of R15. -/
def scratchPlace (core base size : Nat) (va : Word) (n kind : Nat) : Place :=
  if va.toNat / 2 ^ 17 % 2 ^ 40 = 0 && inWindow base size (va.toNat % 2 ^ 17) n then .at_ (.scratch core (va.toNat % 2 ^ 17)) 4
  else .fault 0x06 (addrInfo va kind)

/-- The place a translated address names (R241): attribute 3 is a network window or a device register. -/
def targetOf (cl attr phys : Nat) : Target :=
  if attr = 3 then
    (if 0x78000000000 ≤ phys % 2 ^ 43 then .window (phys / 2 ^ 38 % 2 = 1) (phys % 2 ^ 38) else .device (phys % 2 ^ 43))
  else .cluster cl phys

/-- Where the current thread's access goes (R15, R241). -/
def State.resolve (s : State) (va : Word) (n kind elem : Nat) : Place × State :=
  if isScratchAddr va then (scratchPlace s.th.core s.th.winBase s.winBytes va n kind, s)
  else match s.xlate va kind elem with
    | (.ok attr phys, s) => (.at_ (targetOf (clusterOf s.th.core) attr phys) attr, s)
    | (.fault c i, s) => (.fault c i, s)
    | (.stall, s) => (.stall, s)

/-- The data at a place is damaged (R415): the source field of the fault. A whole sector of the cluster cache is read without its
home, unless its line is lost (R416). -/
def State.damageAt (s : State) (t : Target) : Option Nat :=
  let atHome (a : Nat) : Option Nat := if s.lineBad a then some (s.sourceOf a) else if s.dirtyBad (a / 128) then some 2 else none
  match t with
  | .scratch core off => if s.damage.contains (.scratch core (off / 8)) then some 5 else none
  | .cluster cl a =>
    if s.damage.contains (.sector cl (a / 32)) then some 3
    else if s.lineLost a then some (s.sourceOf a)
    else if (s.sector cl a).any (·.filled) then none
    else if s.l2Bad (s.agentOf cl) a then some 2
    else atHome a
  | .home a => atHome a
  | .through cl a => if s.l2Bad (s.agentOf cl) a || s.l2Bad (s.homeAgent a) a then some 2 else atHome a
  | _ => none

/-- Read bytes at a memory or scratchpad place. -/
def State.readAt (s : State) (t : Target) (n : Nat) : Nat × State :=
  match t with
  | .scratch core off => (cellsReadNat s.scratch (core * 131072 + off) n, s)
  | .cluster cl a => s.clusterRead cl a n
  | .home a => (s.homeRead a n, s)
  | .through cl a => let s := (s.evictSector cl a).sharedRead (s.agentOf cl) a; (s.homeRead a n, s)
  | _ => (0, s)

/-- Scratchpad doublewords that a write covers whole are sound again (R417). -/
def State.mendScratch (s : State) (core off n mask : Nat) : State :=
  if s.damage.isEmpty || mask % 2 ^ (8 * n) ≠ 2 ^ (8 * n) - 1 then s
  else { s with damage := s.damage.filter (fun x => match x with
    | .scratch c w => !(c == core && decide (off ≤ 8 * w) && decide (8 * w + 8 ≤ off + n))
    | _ => true) }

/-- Scratchpad doublewords whose every byte is among those written are sound again (R417). -/
def State.mendCovered (s : State) (core : Nat) (offs : List Nat) : State :=
  if s.damage.isEmpty then s
  else { s with damage := s.damage.filter (fun x => match x with
    | .scratch c w => !(c == core && (List.range 8).all (fun i => offs.contains (8 * w + i)))
    | _ => true) }

/-- Write bits at a memory or scratchpad place; a write that covers a damaged scratchpad doubleword repairs it (R417). -/
def State.writeAt (s : State) (t : Target) (v mask n : Nat) : State :=
  match t with
  | .scratch core off => { s with scratch := cellsMerge s.scratch (core * 131072 + off) v mask n }.mendScratch core off n mask
  | .cluster cl a => s.clusterWrite cl a v mask n
  | .home a => s.homeWrite a v mask n
  | .through cl a => s.storeThrough cl a v mask n
  | .window _ _ => s
  | .device _ => s

/-- A thread's store leaves at a network window (R241). -/
def State.sendStore (s : State) (uid : Nat) (port : Bool) (off n v : Nat) : State :=
  { s with netOut := s.netOut ++ [⟨uid, port, off, n, true, BitVec.ofNat 512 (v % 2 ^ (8 * n))⟩] }

end Sys2Proof.Machine
end

