-- ==== Sys2Proof/Machine/Scopes.lean ====
section
/-! DEFINITION. Scope-table entries: members, summary and cluster-locality (R267, R288), the stale-index check (R291),
and what a release and an acquire do to cluster caches (R268, R269). -/

namespace Sys2Proof.Machine

open Sys2Proof

/-- The entry that a scope index of a context names. The control cores have no context; their table follows the loader's
convention of R288 (DESIGN CHOICE, log 12). -/
def State.scopeAt (s : State) (ctx i : Nat) : ScopeEntry :=
  match s.ctxs.find? (·.slot == ctx) with
  | some c => c.scopes.getD i ⟨0, 0, false⟩
  | none => if i < 6 then ⟨BitVec.ofNat 4608 (1 + (i + 1) * 256), 0, false⟩ else ⟨0, 0, false⟩

/-- The entry a thread's scope index names, in its context's table. -/
def State.scopeOf (s : State) (t : Thread) (i : Nat) : ScopeEntry := s.scopeAt t.ctx i

/-- The level of an entry; an invalid one acts as level 1 (R288). -/
def ScopeEntry.level (e : ScopeEntry) : Nat := if e.image.getLsbD 0 then (e.image.extractLsb' 8 3).toNat else 1

/-- The context of a slot has the cluster (R364). -/
def State.ctxHasCluster (s : State) (slot cl : Nat) : Bool := cl < 128 && (s.ctxRec slot).getLsbD (128 + cl)

/-- Engine queue `q` is assigned to the context (R364); system software on a control core holds every queue. -/
def State.ctxHasQueue (s : State) (slot q : Nat) : Bool := slot = 64 || (q < 48 && (s.ctxRec slot).getLsbD (256 + q))

/-- Semaphore `n` lies in the context's range (R364, R312). -/
def State.ctxHasSem (s : State) (slot n : Nat) : Bool :=
  (slot = 64 && n < 65536) ||
  (((s.ctxRec slot).extractLsb' 32 16).toNat ≤ n &&
    n < ((s.ctxRec slot).extractLsb' 32 16).toNat + ((s.ctxRec slot).extractLsb' 48 16).toNat)

/-- The member of an entry for issuer `t` that a core is (R267, R288); the issuer's own core always is one. -/
def State.entryCore (s : State) (t : Thread) (e : ScopeEntry) (core : Nat) : Bool :=
  match e.level with
  | 1 => false
  | 2 => core = t.core
  | 3 => clusterOf core = clusterOf t.core
  | 4 => core = t.core || (dieOf core = dieOf t.core && s.ctxHasCluster t.ctx (clusterOf core))
  | 0 => core = t.core || (core < 4096 && e.image.getLsbD (64 + core))
  | _ => core = t.core || s.ctxHasCluster t.ctx (clusterOf core)

/-- The member of scope `i` for issuer `t` that a core is. -/
def State.memberCore (s : State) (t : Thread) (i core : Nat) : Bool := s.entryCore t (s.scopeOf t i) core

/-- The cluster caches that an entry's summary names for an issuer of a context on a die (R267). -/
def State.namedSummary (s : State) (ctx die : Nat) (e : ScopeEntry) (cl : Nat) : Bool :=
  match e.level with
  | 0 => cl < 128 && e.image.getLsbD (4160 + cl)
  | 1 | 2 | 3 => false
  | 4 => cl / 16 = die && s.ctxHasCluster ctx cl
  | _ => s.ctxHasCluster ctx cl

/-- The cluster caches of an entry's summary for issuer `t`: those named and its own (R267). -/
def State.entrySummary (s : State) (t : Thread) (e : ScopeEntry) (cl : Nat) : Bool :=
  cl = clusterOf t.core || s.namedSummary t.ctx (dieOf t.core) e cl

/-- The cluster caches of the summary of scope `i` for issuer `t`. -/
def State.inSummary (s : State) (t : Thread) (i cl : Nat) : Bool := s.entrySummary t (s.scopeOf t i) cl

/-- The remote devices that an explicit entry lists (R287). -/
def ScopeEntry.remotes (e : ScopeEntry) : List Nat :=
  (List.range 16).filterMap (fun r => if e.image.getLsbD (4352 + 16 * r + 15) then some (e.image.extractLsb' (4352 + 16 * r) 13).toNat else none)

/-- Some remote device of an explicit entry is valid (R287). -/
def ScopeEntry.namesDevice (e : ScopeEntry) : Bool := (List.range 16).any (fun r => e.image.getLsbD (4352 + 16 * r + 15))

/-- The remote devices whose threads an entry of a context includes (R275, R288). -/
def State.entryDevices (s : State) (ctx : Nat) (e : ScopeEntry) : List Nat :=
  match e.level with
  | 0 => e.remotes
  | 6 => ((s.ctxs.find? (·.slot == ctx)).map (·.devices)).getD []
  | _ => []

/-- The entry is cluster-local for the issuer (R267, R288). -/
def ScopeEntry.clusterLocal (e : ScopeEntry) (t : Thread) : Bool :=
  match e.level with
  | 0 =>
    let cl := clusterOf t.core
    let own : BitVec 4096 := if cl < 128 then (BitVec.ofNat 4096 (2 ^ 32 - 1)) <<< (32 * cl) else 0
    let ownC : BitVec 128 := if cl < 128 then (1#128) <<< cl else 0
    (e.image.extractLsb' 64 4096 &&& ~~~own) == 0 &&
    (e.image.extractLsb' 4160 128 &&& ~~~ownC) == 0 &&
    (e.image.extractLsb' 4288 64) == 0 && !e.namesDevice
  | 1 | 2 | 3 => true
  | _ => false

/-- Scope `i` is cluster-local for the issuer. -/
def State.clusterLocal (s : State) (t : Thread) (i : Nat) : Bool := (s.scopeOf t i).clusterLocal t

/-- The thread's pin for an entry (R290). -/
def Thread.pin (t : Thread) (i : Nat) : Word := vget t.pins i 0

/-- The stale-index check of R291: a pin that differs from the serial raises cause 0x08 before any effect. -/
def State.checkScope (s : State) (i : Nat) : State :=
  let e := s.scopeOf s.th i
  let p := s.th.pin i
  if p = e.serial then s
  else s.raiseHere 0x08 (BitVec.ofNat 64 (i + p.toNat % 64 * 16 + e.serial.toNat % 64 * 1024))

/-- The detail of an error that a home out of reach answers with (R415, R417): source 7 and the access's address; a word that names no
address has a free one (log 47). -/
def State.unreachable (s : State) (va : Option Word) (kind : Nat) : Word × State :=
  match va with
  | some a => (dataInfo a kind 7, s)
  | none => (dataInfo (BitVec.ofNat 64 (Config.number s.free)) kind 7, { s with free := s.free + 1 })

/-- The cluster caches that `p` selects are cleaned for element `elem`; a home out of reach answers with an error (R268 step 2, R417). -/
def State.cleanFor (s : State) (p : Nat → Bool) (va : Option Word) (kind elem : Nat) : State :=
  if s.sectors.any (fun x => p x.cluster && x.written != 0 && s.pathDown (x.addr * 32)) then
    let (x, s) := s.unreachable va kind
    s.raise 0x07 elem x
  else s.cleanWhere (fun x => p x.cluster)

/-- The cleaning of a release at an entry (R268 step 2). -/
def State.releaseAt (s : State) (e : ScopeEntry) (va : Option Word) (kind elem : Nat) : State :=
  if e.clusterLocal s.th then s else s.cleanFor (s.entrySummary s.th e) va kind elem

/-- The cleaning of a release at scope `i` by a word without an address. -/
def State.release (s : State) (i : Nat) : State := s.releaseAt (s.scopeOf s.th i) none 1 s.cv.vstart0

/-- What a fence at an entry cleans (R259, R268): it takes no fault, so that a sector whose home is out of reach stays dirty for the
stores that the fence makes releases (R305, R417, log 51). -/
def State.fenceClean (s : State) (e : ScopeEntry) : State :=
  if e.clusterLocal s.th then s else s.cleanWhere (fun x => s.entrySummary s.th e x.cluster)

/-- The discarding of an acquire at an entry (R269 step 2). -/
def State.acquireAt (s : State) (e : ScopeEntry) : State :=
  if e.clusterLocal s.th then s else s.discardWhere (fun x => s.entrySummary s.th e x.cluster)

/-- The discarding of an acquire at scope `i`. -/
def State.acquire (s : State) (i : Nat) : State := s.acquireAt (s.scopeOf s.th i)

/-- The die of the engine of a queue: copy engines 0 to 31 stand on dies 0 to 7, media engines on the I/O die (R340). -/
def engineDie (q : Nat) : Nat := if q < 32 then q / 4 else 8

/-- A release that an engine makes as part of a command: every write of the command is at its home already, and the cluster caches of
the entry's summary are cleaned (R268, R286). An engine takes no fault. DESIGN CHOICE (log 75): the engine is the issuer, so that a
die-level entry names the cluster caches of the engine's die, of which a media engine's has none. -/
def State.engineRelease (s : State) (ctx q : Nat) (e : ScopeEntry) : State :=
  s.cleanWhere (fun x => s.namedSummary ctx (engineDie q) e x.cluster)

/-- An acquire of an engine at an entry (R269, R286). -/
def State.engineAcquire (s : State) (ctx q : Nat) (e : ScopeEntry) : State :=
  s.discardWhere (fun x => s.namedSummary ctx (engineDie q) e x.cluster)

/-- A store of a class, or of every class, is a release at the scope of each fence that covers it (R256, R259). -/
def Thread.fencesOn (t : Thread) (cls : Option Nat) : List ScopeEntry :=
  (t.relStores.filter (fun x => match cls with
    | some c => x.2.getLsbD c
    | none => x.2 != 0)).map (·.1)

/-- The releases that fences have made of a store at an element (R259, R268). -/
def State.releaseFences (s : State) (cls : Option Nat) (va : Word) (kind elem : Nat) : State :=
  (s.th.fencesOn cls).foldl (fun s e => if s.stopsAt elem then s else (s.releaseAt e (some va) kind elem).keep elem (.clean e)) s

/-- The place at which an atomic executes (R271): the issuer's cluster cache when its scope is cluster-local and its page
is local, else the home, the cluster cache having given the sector up. A store that a fence has made a release performs at its home
(R268 step 3). -/
def State.atomicPlace (s : State) (i : Nat) (t : Target) (attr : Nat) (stores : Bool) : Target :=
  match t with
  | .cluster cl a =>
    if s.clusterLocal s.th i && (attr = 0 || attr = 1) && !(stores && !(s.th.fencesOn none).isEmpty) then .cluster cl a else .through cl a
  | t => t

end Sys2Proof.Machine
end

