-- ==== Sys2Proof/Machine/Engines.lean ====
section
/-! DEFINITION. Semaphores (R312 to R314), the engines' accesses (R245, R280, R343), and what the copy and migration engines' commands
do when they are performed (R345 to R348, R373 to R376). -/

namespace Sys2Proof.Machine

open Sys2Proof

/-! ## Semaphores -/

/-- A semaphore; one that nothing has touched is 0, clear and without waiters (R312). -/
def State.sem (s : State) (n : Nat) : Sem := (s.sems.find? (·.num == n)).getD ⟨n, 0, false, [], []⟩

def State.putSem (s : State) (x : Sem) : State := { s with sems := x :: s.sems.filter (·.num != x.num) }

/-- The value a semaphore returns on error (R314), and SEMTRY's refusal (R313). -/
def semErrorValue : Word := 0xFFFFFFFFFFFFFFFF#64
def semRefused : Word := 0xFFFFFFFFFFFFFFFE#64

/-- Serve waiters from the head while the head's need is met (R313). -/
def serveWaiters (count : BitVec 32) : List SemPlace → BitVec 32 × List SemPlace × List SemServed
  | [] => (count, [], [])
  | p :: t =>
    if p.take ≤ count then
      let (c, q, sv) := serveWaiters (count - p.take) t
      (c, q, ⟨p.uid, (count - p.take).setWidth 64, p.scope⟩ :: sv)
    else (count, p :: t, [])

/-- SEMPOST's effect (R313): the value is the count right after the post's own update. -/
def Sem.post (x : Sem) (n : BitVec 32) (reset err : Bool) : Word × Sem :=
  let sum : Nat := x.count.toNat + n.toNat
  let count : BitVec 32 := if reset then n else if 2 ^ 32 ≤ sum then 0xFFFFFFFF#32 else BitVec.ofNat 32 sum
  let e := if reset then err else x.err || err
  let x' : Sem :=
    if e then { x with count := count, err := true, queue := [], served := x.served ++ x.queue.map (fun w => ⟨w.uid, semErrorValue, w.scope⟩) }
    else
      let (c, q, sv) := serveWaiters count x.queue
      { x with count := c, err := false, queue := q, served := x.served ++ sv }
  (count.setWidth 64, x')

/-- A post of `n` to semaphore `k`. -/
def State.semPost (s : State) (k : Nat) (n : BitVec 32) (reset err : Bool) : Word × State :=
  let (v, x) := (s.sem k).post n reset err
  (v, s.putSem x)

/-- SEMWAIT by a waiter: the value and the entry of its place if it departs now, else nothing (R291, R313, R314). -/
def Sem.tryWait (x : Sem) (p : SemPlace) : Option (Word × ScopeEntry × Sem) :=
  match x.served.find? (·.uid == p.uid) with
  | some r => some (r.value, r.scope, { x with served := x.served.filter (·.uid != p.uid) })
  | none =>
    if x.err then some (semErrorValue, p.scope, x)
    else if x.queue.isEmpty && p.take ≤ x.count then
      some ((x.count - p.take).setWidth 64, p.scope, { x with count := x.count - p.take })
    else none

/-- The waiter joins the queue's tail unless it is queued (R313). -/
def Sem.join (x : Sem) (p : SemPlace) : Sem :=
  if x.queue.any (·.uid == p.uid) then x else { x with queue := x.queue ++ [p] }

/-- Waiters' places leave a queue together; the waiters behind them are served if their turn has come (R292, R313, R314). -/
def Sem.withdraw (x : Sem) (us : List Nat) : Sem :=
  if x.queue.any (fun w => us.contains w.uid) then
    let (c, q, sv) := serveWaiters x.count (x.queue.filter (fun w => !(us.contains w.uid)))
    { x with count := c, queue := q, served := x.served ++ sv }
  else x

/-- Nothing of a waiter stays, what it was served included (R404, R418). -/
def Sem.forget (x : Sem) (us : List Nat) : Sem :=
  let x := x.withdraw us
  { x with served := x.served.filter (fun w => !(us.contains w.uid)) }

/-- Waiters' places in every queue are withdrawn (R292, R314). -/
def State.withdrawSems (s : State) (us : List Nat) : State := { s with sems := s.sems.map (·.withdraw us) }

/-- Waiters that are gone leave every semaphore (R404, R418). -/
def State.forgetSems (s : State) (us : List Nat) : State := { s with sems := s.sems.map (·.forget us) }

/-! ## Engine accesses (R280, R343, R345) -/

/-- An engine's byte: its place, a failure reason of R343, or a stall on a page that is not present. -/
inductive EngPlace where
  | at_ (t : Target)
  | fail (reason : Nat)
  | stall
  deriving DecidableEq, Repr

/-- The agent through which the engine of a queue reaches memory: its die's L2; a media engine has none (R245). -/
def State.engAgent (s : State) (q : Nat) : Option Nat :=
  if q < 32 then some (s.ident * 8 + q / 4) else if 48 ≤ q then some (s.ident * 8 + (q - 48) % 8) else none

/-- The page-table root and ASID under which a command's accesses are translated (R345). -/
def State.cmdRoot (s : State) (c : Cmd) : Nat × BitVec 16 :=
  if c.ctx = 64 then
    let t := s.threads.find? (·.uid == c.uid)
    ((t.map (·.priv.ptroot.toNat)).getD 0, (t.map (·.priv.asid)).getD 0)
  else (((s.ctxRec c.ctx).extractLsb' 64 64).toNat, s.asidOfSlot c.ctx)

/-- Where an engine's access of one byte goes: the issuer's scratchpad window, or the home (R245, R280). A damaged scratchpad word fails
its reader alone (R417), and a damaged copy in the L2 that the engine reads at fails the read (R415), whose walk then leaves no bit. -/
def State.engPlace (s : State) (c : Cmd) (va : Word) (kind : Nat) : EngPlace × State :=
  if isScratchAddr va then
    match scratchPlace c.core c.winBase c.winSize va 1 kind with
    | .at_ t _ => (if kind = 0 && (s.damageAt t).isSome then .fail 2 else .at_ t, s)
    | _ => (.fail 1, s)
  else
    let (root, asid) := s.cmdRoot c
    match s.engineXlate root asid va kind (c.ctx != 64) with
    | (.ok attr phys, s1) =>
      if attr = 3 then (.fail 1, s1)
      else if kind = 0 && s.l2Bad (s.engAgent c.queue) phys then (.fail 2, s)
      else (.at_ (.home phys), s1)
    | (.fault 0x05 _, s) => (.stall, s)
    | (.fault 0x07 _, s) => (.fail 2, s)
    | (.fault _ _, s) => (.fail 1, s)
    | (.stall, s) => (.stall, s)

/-- An engine's read of one byte: at a home a shared read by its agent (R245). -/
def State.engReadAt (s : State) (c : Cmd) (t : Target) : Nat × State :=
  match t with
  | .home a => let s := s.sharedRead (s.engAgent c.queue) a; (s.homeRead a 1, s)
  | t => s.readAt t 1

/-- Change one command. -/
def State.onCmd (s : State) (token : Nat) (f : Cmd → Cmd) : State := { s with queues := updWhere (·.token == token) f s.queues }

/-- A command has written a sector of memory (R284). -/
def Cmd.addWrote (c : Cmd) (sector : Nat) : Cmd := if c.wrote.contains sector then c else { c with wrote := sector :: c.wrote }

/-- An engine's write of one byte: at a home by own-read and write-back or through its L2 (R245). -/
def State.engWriteAt (s : State) (c : Cmd) (t : Target) (b : Byte) : State :=
  match t with
  | .home a => (s.storeHome (s.engAgent c.queue) a b.toNat 255 1).onCmd c.token (·.addWrote (a / 32))
  | t => s.writeAt t b.toNat 255 1

/-- The outcome of an engine's run: it goes on with a value, has failed, or stalls. -/
inductive Eng (α : Type) where
  | ok (v : α)
  | fail (reason : Nat)
  | stall
  deriving Repr

/-- Read the bytes at the listed addresses, lowest first. -/
def State.engRead (s : State) (c : Cmd) : List Word → Eng (List Byte) × State
  | [] => (.ok [], s)
  | a :: t =>
    match s.engPlace c a 0 with
    | (.at_ p, s) =>
      let (b, s) := s.engReadAt c p
      match s.engRead c t with
      | (.ok bs, s) => (.ok (BitVec.ofNat 8 b :: bs), s)
      | r => r
    | (.fail r, s) => (.fail r, s)
    | (.stall, s) => (.stall, s)

/-- Write bytes at the listed addresses in order; a failure leaves the earlier ones written (R284). -/
def State.engPut (s : State) (c : Cmd) : List (Word × Byte) → Eng Unit × State
  | [] => (.ok (), s)
  | (a, b) :: t =>
    match s.engPlace c a 1 with
    | (.at_ p, s) => (s.engWriteAt c p b).engPut c t
    | (.fail r, s) => (.fail r, s)
    | (.stall, s) => (.stall, s)

/-- Write bytes; scratchpad doublewords that they cover are sound again (R417). -/
def State.engWrite (s : State) (c : Cmd) (l : List (Word × Byte)) : Eng Unit × State :=
  match s.engPut c l with
  | (.ok (), s) => (.ok (), s.mendCovered c.core ((l.filter (fun x => isScratchAddr x.1)).map (fun x => x.1.toNat % 2 ^ 17)))
  | r => r

/-- The addresses of `n` bytes from `a` up. -/
def byteAddrs (a : Word) (n : Nat) : List Word := (List.range n).map (fun i => a + BitVec.ofNat 64 i)

/-- A completed command's token (R342). -/
def doneToken (note : Bool) (count : Nat) : Word :=
  BitVec.ofNat 64 (2 ^ 62 + (if note then 2 ^ 61 else 0) + count % 2 ^ 48)

/-- A failed command's token, and a rejected or terminated launch's (R342, R323). -/
def errorToken (reason : Nat) : Word := BitVec.ofNat 64 (2 ^ 63 + 2 ^ 62 + reason % 256)

/-- The byte at `a` lies among the `n` bytes from `base` up. -/
def inRun (a base : Word) (n : Nat) : Bool := (a - base).toNat < n

/-- The writes that show at the end: a byte where ranges that must not overlap do holds its old value or one that the command
wrote, by free choice for each byte written (R346, log 35). -/
def State.thin (s : State) (both : Word → Bool) (l : List (Word × Byte)) : List (Word × Byte) × State :=
  if l.any (fun x => both x.1) then
    ((l.zipIdx.filter (fun x => !both x.1.1 || Config.choice (s.free + x.2))).map (·.1), { s with free := s.free + l.length })
  else (l, s)

/-- Read rows of source bytes and write them, row by row or from one snapshot by free choice; `both` tells the bytes that lie in both
ranges (R346, log 35). -/
def State.copyRows (s : State) (c : Cmd) (snapshot : Bool) (both : Word → Bool) (rows : List (List Word × List Word)) : Eng Unit × State :=
  if snapshot then
    match s.engRead c (rows.map (·.1)).flatten with
    | (.ok bs, s) =>
      let (l, s) := s.thin both ((rows.map (·.2)).flatten.zip bs)
      s.engWrite c l
    | (.fail r, s) => (.fail r, s)
    | (.stall, s) => (.stall, s)
  else rows.foldl (fun acc row =>
    match acc with
    | (.ok (), s) =>
      match s.engRead c row.1 with
      | (.ok bs, s) =>
        let (l, s) := s.thin both (row.2.zip bs)
        s.engWrite c l
      | (.fail r, s) => (.fail r, s)
      | (.stall, s) => (.stall, s)
    | r => r) (.ok (), s)

/-- Bits of a descriptor as a number. -/
def bits {n : Nat} (d : BitVec n) (lo w : Nat) : Nat := (d.extractLsb' lo w).toNat

/-- The rows of a COPY2D (R346). -/
def copy2dRows (d : BitVec 256) : List (List Word × List Word) :=
  (List.range (bits d 160 32)).map (fun i =>
    let row (base : Word) (pitch : BitVec 32) := base + BitVec.ofNat 64 i * pitch.signExtend 64
    (byteAddrs (row (d.extractLsb' 0 64) (d.extractLsb' 192 32)) (bits d 128 32),
     byteAddrs (row (d.extractLsb' 64 64) (d.extractLsb' 224 32)) (bits d 128 32)))

/-- A byte of a COPY2D's source (R346). -/
def copy2dSource (d : BitVec 256) (a : Word) : Bool :=
  (List.range (bits d 160 32)).any (fun i =>
    inRun a (d.extractLsb' 0 64 + BitVec.ofNat 64 i * (d.extractLsb' 192 32).signExtend 64) (bits d 128 32))

/-- The value of a BF16 or FP32 element's bytes. -/
def bytesNat (bs : List Byte) : Nat := bs.foldr (fun b acc => b.toNat + 256 * acc) 0

/-- The band exponent k of QCOPY (R348): the least k with amax <= 189 * 2^k, clamped; 0 for an all-zero band. -/
def bandExp (amax : Option (Nat × Int)) : Int :=
  match amax with
  | none => 0
  | some (0, _) => 0
  | some (m, e) =>
    ((((List.range 261).map (fun i : Nat => (i : Int) - 133)).find? (fun k => magLe m e 189 k)).getD 127)

/-- The quotient of a datum by 2^k, exact. -/
def Fp.divPow (x : Fp) (k : Int) : Fp :=
  match x with
  | .fin n m e => .fin n m (e - k)
  | x => x

/-- A datum that is finite, zero in place of NaN and infinity. -/
def Fp.finiteOr0 : Fp → Fp
  | .fin n m e => .fin n m e
  | _ => .fin false 0 0

/-- One orientation of QCOPY: rows of data, in bands of 64 rows (R348): block bytes row after row, band scales, and
whether a quotient overflowed. -/
def quantise (rows : List (List Fp)) : Nat → List Byte × List Byte × Bool
  | 0 => ([], [], false)
  | fuel + 1 =>
    if rows.isEmpty then ([], [], false)
    else
      let band := rows.take 64
      let k := bandExp (amaxOf (band.flatten.map Fp.finiteOr0))
      let blocks (row : List Fp) : List (List Nat × Nat × BitVec 6) :=
        (List.range (row.length / 8)).map (fun b => encodeBlock 0 (((row.drop (8 * b)).take 8).map (·.divPow k)))
      let enc := (band.map blocks).flatten
      let bytes := (enc.map (fun e => let n := blockBytes e.1 e.2.1
        (List.range 5).map (fun i => BitVec.ofNat 8 (n / 256 ^ i)))).flatten
      let sc := (roundFp fmtBF16 0 false 1 k false).1
      let ovf := enc.any (fun e => e.2.2 &&& flagOF ≠ 0)
      let (b', s', o') := quantise (rows.drop 64) fuel
      (bytes ++ b', [BitVec.ofNat 8 sc, BitVec.ofNat 8 (sc / 256)] ++ s', ovf || o')

/-- QCOPY performed (R348). -/
def State.runQcopy (s : State) (c : Cmd) (d : BitVec 512) : Eng Word × State :=
  let m := bits d 64 32
  let n := bits d 96 32
  let f := if bits d 192 4 = 13 then fmtBF16 else fmtF32
  let size := f.width / 8
  let rowAddr (i : Nat) : Word := d.extractLsb' 0 64 + BitVec.ofNat 64 (i * bits d 128 64)
  match s.engRead c ((List.range m).map (fun i => byteAddrs (rowAddr i) (n * size))).flatten with
  | (.ok bs, s) =>
    let elem (i j : Nat) : Fp := f.decode (bytesNat ((bs.drop ((i * n + j) * size)).take size))
    let rows := (List.range m).map (fun i => (List.range n).map (fun j => elem i j))
    let cols := (List.range n).map (fun j => (List.range m).map (fun i => elem i j))
    let (rb, rs, ro) := quantise rows (m / 64 + 1)
    let (cb, cs, co) := quantise cols (n / 64 + 1)
    let special := rows.flatten.any (fun x => x.isNan || x.isInf)
    let out (a : Word) (l : List Byte) := (byteAddrs a l.length).zip l
    let outs := [(d.extractLsb' 256 64, rb), (d.extractLsb' 320 64, rs), (d.extractLsb' 384 64, cb), (d.extractLsb' 448 64, cs)]
    let both (a : Word) : Bool := (List.range m).any (fun i => inRun a (rowAddr i) (n * size)) ||
      1 < (outs.filter (fun x => inRun a x.1 x.2.length)).length
    let (l, s) := s.thin both (outs.map (fun x => out x.1 x.2)).flatten
    match s.engWrite c l with
    | (.ok _, s) => (.ok (doneToken (special || ro || co) (m * n)), s)
    | (.fail r, s) => (.fail r, s)
    | (.stall, s) => (.stall, s)
  | (.fail r, s) => (.fail r, s)
  | (.stall, s) => (.stall, s)

/-! ## Migration (R373 to R376) -/

/-- The entry of a page in the context of an ASID and its address, or a failure: only a 64 KiB leaf will do, and no entry maps an address
that is not canonical (R367, R375). -/
def State.pageEntry (s : State) (asid : BitVec 16) (va : Word) : Eng (Word × Nat) × State :=
  match s.ctxs.find? (fun c => c.image.getLsbD 16 && c.image.extractLsb' 0 16 == asid) with
  | none => (.fail 1, s)
  | some c =>
    let root := (c.image.extractLsb' 64 64).toNat
    let s := if canonical va then s.correctWay root va else s
    if !canonical va then (.fail 1, s)
    else match s.walkFrom none va 0 walkLevels root with
    | .leaf pte level a => (if level = 4 then .ok (pte, a) else .fail 1, s)
    | .stall level a => (if level = 4 then .ok (BitVec.ofNat 64 (s.homeRead a 8), a) else .fail 1, s)
    | .bad a _ => (.fail 2, s.foundBad a)
    | .fault _ _ => (.fail 1, s)

/-- The bytes of a page or a packed image as a canonical list of offsets. -/
def State.pageCells (s : State) (frame n : Nat) : List Host.Cell :=
  (s.mem.filter (fun c => frame ≤ c.1 && c.1 < frame + n)).map (fun c => (c.1 - frame, c.2))

/-- Put a page's bytes at a frame. -/
def State.putPage (s : State) (frame n : Nat) (cells : List Host.Cell) : State :=
  let rest := s.mem.filter (fun c => !(frame ≤ c.1 && c.1 < frame + n))
  { s with mem := cells.foldl (fun m c => cellsWrite m (frame + c.1) c.2) rest }

/-- The page's chunk count when compressed (R373). -/
def chunkCount (cells : List Host.Cell) : Nat := max 1 (min 16 (Config.chunks cells))

/-- The address at which a compressed page's image lies: chunk c of the region its frame names (R373). -/
def packedAddr (pte : Word) : Nat := pte.toNat % 2 ^ 56 / 2 ^ 16 * 2 ^ 16 + 4096 * bits pte 12 4

/-- The page's content wherever it lives. -/
def State.pageContent (s : State) (pte : Word) : List Host.Cell × Nat :=
  if pte.getLsbD 11 then
    match s.packed.find? (·.addr == packedAddr pte) with
    | some p => (p.bytes, p.k)
    | none => ([], 1)
  else (s.pageCells (pte.toNat % 2 ^ 56 / 2 ^ 16 * 2 ^ 16) 65536, 16)

/-- The entry with a new frame, chunk and Compressed bit, no longer migrating; a move to the other tier changes the
attribute to the tier's (R241, R368). -/
def movedEntry (pte : Word) (target : Nat) (compressed : Bool) : Word :=
  let keep : Word := pte &&& 0xFF0000000000033F#64
  let attr := if target % 2 ^ 43 < 2 ^ 40 then 0 else 1
  keep ||| BitVec.ofNat 64 (target % 2 ^ 56 / 2 ^ 16 * 2 ^ 16 + attr * 64 +
    (if compressed then 2 ^ 11 + target / 4096 % 16 * 4096 else 0))

/-- Every copy of a translation that `p` selects is dropped from the slices and the cluster TLBs; the walk caches are emptied (R377,
log 11). -/
def State.dropTlb (s : State) (p : TlbEntry → Bool) : State :=
  { s with tlb := s.tlb.filter (fun x => !p x), slices := s.slices.filter (fun x => !p x.leaf), walks := [] }

/-- A resumed convoy still holds a translation that `p` selects (R398). -/
def State.needed (s : State) (p : TlbEntry → Bool) : Bool := s.threads.any (fun t => t.needs.any (fun x => x.pte.getLsbD 0 && p x))

/-- A place that a page's content occupies: a frame, or the image of a compressed page; `key` tells the line addresses of different
images apart, which share no frame (R373). -/
structure PageHome where
  frame : Nat
  key   : Nat
  deriving DecidableEq, Repr

def PageHome.of (addr : Nat) (packed : Bool) : PageHome := ⟨addr, if packed then 2 ^ 64 + addr * 65536 else addr⟩

/-- Where an address of a moved page lies afterwards. -/
def movedAddr (src dst : PageHome) (a : Nat) : Nat := if src.key ≤ a && a < src.key + 65536 then a - src.key + dst.key else a

/-- What the homes keep for the words of a page moves with it: lost-line entries (R416), rank tags (R178), partials (R303) and the lines
of chain cells (R336); who waits on a cell of the page looks afresh. True if a line of the page is lost. -/
def State.moveHome (s : State) (src dst : PageHome) : Bool × State :=
  let d := homeDie (src.frame % 2 ^ 43)
  let here : Nat → Bool := fun a => src.key ≤ a && a < src.key + 65536
  let mine := (s.die d).lost.filter here
  let s := s.onDie d (fun x => { x with lost := x.lost.filter (fun a => !here a) })
  let s := s.onDie (homeDie (dst.frame % 2 ^ 43)) (fun x => { x with lost := x.lost ++ mine.map (movedAddr src dst) })
  let word := fun (w : Nat) => movedAddr src dst (4 * w) / 4
  let move := fun (l : Launch) => { l with
    tags := l.tags.map (fun t => { t with word := word t.word })
    partials := l.partials.map (fun p => { p with home := word p.home })
    cells := l.cells.map (fun c => (movedAddr src dst (128 * c.1) / 128, c.2)) }
  let s := { s with launches := s.launches.map move }
  (!mine.isEmpty, s.onThreads (fun t => match t.wait with
    | .cell line _ _ => here (128 * line)
    | _ => false) (fun t => { t with wait := .none }))

/-- The engine reads the lines of a range: those that it finds uncorrectable are lost, and errors that their code corrects are counted
(R414, R416). -/
def State.readLines (s : State) (lo n : Nat) : State :=
  (span (lo / 128) (n / 128)).foldl (fun s x => (s.correctLine x).foundBad (x * 128)) s

/-- The lost lines of a compressed page's image at `a`, of `n` bytes, count as the lines of the page at the same offsets (log 25). -/
def State.lostImage (s : State) (a n : Nat) : State :=
  s.onDie (homeDie (a % 2 ^ 43)) (fun x => { x with
    lost := (x.lost.map (fun y => if a ≤ y && y < a + n then (PageHome.of a true).key + (y - a) else y)).eraseDups })

/-- Every copy of every line of what a page occupies is recalled, and the engine reads it (R254, R375). -/
def State.takePage (s : State) (pte : Word) : State :=
  if pte.getLsbD 11 then
    let a := packedAddr pte
    let n := 4096 * (s.pageContent pte).2
    ((s.recall a n).readLines a n).lostImage a n
  else
    let frame := pte.toNat % 2 ^ 56 / 2 ^ 16 * 2 ^ 16
    (s.recall frame 65536).readLines frame 65536

/-- Move the page of an entry (R375): `op` 0 move, 1 demote and compress, 2 promote and expand. What the engine copies, and the chunk count
of it, are the page's bytes once every copy has been recalled; it writes the entry at its die's L2 (R245). -/
def State.movePage (s : State) (asid : BitVec 16) (va : Word) (pte : Word) (a op target : Nat) : Eng Word × State :=
  let comp := pte.getLsbD 11
  let off := target % 2 ^ 43
  let cap := 2 ^ 40 ≤ off && off < 7 * 2 ^ 40
  let usable := target / 2 ^ 43 = s.ident && off < 7 * 2 ^ 40 &&
    (if op = 1 then cap && target % 65536 = 0
     else if op = 0 && comp then cap && target % 4096 = 0 && target / 4096 % 16 + (s.pageContent pte).2 ≤ 16
     else target % 65536 = 0)
  let frame := pte.toNat % 2 ^ 56 / 2 ^ 16 * 2 ^ 16
  let mine : TlbEntry → Bool := fun x => x.asid == asid && x.page == pageOf va
  if (op = 1 && comp) || (op = 2 && !comp) || !usable then (.fail 7, s)
  else if s.needed mine then (.stall, s)
  else
    let s := (s.dropTlb mine).takePage pte
    let (cells, k0) := s.pageContent pte
    let k := if op = 1 then chunkCount cells else k0
    let packs := (op = 0 && comp) || (op = 1 && k < 16)
    let room := if packs then k * 4096 else 65536
    let s := s.recall target room
    let (lost, s) := s.moveHome (.of (if comp then packedAddr pte else frame) comp) (.of target packs)
    let s := if comp then { s with packed := s.packed.filter (·.addr != packedAddr pte) } else s
    let s := if packs then { s with packed := ⟨target, k, cells⟩ :: s.packed } else s.putPage target 65536 cells
    let new := movedEntry pte target packs
    let s := s.storeHome (some (s.ident * 8 + homeDie (frame % 2 ^ 43))) a new.toNat (2 ^ 64 - 1) 8
    if lost then (.fail 2, s)
    else (.ok (BitVec.ofNat 64 (2 ^ 62 + (if packs then k else 16) * 2 ^ 48 + room)), s)

/-- MIGRATE performed (R375). A page that is already moving makes the command wait, and one whose translation a resumed convoy holds
does too (R398). -/
def State.runMigrate (s : State) (d : BitVec 256) : Eng Word × State :=
  let asid := d.extractLsb' 64 16
  match s.pageEntry asid (d.extractLsb' 0 64) with
  | (.ok (pte, a), s) =>
    if pte.getLsbD 10 then (.stall, s) else s.movePage asid (d.extractLsb' 0 64) pte a (bits d 80 8) (bits d 128 64)
  | (.fail r, s) => (.fail r, s)
  | (.stall, s) => (.stall, s)

end Sys2Proof.Machine
end

