-- ==== Sys2Proof/Machine/Media.lean ====
section
/-! DEFINITION. The media engines' commands (R357 to R360), and the engine queues: how a command is performed, fails and completes
(R281, R341 to R344). -/

namespace Sys2Proof.Machine

open Sys2Proof

/-! ## The video of a command (R357, R358) -/

/-- Pictures, luma size, bit depth, chroma format and superblock or CTU size. -/
structure Video where
  pictures : Nat
  width    : Nat
  height   : Nat
  depth    : Nat
  chroma   : Nat
  unit     : Nat
  deriving DecidableEq, Repr

/-- The command decodes. -/
def decodes (block : BitVec 2048) : Bool := bits block 0 8 = 1

/-- The hand-off mode. -/
def handOff (block : BitVec 2048) : Nat := bits block 32 8

/-- The video of a command: an encode's block states it, a decode's bitstream does. -/
def videoOf (block : BitVec 2048) (input : List Byte) : Video :=
  if decodes block then
    let (n, w, h, d, c, u) := Config.codecStream block input
    ⟨n, w, h, d, c, u⟩
  else ⟨bits block 576 32, bits block 512 16, bits block 528 16, bits block 544 8, bits block 552 8, bits block 560 8⟩

/-- Superblock or CTU rows of a picture. -/
def Video.rows (v : Video) : Nat := (v.height + v.unit - 1) / v.unit

/-- Bytes of a sample: 1 at 8 bits, 2 at 10 (R358). -/
def Video.sampleBytes (v : Video) : Nat := if v.depth = 8 then 1 else 2

/-- Chroma planes of 4:2:0 have half the size. -/
def Video.halves (v : Video) (plane : Nat) : Nat := if plane ≠ 0 && v.chroma = 0 then 2 else 1

/-- Columns of a plane. -/
def Video.columns (v : Video) (plane : Nat) : Nat := (v.width + v.halves plane - 1) / v.halves plane

/-- Lines of a plane. -/
def Video.lines (v : Video) (plane : Nat) : Nat := (v.height + v.halves plane - 1) / v.halves plane

/-- The lines of a plane that a superblock or CTU row covers. -/
def Video.rowLines (v : Video) (plane row : Nat) : List Nat :=
  span (row * (v.unit / v.halves plane)) (min (v.lines plane) ((row + 1) * (v.unit / v.halves plane)))

/-- A picture-table entry (R358): the planes' addresses, the pitch of each plane in bytes, and the picture number. -/
structure Picture where
  planes : List Word
  pitch  : Nat
  number : Nat
  deriving DecidableEq, Repr

/-- The picture-table entry of a picture, entry i for picture i (log 22). -/
def State.mediaPicture (s : State) (c : Cmd) (block : BitVec 2048) (i : Nat) : Eng Picture × State :=
  match s.engRead c (byteAddrs (block.extractLsb' 192 64 + BitVec.ofNat 64 (32 * i)) 32) with
  | (.ok bs, s) =>
    let e : BitVec 256 := BitVec.ofNat 256 (bytesNat bs)
    (.ok ⟨[e.extractLsb' 0 64, e.extractLsb' 64 64, e.extractLsb' 128 64], bits e 192 32, bits e 224 32⟩, s)
  | (.fail r, s) => (.fail r, s)
  | (.stall, s) => (.stall, s)

/-- The address of a sample. -/
def Picture.addr (p : Picture) (v : Video) (plane x y : Nat) : Word :=
  p.planes.getD plane 0 + BitVec.ofNat 64 (y * p.pitch + x * v.sampleBytes)

/-- The addresses of the samples of a plane's lines, line by line. -/
def Picture.samples (p : Picture) (v : Video) (plane : Nat) (ys : List Nat) : List Word :=
  (ys.map (fun y => byteAddrs (p.addr v plane 0 y) (v.columns plane * v.sampleBytes))).flatten

/-! ## One command's work -/

/-- The source pictures of an encode, picture by picture and plane by plane. -/
def State.mediaSources (s : State) (c : Cmd) (block : BitVec 2048) (v : Video) : Nat → Eng (List Byte) × State
  | 0 => (.ok [], s)
  | n + 1 =>
    match s.mediaSources c block v n with
    | (.ok bs, s) =>
      match s.mediaPicture c block n with
      | (.ok p, s) =>
        match s.engRead c (((List.range 3).map (fun plane => p.samples v plane (List.range (v.lines plane)))).flatten) with
        | (.ok more, s) => (.ok (bs ++ more), s)
        | r => r
      | (.fail r, s) => (.fail r, s)
      | (.stall, s) => (.stall, s)
    | r => r

/-- What the command reads before its first row: a decode's bitstream or an encode's source pictures (DESIGN CHOICE of the moment,
log 22). -/
def State.mediaInput (s : State) (c : Cmd) (block : BitVec 2048) : Eng (List Byte) × State :=
  if decodes block then s.engRead c (byteAddrs (block.extractLsb' 64 64) (bits block 128 64))
  else s.mediaSources c block (videoOf block []) (bits block 576 32)

/-- The bytes of a decode's output for a row of a picture (R357, R358). -/
def decodedRow (block : BitVec 2048) (input : List Byte) (v : Video) (pic row : Nat) (p : Picture) : List (Word × Byte) :=
  ((List.range 3).map (fun plane => ((v.rowLines plane row).map (fun y => ((List.range (v.columns plane)).map (fun x =>
    let n := Config.codecSample block input pic p.number plane x y
    (List.range v.sampleBytes).map (fun i => (p.addr v plane x y + BitVec.ofNat 64 i, BitVec.ofNat 8 (n / 256 ^ i))))).flatten)).flatten)).flatten

/-- What the engine leaves in its working area of 512 MiB at a row. -/
def workRow (block : BitVec 2048) (input params : List Byte) (pic row : Nat) : List (Word × Byte) :=
  ((Config.codecWork block input params pic row).filter (fun x => x.1 < 2 ^ 29)).map (fun x => (block.extractLsb' 256 64 + BitVec.ofNat 64 x.1, x.2))

/-- A row of a picture is reconstructed: the working area, and a decode's samples in its planes. -/
def State.mediaRow (s : State) (c : Cmd) (block : BitVec 2048) (input : List Byte) (v : Video) (pic row : Nat) : Eng Unit × State :=
  match s.engWrite c (workRow block input c.params pic row) with
  | (.ok (), s) =>
    if decodes block then
      match s.mediaPicture c block pic with
      | (.ok p, s) => s.engWrite c (decodedRow block input v pic row p)
      | (.fail r, s) => (.fail r, s)
      | (.stall, s) => (.stall, s)
    else (.ok (), s)
  | r => r

/-- An encode writes a row's bitstream bytes behind those it has made; a buffer too small for them is reason 4 (R343). -/
def State.mediaBits (s : State) (c : Cmd) (block : BitVec 2048) (input params : List Byte) (pic row : Nat) : Eng Unit × State :=
  if decodes block then (.ok (), s)
  else
    let bs := Config.codecBits block input params pic row
    if bits block 128 64 < c.made + bs.length then (.fail 4, s)
    else
      match s.engWrite c ((byteAddrs (block.extractLsb' 64 64 + BitVec.ofNat 64 c.made) bs.length).zip bs) with
      | (.ok (), s) => (.ok (), s.onCmd c.token (fun x => { x with made := c.made + bs.length }))
      | r => r

/-! ## Semaphores (R286, R359, R360) -/

/-- The waiter number of a media engine in a semaphore's queue. -/
def engineWaiter (queue : Nat) : Nat := 2 ^ 32 + queue

/-- The entry, as it stands, that the block's scope index names (R286). -/
def State.mediaScope (s : State) (c : Cmd) (block : BitVec 2048) : ScopeEntry := s.scopeAt c.ctx (bits block 40 8)

/-- A post of 1 to the row semaphore at the command's scope index: a release behind the command's writes (R286, R359). -/
def State.postRow (s : State) (c : Cmd) (block : BitVec 2048) : State :=
  ((s.engineRelease c.ctx c.queue (s.mediaScope c block)).semPost (bits block 320 32) 1 false false).2

/-- A stopped media command's semaphores receive the error flag, and its engine leaves every semaphore (R360, R418). -/
def State.failSems (s : State) (c : Cmd) (block : BitVec 2048) : State :=
  let s := s.forgetSems [engineWaiter c.queue]
  if handOff block = 0 then s
  else
    let s := s.engineRelease c.ctx c.queue (s.mediaScope c block)
    ((s.semPost (bits block 320 32) 1 false true).2.semPost (bits block 352 32) 1 false true).2

/-! ## Progress -/

/-- A command's token value. -/
def State.finishCmd (s : State) (c : Cmd) (w : Word) : State := s.onCmd c.token (fun x => { x with result := some w })

/-- A command has failed: a media command's semaphores are closed before its token is written (R343, R360). -/
def State.failCmd (s : State) (c : Cmd) (reason : Nat) : State :=
  let s := match c.kind with
    | .media block => (s.failSems c block).blackBox 8 0x04 (s.asidOfSlot c.ctx) (BitVec.ofNat 64 (bits block 1984 64))
    | _ => s
  s.finishCmd c (errorToken reason)

/-- The token of a media command that is done (R342, R358, R359). -/
def mediaToken (c : Cmd) (block : BitVec 2048) (input : List Byte) : Word :=
  if decodes block then doneToken false (min (bits block 128 64) (Config.codecConsumed block input))
  else doneToken (handOff block = 2 && Config.codecClamps block c.params) c.made

/-- The row after one that is done. -/
def Cmd.nextRow (c : Cmd) (rows : Nat) : Cmd := if c.row + 1 < rows then { c with row := c.row + 1 } else { c with row := 0, pic := c.pic + 1 }

/-- The next row of a picture in modes 0 and 1: its output, then the post (R359). -/
def State.stepRow (s : State) (c : Cmd) (block : BitVec 2048) (input : List Byte) (v : Video) : State :=
  match s.mediaRow c block input v c.pic c.row with
  | (.ok (), s1) =>
    match s1.mediaBits c block input c.params c.pic c.row with
    | (.ok (), s1) => (if handOff block = 1 then s1.postRow c block else s1).onCmd c.token (·.nextRow v.rows)
    | (.fail r, s1) => s1.failCmd c r
    | (.stall, s1) => s.woke s1
  | (.fail r, s1) => s1.failCmd c r
  | (.stall, s1) => s.woke s1

/-- The next step of mode 2: before a picture's first row a post; at row k + 1 the reconstruction of row k and a post (R359). -/
def State.stepHandOff (s : State) (c : Cmd) (block : BitVec 2048) (input : List Byte) (v : Video) : State :=
  if c.posted then s
  else if c.row = 0 then (s.postRow c block).onCmd c.token (fun x => { x with posted := true })
  else match s.mediaRow c block input v c.pic (c.row - 1) with
    | (.ok (), s1) => (s1.postRow c block).onCmd c.token (fun x => { x with posted := true })
    | (.fail r, s1) => s1.failCmd c r
    | (.stall, s1) => s.woke s1

/-- One step of a media command (R359): reading its input, a row, or the end. A bitstream that does not conform is reason 3 (R343). -/
def State.stepMedia (s : State) (c : Cmd) (block : BitVec 2048) : State :=
  match c.input with
  | none =>
    match s.mediaInput c block with
    | (.ok bs, s) => s.onCmd c.token (fun x => { x with input := some bs })
    | (.fail r, s) => s.failCmd c r
    | (.stall, s1) => s.woke s1
  | some input =>
    let v := videoOf block input
    if decodes block && Config.codecRefuses block input then s.failCmd c 3
    else if v.pictures ≤ c.pic || v.rows = 0 then s.finishCmd c (mediaToken c block input)
    else if handOff block = 2 then s.stepHandOff c block input v
    else s.stepRow c block input v

/-- The slot a mode-2 command reads next: 16 before a picture's first row, then r mod 16 (R359). -/
def Cmd.slot (c : Cmd) : Nat := if c.row = 0 then 16 else (c.row - 1) % 16

/-- A mode-2 command has taken its parameter semaphore: it reads the slot, and codes the row that the slot belongs to (R359). Values
outside their element's range are the codec's to clamp. -/
def State.readSlot (s : State) (c : Cmd) (block : BitVec 2048) : State :=
  match s.engRead c (byteAddrs (block.extractLsb' 384 64 + BitVec.ofNat 64 (4096 * c.slot)) 4096) with
  | (.ok bs, s1) =>
    let params := c.params ++ bs
    let input := c.input.getD []
    let v := videoOf block input
    let coded := if c.row = 0 then (.ok (), s1) else s1.mediaBits c block input params c.pic (c.row - 1)
    match coded with
    | (.ok (), s1) =>
      s1.onCmd c.token (fun x =>
        let x := { x with posted := false, took := false, params := params }
        if c.row < v.rows then { x with row := c.row + 1 } else { x with row := 0, pic := c.pic + 1 })
    | (.fail n, s1) => s1.failCmd c n
    | (.stall, s1) => s.woke s1
  | (.fail n, s1) => s1.failCmd c n
  | (.stall, s1) => s.woke s1

/-- The command that the engine of a queue works on: the first without a result. A media engine starts none while an error token of an
earlier one is unwritten (R360). -/
def State.working (s : State) (q : Nat) : Option Cmd :=
  if 32 ≤ q && q < 48 && s.queues.any (fun c => c.queue == q && c.result.any (·.getLsbD 63)) then none
  else s.queues.find? (fun c => c.queue == q && c.result.isNone)

/-- A media engine takes the parameter semaphore, an acquire at the command's scope index, and reads its next slot (R286, R359). -/
def State.mediaParams (s : State) (q : Nat) : State :=
  match s.working q with
  | none => s
  | some c =>
    match c.kind with
    | .media block =>
      if !c.posted then s
      else if c.took then s.readSlot c block
      else
        let k := bits block 352 32
        let place : SemPlace := ⟨engineWaiter q, 1, s.mediaScope c block⟩
        match (s.sem k).tryWait place with
        | none => s.putSem ((s.sem k).join place)
        | some (_, e, x) =>
          let s := ((s.putSem x).engineAcquire c.ctx q e).onCmd c.token (fun x => { x with took := true })
          s.readSlot c block
    | _ => s

/-! ## Queues -/

/-- An engine works on the next command of its queue (R281): performs it whole, or for a media command takes its next
step. A command that stalls stays as it is (R343). -/
def State.runQueue (s : State) (q : Nat) : State :=
  match s.working q with
  | none => s
  | some c =>
    let close (s0 : State) (r : Eng Word × State) : State :=
      match r with
      | (.ok w, s) => s.finishCmd c w
      | (.fail n, s) => s.failCmd c n
      | (.stall, s) => s0.woke s
    match c.kind with
    | .copy src dst n =>
      close s (match s.copyRows c true (fun _ => false) [(byteAddrs src n, byteAddrs dst n)] with
        | (.ok _, s) => (.ok (doneToken false n), s)
        | (.fail k, s) => (.fail k, s)
        | (.stall, s) => (.stall, s))
    | .copy2d d =>
      let (snap, s1) := s.freeChoice
      close s (match s1.copyRows c snap (copy2dSource d) (copy2dRows d) with
        | (.ok _, s) => (.ok (doneToken false (bits d 160 32 * bits d 128 32)), s)
        | (.fail k, s) => (.fail k, s)
        | (.stall, s) => (.stall, s))
    | .qcopy d => close s (s.runQcopy c d)
    | .migrate d => close s (s.runMigrate d)
    | .media block => s.stepMedia c block

/-- The oldest command of a queue completes: its token is written and the command leaves (R341, R342). -/
def State.completeQueue (s : State) (q : Nat) : State :=
  match s.queues.find? (fun c => c.queue == q) with
  | some c =>
    match c.result with
    | some w => { s.writeToken c.uid c.token w (some c.wrote) with queues := s.queues.filter (fun x => x.token != c.token) }
    | none => s
  | none => s

/-- Perform and complete a thread's command, and every command before it in its queue, as far as they go (log 15). -/
def State.drainQueue (s : State) (q : Nat) : Nat → State
  | 0 => s
  | n + 1 => ((s.runQueue q).completeQueue q).drainQueue q n

/-- Every queue the thread has commands in is drained (R344, R283). -/
def State.drainThread (s : State) (uid : Nat) (p : Nat → Bool) : State :=
  let qs := ((s.queues.filter (fun c => c.uid == uid && p c.queue)).map (·.queue)).eraseDups
  qs.foldl (fun s q => s.drainQueue q (s.queues.length + 1)) s

end Sys2Proof.Machine
end

