-- ==== Sys2Proof/Machine/Launch.lean ====
section
/-! DEFINITION. Launches: the record and its checks (R322, R323, R176), the urns' queues (R326), placement (R327, R328),
thread start (R330), completion and termination (R335, R336), dependence cells (R329), and child tasks (R337 to R339). -/

namespace Sys2Proof.Machine

open Sys2Proof

/-! ## The record (R322) -/

def Launch.threadsPerCore (l : Launch) : Nat := bits l.image 128 8
def Launch.coresPerGang (l : Launch) : Nat := bits l.image 136 8
def Launch.gangsPerDie (l : Launch) : Nat := bits l.image 144 8
def Launch.dieCount (l : Launch) : Nat := bits l.image 152 8
def Launch.devices (l : Launch) : Nat := bits l.image 160 16
def Launch.started (l : Launch) : Nat := bits l.image 176 8
def Launch.nregs (l : Launch) : Nat := bits l.image 256 8
def Launch.naccs (l : Launch) : Nat := bits l.image 264 8
def Launch.prio (l : Launch) : Nat := bits l.image 272 2
def Launch.det (l : Launch) : Bool := l.image.getLsbD 275
/-- Placed, parked and resumed as co-resident (R176, R328). -/
def Launch.coResident (l : Launch) : Bool := l.image.getLsbD 274 || l.det
def Launch.window (l : Launch) : Nat := bits l.image 288 32
def Launch.tag (l : Launch) : Word := l.image.extractLsb' 832 64
/-- The dies of the launch, in order (R322). -/
def maskDies (image : BitVec 1024) : List Nat := (List.range 8).filter (fun d => image.getLsbD (512 + d))
def Launch.dies (l : Launch) : List Nat := maskDies l.image
/-- The logical core count P of R21. -/
def recordCount (image : BitVec 1024) : Nat :=
  bits image 160 16 * bits image 152 8 * bits image 144 8 * bits image 136 8
/-- Discardable ranges as window offset and length in bytes; length 0 is unused (R322). -/
def Launch.discards (l : Launch) : List (Nat × Nat) :=
  ((List.range 4).map (fun r => (1024 * bits l.image (320 + 32 * r) 16, 1024 * bits l.image (336 + 32 * r) 16))).filter (·.2 ≠ 0)

/-- The ranges lie in the window and do not overlap (R322). -/
def rangesOk (win : Nat) : List (Nat × Nat) → Bool
  | [] => true
  | (o, n) :: t => o + n ≤ win && t.all (fun r => r.1 + r.2 ≤ o || o + n ≤ r.1) && rangesOk win t

/-- Reason 1's condition: every field within its limits and every zero field zero (R322). The completion word must be zero as the record
enters an urn's queue, whoever built it (log 46). -/
def recordOk (image : BitVec 1024) : Bool :=
  let l : Launch := ⟨0, 0, image, .nowhere, false, [], 0, [], [], [], [], [], none⟩
  let t := l.threadsPerCore
  canonical (image.extractLsb' 0 64) && bits image 0 4 = 0 &&
  (!l.det || bits image 64 3 = 0) &&
  1 ≤ t && t ≤ 4 && 1 ≤ l.coresPerGang && l.coresPerGang ≤ 32 && 1 ≤ l.gangsPerDie && l.gangsPerDie ≤ 16 &&
  1 ≤ l.dieCount && l.dieCount ≤ 8 && 1 ≤ l.devices && l.devices ≤ 4608 &&
  1 ≤ l.started && l.started ≤ t && bits image 184 8 = 0 &&
  (l.det || bits image 192 64 = 0) &&
  [8, 16, 32].contains l.nregs && t * l.nregs ≤ 32 && [0, 2, 4, 8].contains l.naccs && t * l.naccs ≤ 8 &&
  bits image 276 12 = 0 && l.window % 1024 = 0 && t * l.window ≤ 131072 && rangesOk l.window l.discards &&
  l.dies.length = l.dieCount && bits image 520 8 = 0 && bits image 528 16 < l.devices && bits image 544 32 = 0 &&
  bits image 576 3 = 0 && bits image 704 3 = 0 && !image.getLsbD 703 && !image.getLsbD 831 && bits image 896 64 = 0 &&
  bits image 960 64 = 0

/-- Reason 2's first half: the deterministic conditions of R176. -/
def detOk (image : BitVec 1024) : Bool :=
  !image.getLsbD 275 ||
  (bits image 192 32 = recordCount image && bits image 224 32 % 64 = 0 && 64 ≤ bits image 224 32 &&
    bits image 224 32 ≤ 16384 && recordCount image * bits image 128 8 ≤ 32768)

/-- The page-table root of a context slot. -/
def State.ctxRoot (s : State) (slot : Nat) : Nat :=
  if slot = 64 then s.th.priv.ptroot.toNat else ((s.ctxRec slot).extractLsb' 64 64).toNat

/-- The ASID of a context slot. -/
def State.ctxAsid (s : State) (slot : Nat) : BitVec 16 := if slot = 64 then s.th.priv.asid else s.asidOfSlot slot

/-- A read of a doubleword by the I/O die at its home in a context (R245), or nothing where it cannot be made. -/
def State.ctxRead8 (s : State) (slot : Nat) (va : Word) : Option Word × State :=
  match s.engineXlate (s.ctxRoot slot) (s.ctxAsid slot) va 0 false with
  | (.ok attr phys, s) =>
    if attr = 3 then (none, s)
    else if s.lineBad phys then (none, s.foundBad phys)
    else let s := s.sharedRead none phys; (some (BitVec.ofNat 64 (s.homeRead phys 8)), s)
  | (_, s) => (none, s)

/-- A store of a doubleword by the I/O die at its home under a root (R245); false where it cannot be made. -/
def State.rootWrite8 (s : State) (root : Nat) (asid : BitVec 16) (va v : Word) : Bool × State :=
  match s.engineXlate root asid va 1 false with
  | (.ok attr phys, s) =>
    if attr = 3 then (false, s)
    else if s.lineBad phys then (false, s.foundBad phys)
    else (true, s.storeHome none phys v.toNat (2 ^ 64 - 1) 8)
  | (_, s) => (false, s)

/-- A store of a doubleword by the I/O die in a context. -/
def State.ctxWrite8 (s : State) (slot : Nat) (va v : Word) : Bool × State := s.rootWrite8 (s.ctxRoot slot) (s.ctxAsid slot) va v

/-- An access of the I/O die meets a page that is Migrating or Compressed, and stalls until the new entry is written (R374). -/
def State.rootStalls (s : State) (root : Nat) (asid : BitVec 16) (va : Word) (kind : Nat) : Bool :=
  match s.engineXlate root asid va kind false with
  | (.stall, _) => true
  | _ => false

/-- A stalled access of the I/O die wakes the migration engine of a compressed page (R374). -/
def State.rootWake (s : State) (root : Nat) (asid : BitVec 16) (va : Word) (kind : Nat) : State :=
  match s.engineXlate root asid va kind false with
  | (.stall, s) => s
  | _ => s

/-- The same of an access in a context. -/
def State.ctxStalls (s : State) (slot : Nat) (va : Word) (kind : Nat) : Bool := s.rootStalls (s.ctxRoot slot) (s.ctxAsid slot) va kind
def State.ctxWake (s : State) (slot : Nat) (va : Word) (kind : Nat) : State := s.rootWake (s.ctxRoot slot) (s.ctxAsid slot) va kind

/-- Clusters of a die that the context has (R364). -/
def State.ctxClusters (s : State) (slot d : Nat) : List Nat := (span (16 * d) (16 * d + 16)).filter (fun c => s.ctxHasCluster slot c)

/-- A cluster could hold one gang of the record when idle: C of its cores have scratchpad enough powered (R135, R327). -/
def State.couldHold (s : State) (image : BitVec 1024) (cl : Nat) : Bool :=
  bits image 136 8 ≤ ((span (32 * cl) (32 * cl + 32)).filter (fun c =>
    bits image 128 8 * bits image 288 32 ≤ 16384 * lanesOf (s.coreRec c).maxlane)).length

/-- The first check of R323 that the record fails, reasons 1 to 4. -/
def State.rejects (s : State) (slot : Nat) (image : BitVec 1024) : Option Nat :=
  let argOk (i : Nat) : Bool := (s.ctxWrite8 slot (image.extractLsb' 64 64 + BitVec.ofNat 64 (8 * i)) 0).1
  if !recordOk image then some 1
  else if !detOk image || (image.getLsbD 275 && !(argOk 0 && argOk 1)) then some 2
  else if image.extractLsb' 448 64 ≠ (s.ctxRec slot).extractLsb' 384 64 then some 3
  else if (maskDies image).any (fun d => ((s.ctxClusters slot d).filter (s.couldHold image)).length < bits image 144 8) then some 4
  else none

/-- A host launch's token is written to its record. On a page that moves it is owed until the new entry stands, and LAUNCH_COMPLETION of
the record that stands for it writes it (R374). -/
def State.hostToken (s : State) (slot : Nat) (addr v : Word) : State :=
  if s.ctxStalls slot addr 1 then
    let l : Launch := ⟨s.nextLaunch, slot, 0, .host slot addr, true, [], 0, [], [], [], [], [], some (v, s.ctxRoot slot, s.ctxAsid slot)⟩
    let s := s.ctxWake slot addr 1
    { s with launches := s.launches ++ [l], nextLaunch := s.nextLaunch + 1 }
  else (s.ctxWrite8 slot addr v).2

/-- A launch's completion token is written (R323, R335). -/
def State.giveToken (s : State) (dest : TokenDest) (v : Word) : State :=
  match dest with
  | .reg uid token => s.writeToken uid token v none
  | .host slot addr => s.hostToken slot addr v
  | .nowhere => s

/-- The gangs of a launch before placement, die by die (R21). -/
def freshGangs (image : BitVec 1024) : List Gang :=
  let g := bits image 144 8
  (((maskDies image).zipIdx).map (fun (d, i) =>
    (List.range g).map (fun k => (⟨(bits image 528 16 * bits image 152 8 + i) * g + k, d, none, none, false, false, 0, []⟩ : Gang)))).flatten

/-- The urns of the named dies accept a record (R323, R325): a rejected one gets its token at once; a deterministic one
has P and L written first (R176); a launch with dependence cells is held until R329 releases it. -/
def State.urnAccept (s : State) (slot : Nat) (image : BitVec 1024) (dest : TokenDest) : State :=
  match s.rejects slot image with
  | some r => s.giveToken dest (errorToken r)
  | none =>
    let arg := image.extractLsb' 64 64
    let s := if image.getLsbD 275 then
        ((s.ctxWrite8 slot arg (BitVec.ofNat 64 (bits image 192 32))).2.ctxWrite8 slot (arg + 8) (BitVec.ofNat 64 (bits image 224 32))).2
      else s
    let id := s.nextLaunch
    let free := bits image 576 64 = 0 && bits image 704 64 = 0
    let l : Launch := ⟨id, slot, image, dest, free, freshGangs image, 0, [], [], [], [], [], none⟩
    let s := { s with launches := s.launches ++ [l], nextLaunch := id + 1 }
    (maskDies image).foldl (fun s d =>
      (s.onDie d (fun x => { x with urn := x.urn ++ [id] })).blackBox d 0x07 (s.asidOfSlot slot) l.tag) s

/-- The urn of every named die has room for a record (R325). -/
def State.urnRoom (s : State) (image : BitVec 1024) : Bool := (maskDies image).all (fun d => (s.die d).urn.length < 256)

/-- The urns cannot take the record yet: one of them is full (R325), or the writes of P and L stall (R176, R374). -/
def State.urnWaits (s : State) (slot : Nat) (image : BitVec 1024) : Bool :=
  let arg := image.extractLsb' 64 64
  !s.urnRoom image ||
    (recordOk image && detOk image && image.getLsbD 275 && (s.ctxStalls slot arg 1 || s.ctxStalls slot (arg + 8) 1))

/-- The stalled writes of P and L wake the engines of compressed pages (R374). -/
def State.urnWake (s : State) (slot : Nat) (image : BitVec 1024) : State :=
  let arg := image.extractLsb' 64 64
  if recordOk image && detOk image && image.getLsbD 275 then (s.ctxWake slot arg 1).ctxWake slot (arg + 8) 1 else s

/-- The write of a launch's token stalls (R374). -/
def State.tokenStalls (s : State) (l : Launch) : Bool :=
  match l.token with
  | .host slot addr => s.ctxStalls slot addr 1
  | _ => false

/-- The stalled write of a launch's token wakes the engine of a compressed page (R374). -/
def State.tokenWake (s : State) (l : Launch) : State :=
  match l.token with
  | .host slot addr => s.ctxWake slot addr 1
  | _ => s

def State.launch (s : State) (id : Nat) : Option Launch := s.launches.find? (·.id == id)

def State.onLaunch (s : State) (id : Nat) (f : Launch → Launch) : State :=
  { s with launches := updWhere (fun l => l.id == id) f s.launches }

/-- Change one gang of a launch. -/
def State.onGang (s : State) (id num : Nat) (f : Gang → Gang) : State :=
  s.onLaunch id (fun l => { l with gangs := updWhere (fun g => g.num == num) f l.gangs })

/-! ## Resources of a core (R11, R327) -/

/-- A slot in use: core, slot, window offset and size, registers and accumulators. -/
structure Use where
  core  : Nat
  slot  : Nat
  win   : Nat
  size  : Nat
  nregs : Nat
  naccs : Nat
  deriving DecidableEq, Repr

/-- What a gang's spots use. -/
def Launch.use (l : Launch) (p : Spot) : Use := ⟨p.core, p.slot, p.win, l.window, l.nregs, l.naccs⟩

/-- Every slot that a placed gang holds. -/
def State.uses (s : State) : List Use :=
  (s.launches.map (fun l => ((l.gangs.filter (fun g => g.cluster.isSome)).map (fun g =>
    (g.spots.filter (·.held)).map l.use)).flatten)).flatten

/-- Bytes of scratchpad that a compute core's powered lane groups hold (R135). -/
def State.scratchCap (s : State) (core : Nat) : Nat := 16384 * lanesOf (s.coreRec core).maxlane

/-- The window [off, off + n) of a core that holds `cap` bytes is free. -/
def winFree (us : List Use) (cap core off n : Nat) : Bool :=
  off + n ≤ cap && us.all (fun u => u.core ≠ core || u.win + u.size ≤ off || off + n ≤ u.win)

/-- Registers and accumulators of a core allow `n` more shares. -/
def shareFree (us : List Use) (core n nregs naccs : Nat) : Bool :=
  ((us.filter (·.core == core)).map (·.nregs)).sum + n * nregs ≤ 32 &&
  ((us.filter (·.core == core)).map (·.naccs)).sum + n * naccs ≤ 8

/-- Slots of a core that nothing holds. -/
def freeSlots (us : List Use) (core : Nat) : List Nat := (List.range 4).filter (fun k => !(us.any (fun u => u.core == core && u.slot == k)))

/-- The T spots a core offers a gang of the launch, or nothing (R327). -/
def Launch.coreSpots (l : Launch) (us : List Use) (cap core : Nat) : Option (List Spot) :=
  let t := l.threadsPerCore
  let slots := (freeSlots us core).take t
  if slots.length < t || !shareFree us core t l.nregs l.naccs then none
  else
    match (List.range 129).find? (fun i => winFree us cap core (1024 * i) (t * l.window)) with
    | none => none
    | some i => some (slots.zipIdx.map (fun (k, j) => ⟨core, k, 1024 * i + j * l.window, true, 3#2⟩))

/-- The spots a cluster offers a new gang (R327): the first C cores that have room. -/
def State.clusterSpots (s : State) (l : Launch) (cl : Nat) : Option (List Spot) :=
  if !s.ctxHasCluster l.ctx cl || l.gangs.any (fun g => g.cluster == some cl) then none
  else
    let us := s.uses
    let cores := ((span (32 * cl) (32 * cl + 32)).filterMap (fun c => l.coreSpots us (s.scratchCap c) c)).take l.coresPerGang
    if cores.length < l.coresPerGang then none else some cores.flatten

/-- A choice of distinct places for each item, in order, if one exists. -/
def assign {α β : Type} (cands : α → List (Nat × β)) : List α → List Nat → Option (List (α × Nat × β))
  | [], _ => some []
  | x :: rest, used =>
    (cands x).findSome? (fun c => if used.contains c.1 then none else (assign cands rest (c.1 :: used)).map ((x, c.1, c.2) :: ·))

/-- A core meets R327 for a gang of the launch. -/
def State.coreMeets (s : State) (l : Launch) (core : Nat) : Bool := (l.coreSpots s.uses (s.scratchCap core) core).isSome

/-- A spot that holds no thread moves to a core with its gang: to a slot and a window that are free beside `us`, its old ones if it can, or it
is given back (R327, R333). -/
def State.moveSpot (s : State) (l : Launch) (us : List Use) (core : Nat) (p : Spot) : Spot :=
  let cap := s.scratchCap core
  let slots := freeSlots us core
  let slot := if slots.contains p.slot then some p.slot else slots.head?
  let win := (p.win :: (List.range 129).map (1024 * ·)).find? (fun w => winFree us cap core w l.window)
  match slot, win with
  | some k, some w => { p with core := core, slot := k, win := w }
  | _, _ => { p with core := core, held := false }

/-- The spots of one core position of a resumed gang at a core that meets R327: its threads (`live`) keep slot index and window offset under
the same maxlane (R112, R333), and the others take what is free. -/
def State.coreResume (s : State) (l : Launch) (live : Spot → Bool) (core : Nat) (ps : List Spot) : Option (List Spot) :=
  let us := s.uses
  let mine := ps.filter (fun p => p.held && live p)
  if s.coreMeets l core && mine.all (fun p =>
      (freeSlots us core).contains p.slot && winFree us (s.scratchCap core) core p.win l.window && (s.coreRec core).maxlane == p.lanes) then
    let taken := us ++ mine.map (fun p => l.use { p with core := core })
    some ((ps.foldl (fun (acc : List Spot × List Use) p =>
      if live p || !p.held then (acc.1 ++ [{ p with core := core }], acc.2)
      else
        let q := s.moveSpot l acc.2 core p
        (acc.1 ++ [q], if q.held then l.use q :: acc.2 else acc.2)) ([], taken)).1)
  else none

/-- The spots for a resumed gang in a cluster (R333, R112): each core position takes a core of its own. -/
def State.resumeSpots (s : State) (l : Launch) (g : Gang) (cl : Nat) : Option (List Spot) :=
  if !s.ctxHasCluster l.ctx cl || l.gangs.any (fun x => x.cluster == some cl) then none
  else
    let t := l.threadsPerCore
    let live (p : Spot) : Bool := s.threads.any (fun x => x.launch == l.id && x.gang == g.num && x.core == p.core && x.slot == p.slot)
    let cands (i : Nat) : List (Nat × List Spot) := (span (32 * cl) (32 * cl + 32)).filterMap (fun c =>
      (s.coreResume l live c ((g.spots.drop (i * t)).take t)).map (c, ·))
    (assign cands (List.range l.coresPerGang) []).map (fun xs => (xs.map (·.2.2)).flatten)

/-! ## The urn's queue (R326) -/

/-- An entry of an urn's queue: a launch with gangs to place on the die, or a parked gang. -/
structure QEntry where
  prio   : Nat
  kind   : Nat
  launch : Nat
  gang   : Nat
  deriving DecidableEq, Repr

/-- `a` arrived ahead of `b`: by launch, the parked gangs of one before its unplaced ones (DESIGN CHOICE, log 58), then by gang number. -/
def QEntry.ahead (a b : QEntry) : Bool :=
  if a.launch ≠ b.launch then a.launch < b.launch
  else if (a.kind = 1) ≠ (b.kind = 1) then a.kind = 1
  else a.gang < b.gang

/-- The entries of a die's queue (R326, R329): kind 0 a launch that has begun placement, 1 a parked gang, 2 another launch. A launch has
begun once any of its gangs has been placed, wherever that gang runs now (log 58). -/
def State.urnQueue (s : State) (d : Nat) : List QEntry :=
  let waiting := (s.die d).urn.filterMap (fun id => (s.launch id).bind (fun l =>
    if l.released then
      some (⟨l.prio, if l.gangs.any (·.placed) then 0 else 2, id, 0⟩ : QEntry)
    else none))
  let parked := (s.launches.map (fun l => if l.dies.contains d then
    (l.gangs.filter (fun g => g.parked.isSome)).map (fun g => (⟨l.prio, 1, l.id, g.num⟩ : QEntry)) else [])).flatten
  waiting ++ parked

/-- The entries that may head the queue: those of the highest priority, without the launches that have not begun where a gang of that
priority is parked (R326). -/
def frontOf (q : List QEntry) : List QEntry :=
  let top := q.filter (fun e => q.all (fun x => x.prio ≤ e.prio))
  if top.any (·.kind == 1) then top.filter (·.kind != 2) else top

/-- The head of a die's queue: of those that may head it the first to arrive (R326). -/
def State.urnHead (s : State) (d : Nat) : Option QEntry :=
  (frontOf (s.urnQueue d)).foldl (fun h e => match h with
    | none => some e
    | some x => if e.ahead x then some e else some x) none

/-! ## Thread start (R330) -/

/-- Zero the scratchpad bytes [off, off + n) of a core; a damaged word among them is whole again (R417). -/
def State.zeroScratch (s : State) (core off n : Nat) : State :=
  let lo := core * 131072 + off
  { s with
    scratch := s.scratch.filter (fun c => !(lo ≤ c.1 && c.1 < lo + n))
    damage := s.damage.filter (fun d => match d with
      | .scratch c w => !(c = core && off ≤ 8 * w && 8 * w + 8 ≤ off + n)
      | _ => true) }

/-- The current serials of a context's scope entries (R290). -/
def State.serials (s : State) (slot : Nat) : Vector Word 16 :=
  Vector.ofFn (fun i => match s.ctxs.find? (·.slot == slot) with
    | some c => (c.scopes.getD i.val ⟨0, 0, false⟩).serial
    | none => 0)

/-- A thread starts at a spot of a gang with index t and core position c (R330, R81, R189, R217, R290). -/
def State.startThread (s : State) (l : Launch) (g : Gang) (p : Spot) (c t : Nat) (entry arg : Word) (parent : Option Nat) : State :=
  let lcore := g.num * l.coresPerGang + c
  let s2 : Word := if l.window = 0 then 0 else BitVec.ofNat 64 (2 ^ 63 + p.win)
  let th : Thread := { Thread.resetControl 0 with
    uid := s.nextUid
    core := p.core
    slot := p.slot
    ctx := l.ctx
    launch := l.id
    gang := g.num
    index := t
    threadNo := BitVec.ofNat 32 (lcore * l.threadsPerCore + t)
    lcoreNo := BitVec.ofNat 32 lcore
    lgangNo := BitVec.ofNat 32 g.num
    lcountNo := BitVec.ofNat 32 (recordCount l.image)
    det := l.det
    pc := entry
    regs := vput (vput (Vector.replicate 32 0) 1 arg) 2 s2
    pins := s.serials l.ctx
    priv := { Priv.reset with privileged := false }
    nregs := l.nregs
    naccs := l.naccs
    winBase := p.win
    winSize := l.window
    parent := parent
    prio := l.prio
    curPrio := l.prio
    run := .ready }
  let s := s.zeroScratch p.core p.win l.window
  { s with others := s.others ++ [th], nextUid := s.nextUid + 1 }

/-- The caches as a gang starts or resumes (R330, R409 step 2). -/
def State.openGang (s : State) (cl : Nat) (spots : List Spot) : State :=
  spots.foldl (fun s p => s.dropRo p.core) (s.discardCluster cl)

/-- A gang takes its spots, and its first I threads of each core start (R327, R330); its cores fetch afresh (R378). -/
def State.placeGang (s : State) (l : Launch) (num cl : Nat) (spots : List Spot) : State :=
  match l.gangs.find? (·.num == num) with
  | none => s
  | some g =>
    let order := s.nextUid
    let s := s.onGang l.id num (fun g => { g with cluster := some cl, die := cl / 16, placed := true, order := order, spots := spots })
    let s := s.openGang cl spots
    let s := { s with icache := s.icache.filter (fun x => !spots.any (fun p => p.core == x.core)) }
    let t := l.threadsPerCore
    spots.zipIdx.foldl (fun s (p, i) =>
      if i % t < l.started then s.startThread l g p (i / t) (i % t) (l.image.extractLsb' 0 64) (l.image.extractLsb' 64 64) none
      else s) s

/-- A launch leaves the urns whose gangs it has all placed. -/
def State.trimUrn (s : State) (l : Nat) : State :=
  match s.launch l with
  | none => s
  | some x => x.dies.foldl (fun s d =>
      if x.gangs.all (fun g => g.die ≠ d || g.placed) then s.onDie d (fun y => { y with urn := y.urn.filter (· != l) }) else s) s

/-- Cluster numbers of a die, starting with one and wrapping. -/
def rotated (d first : Nat) : List Nat := (List.range 16).map (fun i => 16 * d + (first + i) % 16)

/-- Every gang of a co-resident launch with its cluster and spots, if all can be placed at once (R328). -/
def State.planAll (s : State) (l : Launch) (first : Nat) : Option (List (Gang × Nat × List Spot)) :=
  assign (fun g => (rotated g.die first).filterMap (fun c => (s.clusterSpots l c).map (c, ·))) l.gangs []

/-- The urn of a die places the head's next gang on a cluster, whole, if it fits there; a co-resident head is placed
whole, on every die, or not at all, and only while it heads each of its urns (R326 to R328). -/
def State.placeHead (s : State) (d cl : Nat) : State :=
  match s.urnHead d with
  | none => s
  | some h =>
    match s.launch h.launch with
    | none => s
    | some l =>
      if h.kind = 1 then s
      else if l.coResident then
        if l.dies.all (fun x => (s.urnHead x).map (·.launch) == some l.id) then
          match s.planAll l cl with
          | none => s
          | some plan => (plan.foldl (fun s (g, c, ps) => s.placeGang l g.num c ps) s).trimUrn l.id
        else s
      else
        match l.gangs.find? (fun g => g.die == d && !g.placed), s.clusterSpots l (16 * d + cl) with
        | some g, some ps => (s.placeGang l g.num (16 * d + cl) ps).trimUrn l.id
        | _, _ => s

/-! ## Retirement, completion and termination (R335, R336, R365) -/

/-- The gang's cluster holds a queued task of it. -/
def State.gangHasTask (s : State) (launch gang : Nat) : Bool := s.tasks.any (fun t => t.launch == launch && t.gang == gang)

/-- A thread's live records of a gang. -/
def State.gangThreads (s : State) (launch gang : Nat) : List Thread :=
  s.threads.filter (fun t => t.launch == launch && t.gang == gang && !isControl t.core)

/-- A gang whose threads have all retired and whose tasks are done is cleaned and gives its slots back (R335). -/
def State.closeGang (s : State) (launch gang : Nat) : State :=
  match (s.launch launch).bind (fun l => l.gangs.find? (·.num == gang)) with
  | none => s
  | some g =>
    if g.placed && !g.done && g.parked.isNone && (s.gangThreads launch gang).isEmpty && !s.gangHasTask launch gang then
      let s := match g.cluster with
        | some cl => s.cleanCluster cl
        | none => s
      s.onGang launch gang (fun g => { g with done := true, cluster := none, spots := [] })
    else s

/-- A launch leaves the device: its token is written, and its lists, windows and instances go (R304, R310, R336). -/
def State.closeLaunch (s : State) (l : Launch) (token : Word) : State :=
  let s := s.giveToken l.token token
  let s := s.blackBox (l.dies.headD 8) 0x07 (s.asidOfSlot l.ctx) l.tag
  let s := l.dies.foldl (fun s d => s.onDie d (fun y => { y with urn := y.urn.filter (· != l.id) })) s
  { s with
    launches := s.launches.filter (·.id != l.id)
    bars := s.bars.filter (·.launch != l.id)
    tasks := s.tasks.filter (·.launch != l.id) }

/-- A token that a moving page has kept back is written (R374). -/
def State.payToken (s : State) (l : Launch) : State :=
  match l.owed, l.token with
  | some (v, root, asid), .host _ addr =>
    if s.rootStalls root asid addr 1 then s.rootWake root asid addr 1
    else
      let s := (s.rootWrite8 root asid addr v).2
      { s with launches := s.launches.filter (·.id != l.id) }
  | _, _ => s

/-- A launch whose part on the device is done completes (R323, R335). -/
def State.completeLaunch (s : State) (id : Nat) : State :=
  match s.launch id with
  | none => s
  | some l =>
    if l.gangs.isEmpty then s.payToken l
    else if !l.gangs.all (·.done) then s
    else if s.tokenStalls l then s.tokenWake l
    else s.closeLaunch l (BitVec.ofNat 64 (2 ^ 62 + l.retired % 2 ^ 32))

/-- Threads are removed; if the current one is, another takes its place. -/
def State.removeThreads (s : State) (p : Thread → Bool) : State :=
  match s.threads.filter (fun t => !p t) with
  | [] => s
  | t :: rest => { s with th := t, others := rest }

/-- The error cell is written, at its home, into each chain cell that the launch has published (R336). -/
def State.errorCells (s : State) (l : Launch) : State :=
  l.cells.foldl (fun s (line, used) =>
    (List.range 16).foldl (fun s j =>
      if used.getLsbD j then s.storeHome none (line * 128 + 8 * j) (2 ^ 64 - 1) (2 ^ 64 - 1) 8 else s) s) s

/-- The context of a slot is terminated: error cells first, commands end with reason 6, its threads stop, each launch's
token is written (reason 7 for a deadlocked one), its host queues are disabled and its scope entries go (R324, R336,
R343, R419). -/
def State.terminate (s : State) (slot : Nat) (deadlocked : Option Nat) : State :=
  match s.ctxs.find? (·.slot == slot) with
  | none => s
  | some c =>
    if !c.image.getLsbD 16 then s
    else
      let asid := c.image.extractLsb' 0 16
      let mine := s.launches.filter (fun l => l.ctx == slot && l.owed.isNone)
      let s := mine.foldl State.errorCells s
      let cmds := s.queues.filter (fun q => q.ctx == slot)
      let s := cmds.foldl (fun s q => s.writeToken q.uid q.token (errorToken 6) (some q.wrote)) s
      let s := { s with queues := s.queues.filter (fun q => q.ctx != slot) }
      let gone := (s.threads.filter (fun t => t.ctx == slot && !isControl t.core)).map (·.uid)
      let s := s.forgetSems (gone ++ cmds.map (fun q => engineWaiter q.queue))
      let s := { s with
        ringWait := s.ringWait.filter (fun u => !gone.contains u)
        netIn := s.netIn.filter (fun a => !gone.contains a.uid)
        cores := s.cores.map (fun (r : CoreRec) => { r with diag := r.diag.filter (fun w => !gone.contains w.uid) }) }
      let s := s.removeThreads (fun t => gone.contains t.uid)
      let s := mine.foldl (fun s l => s.closeLaunch l (errorToken (if deadlocked = some l.id then 7 else 5))) s
      let image := c.image &&& ~~~(1#512 <<< 16)
      let s := { s with
        ctxs := updWhere (fun x => x.slot == slot) (fun x => { x with image := image, scopes := [], devices := [] }) s.ctxs
        hostQs := s.hostQs.filter (·.ctx != slot) }
      s.blackBox 8 0x06 asid (BitVec.ofNat 64 slot)

/-! ## Dependence cells (R329) -/

/-- The urn reads the launch's cells: it stays (a read that stalls leaves it as it is, R374), is released, or completes with reason 6. -/
def State.readCells (s : State) (id : Nat) : State :=
  match s.launch id with
  | none => s
  | some l =>
    if l.released then s
    else
      let cells := ([(576, 640), (704, 768)].map (fun (a, t) => (l.image.extractLsb' a 64, bits l.image t 63))).filter (·.1 ≠ 0)
      if cells.any (fun c => s.ctxStalls l.ctx c.1 0) || s.tokenStalls l then
        (cells.foldl (fun s c => s.ctxWake l.ctx c.1 0) s).tokenWake l
      else
      let (vals, s) := cells.foldl (fun (vs, s) (a, _) => let (v, s) := s.ctxRead8 l.ctx a; (vs ++ [v], s)) (([] : List (Option Word)), s)
      if vals.any (fun v => v = none || v = some 0xFFFFFFFFFFFFFFFF#64) then s.closeLaunch l (errorToken 6)
      else if (vals.zip cells).all (fun (v, _, t) => match v with
          | some v => v.getLsbD 63 || t ≤ v.toNat % 2 ^ 63
          | none => false)
        then s.onLaunch id (fun l => { l with released := true })
      else s

/-! ## Child tasks (R337 to R339) -/

/-- The slot holds a thread. -/
def State.occupied (s : State) (core slot : Nat) : Bool := s.threads.any (fun t => t.core == core && t.slot == slot && !t.parked)

/-- A slot that a gang gave back is still free, with its window and registers (R335, log 44). -/
def State.spotFree (s : State) (l : Launch) (p : Spot) : Bool :=
  (freeSlots s.uses p.core).contains p.slot && winFree s.uses (s.scratchCap p.core) p.core p.win l.window && shareFree s.uses p.core 1 l.nregs l.naccs

/-- The gang, with its launch and spot position, that can run a task at a core's slot: a slot it holds idle, or one it gave
back that nothing has taken since (R335, R337, log 44). -/
def State.taskSpot (s : State) (core slot : Nat) : Option (Launch × Gang × Spot × Nat) :=
  s.launches.findSome? (fun l => l.gangs.findSome? (fun g =>
    if g.cluster.isSome && s.gangHasTask l.id g.num then
      g.spots.zipIdx.findSome? (fun (p, i) =>
        if p.core = core && p.slot = slot && (p.held || s.spotFree l p) then some (l, g, p, i) else none)
    else none))

/-- A free slot of a gang takes the gang's oldest queued task (R337). -/
def State.startTask (s : State) (core slot : Nat) : State :=
  if s.occupied core slot then s
  else
    match s.taskSpot core slot with
    | none => s
    | some (l, g, p, i) =>
      match s.tasks.find? (fun t => t.launch == l.id && t.gang == g.num) with
      | none => s
      | some t =>
        let s := { s with tasks := s.tasks.erase t }
        let s := s.onGang l.id g.num (fun g => { g with spots := g.spots.zipIdx.map (fun (q, j) => if j = i then { q with held := true } else q) })
        s.startThread l g p (i / l.threadsPerCore) (i % l.threadsPerCore) t.entry t.arg (some t.parent)

/-- The cluster at which a task of a gang is queued: where the gang runs now (R333, R337). -/
def State.taskCluster (s : State) (t : Task) : Option Nat :=
  ((s.launch t.launch).bind (fun l => l.gangs.find? (·.num == t.gang))).bind (·.cluster)

/-- Tasks in the queue of a cluster. -/
def State.tasksAt (s : State) (cl : Nat) : Nat :=
  (s.tasks.filter (fun t => s.taskCluster t == some cl || (t.launch == 0 && t.cluster == cl))).length

/-- A thread waits in TJOIN or in TSPAWN, and could not go on (R337, R338). -/
def State.stuckInTask (s : State) (t : Thread) : Bool :=
  (t.wait == .join && t.join != 0) || (t.wait == .spawn && 4096 ≤ s.tasksAt (clusterOf t.core))

/-- Every slot of the gang holds a thread that waits in TJOIN or TSPAWN, and a task of it is queued (R339); a slot that it gave back counts
as idle while the gang could still use it. -/
def State.deadlocked (s : State) (l : Launch) (g : Gang) : Bool :=
  g.cluster.isSome && s.gangHasTask l.id g.num &&
  g.spots.all (fun p =>
    if p.held then s.threads.any (fun t => t.core == p.core && t.slot == p.slot && !t.parked && t.launch == l.id && s.stuckInTask t)
    else !s.spotFree l p)

/-- A thread has retired: its parent's counter falls (R338), it is counted (R323), and its slot serves a task of its gang or
is given back (R335). -/
def State.retire (s : State) (t : Thread) : State :=
  let s := s.removeThreads (fun x => x.uid == t.uid)
  let s := match t.parent with
    | some p => s.onThreads (fun x => x.uid == p) (fun x => { x with join := x.join - 1, retired := x.retired + 1 })
    | none => s
  let s := s.onLaunch t.launch (fun l => { l with retired := l.retired + 1, past := (t.core, t.gang) :: l.past })
  let s := if s.gangHasTask t.launch t.gang then s.startTask t.core t.slot
    else s.onGang t.launch t.gang (fun g => { g with spots := g.spots.map (fun p =>
      if p.core = t.core && p.slot = t.slot then { p with held := false } else p) })
  s.closeGang t.launch t.gang

end Sys2Proof.Machine
end

