-- ==== Sys2Proof/Machine/Records.lean ====
section
/-! DEFINITION. Records that words read from memory or from registers, and their checks: pattern descriptors and WINDOW
shape records (R137 to R140), accumulator configurations (R190), trees (R217), and scope images (R287, R293). -/

namespace Sys2Proof.Machine

open Sys2Proof

/-! ## Pattern descriptors (R137, R138) -/

def descBase (d : BitVec 512) : Word := d.extractLsb' 0 64
def descFmt (d : BitVec 512) : Nat := bits d 64 4
/-- 0 AFFINE, 1 WINDOW, 2 DECODED. -/
def descKind (d : BitVec 512) : Nat := bits d 68 2
def descWrite (d : BitVec 512) : Bool := d.getLsbD 70
def descClass (d : BitVec 512) : Nat := bits d 72 4
def descDims (d : BitVec 512) : Nat := bits d 76 2 + 1
def descCount (d : BitVec 512) (j : Nat) : Nat := bits d (128 + 64 * j) 32
def descStride (d : BitVec 512) (j : Nat) : Word := (d.extractLsb' (160 + 64 * j) 32).signExtend 64
def descShape (d : BitVec 512) : Word := d.extractLsb' 384 64
def descPad (d : BitVec 512) : Nat := bits d 448 64

/-- Fields of a WINDOW shape record (R140). -/
def shapeH (r : BitVec 256) : Nat := bits r 0 16
def shapeW (r : BitVec 256) : Nat := bits r 16 16
def shapeC (r : BitVec 256) : Nat := bits r 32 16
def shapeKh (r : BitVec 256) : Nat := bits r 48 8
def shapeKw (r : BitVec 256) : Nat := bits r 56 8

/-- A shape record keeps R140's limits. -/
def shapeOk (r : BitVec 256) : Bool :=
  shapeH r ≠ 0 && shapeW r ≠ 0 && shapeC r ≠ 0 &&
  (List.range 6).all (fun i => bits r (48 + 8 * i) 8 ≠ 0) &&
  bits r 112 16 ≠ 0 && bits r 128 16 ≠ 0 && bits r 144 16 = 0 && bits r 224 32 = 0

/-- The number of elements of a stream (R139, R140). -/
def streamTotal (d : BitVec 512) (shape : BitVec 256) : Nat :=
  if descKind d = 1 then bits shape 112 16 * bits shape 128 16 * shapeKh shape * shapeKw shape * shapeC shape
  else ((List.range (descDims d)).map (descCount d)).prod

/-- Elements of a whole packing unit of a sub-byte format: 2 for 4-bit integers, 4 for FP6, 8 for blocked FP4. -/
def packUnit (fmt : Nat) : Nat :=
  match fmt with
  | 5 | 6 => 2
  | 9 | 10 => 4
  | 11 => 8
  | _ => 1

/-- What R138 asks of a descriptor before the shape record of a WINDOW stream is read. -/
def descHead (d : BitVec 512) : Bool :=
  let fmt := descFmt d
  let n := descDims d
  !d.getLsbD 71 && bits d 78 2 = 0 && bits d 80 48 = 0 &&
  (span n 4).all (fun j => bits d (128 + 64 * j) 64 = 0) &&
  descKind d ≠ 3 && fmt < 14 &&
  (descKind d = 1 || bits d 384 128 = 0) &&
  (descKind d = 1 || (List.range n).all (fun j => descCount d j ≠ 0)) &&
  (descKind d = 1 || streamTotal d 0 < 2 ^ 48) &&
  (byteFmt fmt || descKind d = 1 || (descStride d 0 = 0 && descCount d 0 % packUnit fmt = 0)) &&
  (!descWrite d || (fmt ≠ 11 && descKind d = 0)) &&
  (descKind d ≠ 1 || (byteFmt fmt && n = 1 && bits d 128 256 = 0)) &&
  (descKind d ≠ 2 || (fmt = 11 && n = 1 && descStride d 0 = 0 && descCount d 0 % 64 = 0))

/-- SBIND accepts the descriptor, with the shape record of a WINDOW stream (R138, R140). -/
def descOk (d : BitVec 512) (shape : BitVec 256) : Bool :=
  descHead d && (descKind d ≠ 1 || (shapeOk shape && streamTotal d shape < 2 ^ 48))

/-! ## Accumulator configurations (R190) -/

def cfgL (c : Word) : Nat := (c.extractLsb' 0 12).toNat
def cfgQ (c : Word) : Nat := (c.extractLsb' 12 12).toNat
def cfgO (c : Word) : Int := (c.extractLsb' 24 16).toInt
def cfgMode (c : Word) : Nat := (c.extractLsb' 40 2).toNat
/-- Fill policy 1: the fill-in fault. -/
def cfgFaults (c : Word) : Bool := c.getLsbD 42
def cfgN (c : Word) : Nat := (c.extractLsb' 48 12).toNat
def cfgSpan (c : Word) : Nat := (c.extractLsb' 60 4).toNat

/-- A configuration keeps R190's limits. -/
def cfgOk (c : Word) : Bool :=
  1 ≤ cfgL c && cfgL c ≤ 2048 && 1 ≤ cfgQ c && cfgQ c * cfgL c ≤ 2048 * cfgSpan c && cfgMode c < 2 &&
  c.extractLsb' 43 5 = 0 && 1 ≤ cfgN c && [1, 2, 4, 8].contains (cfgSpan c) &&
  (cfgMode c = 0 || (cfgL c = cfgN c && 0 ≤ cfgO c && cfgO c + cfgQ c ≤ cfgN c))

/-! ## Trees (R217) -/

/-- A list of nodes keeps R217: parents are the root or earlier nodes, origins are below 64. -/
def nodesOk (nodes : List TreeNode) : Bool :=
  nodes.length ≤ 64 && nodes.zipIdx.all (fun (x, i) => x.origin < 64 && (match x.parent with
    | none => true
    | some p => p < i))

/-! ## Scope images (R287, R293) -/

/-- The scope-membership reason an image fails with, in the order of R293's table. -/
def State.scopeFault (s : State) (slot : Nat) (e : BitVec 4608) : Option Nat :=
  let level := bits e 8 3
  let clusters := (List.range 128).filter (fun c => s.ctxHasCluster slot c)
  let devices := match s.ctxs.find? (·.slot == slot) with
    | some c => c.devices
    | none => []
  let remotes := ((List.range 16).map (fun r => (bits e (4352 + 16 * r) 13, bits e (4365 + 16 * r) 2, e.getLsbD (4352 + 16 * r + 15))))
  let coresOk := (List.range 128).all (fun c =>
    clusters.contains c || ((e.extractLsb' (64 + 32 * c) 32) == 0 && !e.getLsbD (4160 + c)))
  let diesOk := (List.range 8).all (fun d =>
    clusters.any (fun c => c / 16 = d) || (!e.getLsbD (4288 + d) && !e.getLsbD (4296 + d)))
  if e.getLsbD 7 || bits e 11 5 ≠ 0 || bits e 32 32 ≠ 0 || level = 7 || (1 ≤ level && level ≤ 6 && (e.extractLsb' 64 4544) ≠ 0) ||
      remotes.any (fun r => r.2.1 ≠ 0) then some 1
  else if !coresOk then some 2
  else if !diesOk then some 3
  else if (List.range 48).any (fun q => e.getLsbD (4304 + q) && !s.ctxHasQueue slot q) then some 4
  else if remotes.any (fun r => r.2.2 && (4608 ≤ r.1 || !devices.contains r.1 || r.1 = s.ident)) then some 5
  else none

/-- The image with its generation field set from the serial (R287). -/
def withGeneration (e : BitVec 4608) (serial : Word) : BitVec 4608 :=
  (e &&& ~~~(0x7E#4608)) ||| (BitVec.ofNat 4608 (serial.toNat % 64 * 2))

end Sys2Proof.Machine
end

