-- ==== Sys2Proof/Machine/Image.lean ====
section
/-! DEFINITION. The thread-state image (R406, R412, R413), parking and resuming (R333, R407 to R411), and the trap ring
(R392). -/

namespace Sys2Proof.Machine

open Sys2Proof

/-! ## The image (R406) -/

/-- The user control registers of the image in its order. -/
def Csrs.list (c : Csrs) : List Word :=
  [c.vl.setWidth 64, c.vtype.setWidth 64, c.vstart.setWidth 64, c.frm.setWidth 64, c.fflags.setWidth 64, c.hwbase.setWidth 64,
   c.hwscope.setWidth 64, c.uth, c.uepc, c.ucause.setWidth 64, c.uinfo, c.ustat, c.phase.setWidth 64, c.dgov.setWidth 64,
   c.cvret, c.preempted.setWidth 64]

/-- The same registers from an image, masked to their fields as R82 does. -/
def Csrs.ofList (l : List Word) : Csrs :=
  let g (i : Nat) : Word := l.getD i 0
  let frm := (g 3).setWidth 3
  { vl := (g 0).setWidth 15, vtype := (g 1).setWidth 6, vstart := (g 2).setWidth 15
    frm := if 5 ≤ frm.toNat then 0 else frm
    fflags := (g 4).setWidth 6, hwbase := (g 5).setWidth 63, hwscope := (g 6).setWidth 4
    uth := g 7 &&& ~~~(15#64), uepc := g 8 &&& ~~~(15#64), ucause := (g 9).setWidth 8, uinfo := g 10
    ustat := g 11 &&& 0x7FFF0007#64, phase := (g 12).setWidth 32, dgov := (g 13).setWidth 32, cvret := g 14
    preempted := (g 15).setWidth 2 }

/-- The powered lane groups under which a thread runs, or was saved if it is parked (R112, R406). -/
def State.threadLanes (s : State) (t : Thread) : Nat :=
  if isControl t.core then lanesOf t.priv.maxlane
  else if t.parked then
    let spot := ((s.launch t.launch).bind (fun l => l.gangs.find? (·.num == t.gang))).bind (fun g =>
      g.spots.find? (fun p => p.core == t.core && p.slot == t.slot))
    lanesOf ((spot.map (·.lanes)).getD 3#2)
  else lanesOf (s.coreRec t.core).maxlane

/-- Image bytes: 18,432 + 4,096 R + 8,192 A + W. -/
def Thread.imageBytes (t : Thread) : Nat := 18432 + 4096 * t.nregs + 8192 * t.naccs + t.winSize

/-- Fields of the first 2,048 bytes: byte offset and value. -/
def State.imageHeader (s : State) (t : Thread) : List (Nat × Nat) :=
  let trap := match t.trap with
    | some r => [(40, 1), (41, r.cause.toNat)]
    | none => []
  let form (k : MaskReg) : Nat := match k with
    | .bitmap _ => 0
    | .count n w => 1 + w.toNat * 2 + n.toNat * 2 ^ 16
  [(0, 0x4A534156), (4, (s.asidOf t).toNat), (8, t.threadNo.toNat), (12, t.nregs), (13, t.naccs),
   (15, s.threadLanes t), (16, t.winSize), (24, t.pc.toNat),
   (32, (t.tokens.map (fun x => 2 ^ x.1)).sum), (48, t.imageBytes), (56, t.join.toNat), (60, t.retired.toNat)] ++ trap ++
  (List.range 32).map (fun i => (64 + 8 * i, (t.reg i).toNat)) ++
  t.csr.list.zipIdx.map (fun (v, i) => (320 + 8 * i, v.toNat)) ++
  (List.range 16).map (fun i => (448 + 8 * i, (t.pin i).toNat)) ++
  (List.range 8).map (fun i => (576 + 8 * i, form (t.mask i))) ++
  [(640, t.tree.nodes.length), (648, t.tree.base.toNat)] ++
  t.tree.nodes.zipIdx.map (fun (x, i) => (656 + i, x.parent.getD 255)) ++
  t.tree.nodes.zipIdx.map (fun (x, i) => (720 + i, x.origin)) ++
  (t.binds.zipIdx.map (fun (b, i) =>
    let o := 896 + 128 * i
    [(o, b.desc.toNat), (o + 64, b.pos), (o + 72, b.reg), (o + 73, 1 + if b.attached then 2 else 0), (o + 80, b.limit),
     (o + 88, b.shape.toNat)])).flatten ++
  (List.range 8).map (fun i => (1920 + 8 * i, (vget t.accCfg i 0).toNat))

/-- A number's doublewords, lowest first. -/
def dwords : Nat → Nat → List Word
  | 0, _ => []
  | n + 1, v => BitVec.ofNat 64 v :: dwords n (v / 2 ^ 64)

/-- An offset of a thread's window lies in a discardable range of its launch (R322). -/
def State.discardable (s : State) (t : Thread) (off : Nat) : Bool :=
  ((s.launch t.launch).map (·.discards)).getD [] |>.any (fun r => r.1 ≤ off && off < r.1 + r.2)

/-- Where the window begins in a thread's image (R406). -/
def Thread.windowAt (t : Thread) : Nat := 18432 + 4096 * t.nregs + 8192 * t.naccs

/-- The doubleword at an offset of a thread's window: of a parked one what its image holds, which for a discardable range is what stands in
the park region (R407, R413). -/
def State.windowWord (s : State) (t : Thread) (off : Nat) : Nat :=
  if !t.parked then cellsReadNat s.scratch (t.core * 131072 + t.winBase + off) 8
  else match t.parkAt, s.discardable t off with
    | some a, true => s.homeRead (a + t.windowAt + off) 8
    | _, _ => cellsReadNat t.saved off 8

/-- A thread's image as doublewords, lowest address first (R406). -/
def State.imageOf (s : State) (t : Thread) : List Word :=
  let head := ((s.imageHeader t).map (fun f => f.2 * 2 ^ (8 * f.1))).sum
  let lanes := s.threadLanes t
  dwords 256 head ++
  ((List.range 8).map (fun i => match t.mask i with
    | .bitmap b => dwords 256 b.toNat
    | .count _ _ => dwords 256 0)).flatten ++
  ((List.range t.nregs).map (fun i => dwords 512 ((vget t.vregs i 0).toNat % 2 ^ (4096 * lanes)))).flatten ++
  ((List.range t.naccs).map (fun i => dwords 1024 (vget t.accs i 0).toNat)).flatten ++
  (List.range (t.winSize / 8)).map (fun i => BitVec.ofNat 64 (s.windowWord t (8 * i)))

/-- The bytes of a number that are not blank, with their offsets from `a` up. -/
def numCells : Nat → Nat → Nat → List Host.Cell
  | 0, _, _ => []
  | n + 1, a, v =>
    if v = 0 then []
    else
      let b : Byte := BitVec.ofNat 8 v
      if b = blankByte then numCells n (a + 1) (v / 256) else (a, b) :: numCells n (a + 1) (v / 256)

/-- The bytes of a parked thread's image that are not blank, by offset (R406, R407). -/
def State.imageCells (s : State) (t : Thread) : List Host.Cell :=
  let lanes := s.threadLanes t
  let vbase := 18432
  let abase := vbase + 4096 * t.nregs
  numCells 2048 0 ((s.imageHeader t).map (fun f => f.2 * 2 ^ (8 * f.1))).sum ++
  ((List.range 8).map (fun i => match t.mask i with
    | .bitmap b => numCells 2048 (2048 + 2048 * i) b.toNat
    | .count _ _ => [])).flatten ++
  ((List.range t.nregs).map (fun i => numCells 4096 (vbase + 4096 * i) ((vget t.vregs i 0).toNat % 2 ^ (4096 * lanes)))).flatten ++
  ((List.range t.naccs).map (fun i => numCells 8192 (abase + 8192 * i) (vget t.accs i 0).toNat)).flatten ++
  t.saved.map (fun c => (abase + 8192 * t.naccs + c.1, c.2))

/-- A parked thread's image is written where it lies in a park region, the bytes that `skip` names left as they stand there. -/
def State.writeImage (s : State) (t : Thread) (skip : Nat → Bool) : State :=
  match t.parkAt with
  | some a =>
    let rest := s.mem.filter (fun c => !(a ≤ c.1 && c.1 < a + t.imageBytes && !skip (c.1 - a)))
    { s with mem := ((s.imageCells t).filter (fun c => !skip c.1)).foldl (fun m c => cellsWrite m (a + c.1) c.2) rest }
  | none => s

/-- A byte of a thread's image that lies in a discardable range, which parking does not write (R407 step 4). -/
def State.skipped (s : State) (t : Thread) (off : Nat) : Bool := t.windowAt ≤ off && s.discardable t (off - t.windowAt)

/-- The image as parking writes it, and again when a token arrives later (R407). -/
def State.parkImage (s : State) (t : Thread) : State := s.writeImage t (s.skipped t)

/-- The number held by some doublewords, lowest first. -/
def natOfDwords (l : List Word) : Nat := l.foldr (fun w acc => w.toNat + 2 ^ 64 * acc) 0

/-- An image read back: its doublewords in groups. -/
structure ImageView where
  head  : Nat
  masks : List Nat
  vregs : List Nat
  accs  : List Nat
  win   : List Word
  deriving DecidableEq, Repr

/-- Consecutive groups of `n` doublewords as numbers. -/
def groupsOf (n : Nat) (l : List Word) : Nat → List Nat
  | 0 => []
  | k + 1 => natOfDwords (l.take n) :: groupsOf n (l.drop n) k

/-- The groups of an image of a thread. -/
def Thread.viewImage (t : Thread) (l : List Word) : ImageView :=
  { head := natOfDwords (l.take 256)
    masks := groupsOf 256 (l.drop 256) 8
    vregs := groupsOf 512 (l.drop 2304) t.nregs
    accs := groupsOf 1024 (l.drop (2304 + 512 * t.nregs)) t.naccs
    win := (l.drop (2304 + 512 * t.nregs + 1024 * t.naccs)).take (t.winSize / 8) }

/-- Bytes [o, o + n) of the header. -/
def ImageView.at_ (v : ImageView) (o n : Nat) : Nat := v.head / 2 ^ (8 * o) % 2 ^ (8 * n)

/-- The tree of an image. -/
def ImageView.nodes (v : ImageView) : List TreeNode :=
  (List.range (v.at_ 640 8)).map (fun i =>
    { parent := if v.at_ (656 + i) 1 = 255 then none else some (v.at_ (656 + i) 1), origin := v.at_ (720 + i) 1 })

/-- The bindings of an image. -/
def ImageView.bindings (v : ImageView) : List Binding :=
  (List.range 8).filterMap (fun i =>
    let o := 896 + 128 * i
    if v.at_ (o + 73) 1 % 2 = 0 then none
    else some { reg := v.at_ (o + 72) 1, desc := BitVec.ofNat 512 (v.at_ o 64), pos := v.at_ (o + 64) 8,
                shape := BitVec.ofNat 256 (v.at_ (o + 88) 32), attached := v.at_ (o + 73) 1 / 2 % 2 = 1, limit := v.at_ (o + 80) 8,
                place := none, ahead := [], fresh := true })

/-- Bytes that R406 fixes at zero, as offset and count, outside bindings. -/
def imageZeros : List (Nat × Nat) :=
  [(6, 2), (14, 1), (20, 4), (36, 4), (42, 6), (64, 8), (1984, 64)]

/-- The eight configurations of an image keep R190: each in its limits, every member of a span holding its head's, and no span beyond the
allocated accumulators (R189, R406). -/
def configsOk (naccs : Nat) (cs : List Word) : Bool :=
  (List.range 8).all (fun i =>
    let c := cs.getD i 0
    let n := cfgSpan c
    let head := i / n * n
    cfgOk c && (n = 1 || head + n ≤ naccs) && (span head (head + n)).all (fun j => cs.getD j 0 == c))

/-- The reason CTXLOAD refuses an image with, if any (R412). -/
def State.imageFault (s : State) (t : Thread) (v : ImageView) : Option Nat :=
  let lanes := s.threadLanes t
  let vtype : BitVec 6 := BitVec.ofNat 6 (v.at_ 328 8)
  let n := v.at_ 640 8
  if v.at_ 0 4 ≠ 0x4A534156 || v.at_ 4 2 ≠ (s.asidOf t).toNat || v.at_ 8 4 ≠ t.threadNo.toNat || v.at_ 12 1 ≠ t.nregs ||
      v.at_ 13 1 ≠ t.naccs || v.at_ 15 1 ≠ lanes || v.at_ 16 4 ≠ t.winSize then some 2
  else if vtype.extractLsb' 0 2 = 3 || vlmaxOf vtype lanes < v.at_ 320 8 % 2 ^ 15 ||
      64 < n || 2 ^ 40 ≤ v.at_ 648 8 || !nodesOk v.nodes ||
      (span n 64).any (fun i => v.at_ (656 + i) 1 ≠ 0 || v.at_ (720 + i) 1 ≠ 0) || v.at_ 784 112 ≠ 0 ||
      v.bindings.any (fun b => !descOk b.desc b.shape) ||
      !configsOk t.naccs ((List.range 8).map (fun i => BitVec.ofNat 64 (v.at_ (1920 + 8 * i) 8))) ||
      imageZeros.any (fun z => v.at_ z.1 z.2 ≠ 0) || v.at_ 40 1 / 2 ≠ 0 ||
      (List.range 8).any (fun i => v.at_ (896 + 128 * i + 74) 6 ≠ 0 || v.at_ (896 + 128 * i + 120) 8 ≠ 0) ||
      (List.range 8).any (fun i => v.at_ (576 + 8 * i) 8 % 2 = 1 && v.masks.getD i 0 ≠ 0) ||
      v.vregs.any (fun r => 2 ^ (4096 * lanes) ≤ r) then some 3
  else none

/-- The thread with an image's contents (R413): bytes 40-41 and registers whose tokens are outstanding stay, and k0 is what it always is
(R123). It restarts at the image's program counter, not inside a convoy that it was held in. -/
def Thread.loadImage (t : Thread) (v : ImageView) : Thread :=
  let regs := Vector.ofFn (fun (i : Fin 32) =>
    if i.val = 0 || t.tokens.any (·.1 == i.val) then vget t.regs i.val 0 else BitVec.ofNat 64 (v.at_ (64 + 8 * i.val) 8))
  let masks := Vector.ofFn (fun (i : Fin 8) =>
    let f := v.at_ (576 + 8 * i.val) 8
    if i.val = 0 then vget t.masks 0 (.bitmap 0)
    else if f % 2 = 1 then MaskReg.count (BitVec.ofNat 15 (f / 2 ^ 16)) (BitVec.ofNat 2 (f / 2)) else .bitmap (BitVec.ofNat 16384 (v.masks.getD i.val 0)))
  let csr := Csrs.ofList ((List.range 16).map (fun i => BitVec.ofNat 64 (v.at_ (320 + 8 * i) 8)))
  { t with
    pc := BitVec.ofNat 64 (v.at_ 24 8) &&& ~~~(15#64)
    held := none
    join := BitVec.ofNat 32 (v.at_ 56 4)
    retired := BitVec.ofNat 32 (v.at_ 60 4)
    regs := regs
    csr := csr
    pins := Vector.ofFn (fun (i : Fin 16) => BitVec.ofNat 64 (v.at_ (448 + 8 * i.val) 8))
    masks := masks
    tree := ⟨BitVec.ofNat 40 (v.at_ 648 8), v.nodes⟩
    binds := v.bindings.map (fun b => match t.binds.find? (fun x => x.reg == b.reg && x.pos == b.pos && x.desc == b.desc) with
      | some x => { b with fresh := x.fresh, place := x.place }
      | none => b)
    accCfg := Vector.ofFn (fun (i : Fin 8) => BitVec.ofNat 64 (v.at_ (1920 + 8 * i.val) 8))
    vregs := Vector.ofFn (fun (i : Fin 32) => if i.val < t.nregs then BitVec.ofNat 32768 (v.vregs.getD i.val 0) else vget t.vregs i.val 0)
    accs := Vector.ofFn (fun (i : Fin 8) => if i.val < t.naccs then BitVec.ofNat 65536 (v.accs.getD i.val 0) else vget t.accs i.val 0) }

/-- The damage is of a word that a thread's image holds: its registers, or its window where it stands in a scratchpad. -/
def Thread.holdsDamage (t : Thread) (x : Damage) : Bool :=
  match x with
  | .reg u c n _ => u == t.uid && (if c = 0 then decide (n < t.nregs) else if c = 1 then decide (n < t.naccs) else true)
  | .scratch core w => !t.parked && core == t.core && decide (t.winBase ≤ 8 * w) && decide (8 * w + 8 ≤ t.winBase + t.winSize)
  | _ => false

/-- The image written into a thread and its window (R413): its accepted diagonal words are at an end, so that watermarks are full, every
word that it covers is sound again (R417), and a parked thread's image lies in its park region. -/
def State.putImage (s : State) (uid : Nat) (v : ImageView) : State :=
  match s.threads.find? (·.uid == uid) with
  | none => s
  | some t =>
    let win := v.win.zipIdx.foldl (fun m (w, i) => cellsMerge m (8 * i) w.toNat (2 ^ 64 - 1) 8) ([] : List Host.Cell)
    let s := { s with
      damage := s.damage.filter (fun x => !t.holdsDamage x)
      cores := s.cores.map (fun (r : CoreRec) => { r with diag := r.diag.filter (·.uid != uid) }) }
    if t.parked then
      (s.onThreads (fun x => x.uid == uid) (fun x => { x.loadImage v with saved := win })).writeImage { t.loadImage v with saved := win } (fun _ => false)
    else
      let s := s.zeroScratch t.core t.winBase t.winSize
      let base := t.core * 131072 + t.winBase
      let s := { s with scratch := win.foldl (fun m (c : Host.Cell) => cellsWrite m (base + c.1) c.2) s.scratch }
      s.onThreads (fun x => x.uid == uid) (fun x => x.loadImage v)

/-! ## The trap ring (R392) -/

/-- The ring's record count, if it is configured: size field 4 to 15. -/
def State.ringSlots (s : State) : Option Nat :=
  let k := (s.ringSize.extractLsb' 0 4).toNat
  if 4 ≤ k then some (2 ^ k) else none

/-- The ring has room for a record. -/
def State.ringRoom (s : State) : Bool :=
  match s.ringSlots with
  | some n => (s.ringTail - s.ringHead).toNat < n
  | none => false

/-- The I/O die writes the oldest waiting trap record, its bytes before the tail (R392). -/
def State.writeTrapRecord (s : State) : State :=
  match s.ringWait with
  | [] => s
  | uid :: rest =>
    match s.threads.find? (·.uid == uid), s.ringSlots with
    | some t, some n =>
      if !s.ringRoom then s
      else match t.trap with
        | none => { s with ringWait := rest }
        | some r =>
          let i := s.ringTail.toNat
          let low : Nat := r.sepc.toNat + r.cause.toNat * 2 ^ 64 + (s.asidOf t).toNat * 2 ^ 80 + t.threadNo.toNat * 2 ^ 96 +
            r.sinfo.toNat * 2 ^ 128 + r.sstatus.toNat * 2 ^ 192
          let s := s.storeHome none (s.ringBase.toNat + 64 * (i % n)) low (2 ^ 512 - 1) 64
          let s := s.onThreads (fun x => x.uid == uid) (fun x => { x with trap := some { r with ring := some i } })
          { s with ringWait := rest, ringTail := s.ringTail + 1 }
    | none, _ => { s with ringWait := rest }
    | _, none => s

/-- The stopped thread of an ASID and number whose record stands earliest in the ring's order; records not yet written
follow in the order in which they wait (R392, R412). -/
def State.stoppedThread (s : State) (asid : BitVec 16) (num : BitVec 32) : Option Thread :=
  let mine := s.threads.filter (fun t => t.run == .stopped && t.trap.isSome && s.asidOf t == asid && t.threadNo == num && !isControl t.core)
  let place (t : Thread) : Nat := match t.trap with
    | some ⟨_, _, _, _, some i⟩ => i
    | _ => 2 ^ 64 + (s.ringWait.findIdx? (· == t.uid)).getD (2 ^ 64)
  mine.foldl (fun best t => match best with
    | none => some t
    | some b => if place t < place b then some t else some b) none

/-- A thread goes on where a system trap stopped it: its convoy holds what a fault of a missing page promised it (R398). -/
def State.goOn (s : State) (uid : Nat) : State :=
  let needs := fun (t : Thread) => s.fillNeeds t
  s.onThreads (fun x => x.uid == uid) (fun x => { x with run := .ready, trap := none, needs := needs x })

/-- A write to thread resume (R392): the thread is ready at sepc with the saved vstart, as its image holds them (R413). -/
def State.resumeThread (s : State) (v : Word) : State :=
  if !v.getLsbD 48 || v.extractLsb' 49 15 ≠ 0 then s
  else match s.stoppedThread (v.extractLsb' 0 16) (v.extractLsb' 16 32) with
    | none => s
    | some t => { s.goOn t.uid with ringWait := s.ringWait.filter (· != t.uid) }

/-! ## Parking (R333, R407) -/

/-- The images that lie in a die's park region: address and bytes (R408). -/
def State.parkedImages (s : State) (d : Nat) : List (Nat × Nat) :=
  let lo := (s.die d).parkBase.toNat
  s.threads.filterMap (fun t => t.parkAt.bind (fun a =>
    if lo ≤ a && a < lo + (s.die d).parkSize.toNat then some (a, t.imageBytes) else none))

/-- The lowest place of a region for `n` bytes beside those in use (log 28). -/
def freePlace (lo size n : Nat) (used : List (Nat × Nat)) : Option Nat :=
  (lo :: used.map (fun u => u.1 + u.2)).filter (fun a =>
    lo ≤ a && a + n ≤ lo + size && used.all (fun u => a + n ≤ u.1 || u.1 + u.2 ≤ a)) |>.min?

/-- Places in a die's region for the images of threads, each by its number, if there is room for all (R407, R408). -/
def State.parkPlan (s : State) (d : Nat) : List Thread → List (Nat × Nat) → Option (List (Nat × Nat))
  | [], _ => some []
  | t :: rest, used =>
    match freePlace (s.die d).parkBase.toNat (s.die d).parkSize.toNat t.imageBytes used with
    | none => none
    | some a => (s.parkPlan d rest ((a, t.imageBytes) :: used)).map ((t.uid, a) :: ·)

/-- The gangs that parking gang `g` parks: the whole of a co-resident launch (R333). -/
def Launch.parkSet (l : Launch) (g : Gang) : List Gang :=
  (if l.coResident then l.gangs else [g]).filter (fun x => x.cluster.isSome)

/-- The gang may give way to a head of priority `p`: lower priority, on the die, not part of a multi-device co-resident
launch (R333). -/
def Launch.parkable (d p : Nat) (l : Launch) (g : Gang) : Bool :=
  l.prio < p && g.cluster.isSome && g.die == d && !(l.coResident && 1 < l.devices)

/-- The gang that the urn parks next: lowest priority first, then the most recently placed (R333). -/
def State.victim (s : State) (d p : Nat) : Option (Launch × Gang) :=
  let cands := (s.launches.map (fun l => (l.gangs.filter (l.parkable d p)).map (l, ·))).flatten
  cands.foldl (fun best x => match best with
    | none => some x
    | some b => if x.1.prio < b.1.prio || (x.1.prio = b.1.prio && b.2.order < x.2.order) then some x else some b) none

/-- The head of a die's queue can place its next gang, or all of a co-resident launch, as things stand. -/
def State.headFits (s : State) (d : Nat) (h : QEntry) : Bool :=
  match s.launch h.launch with
  | none => true
  | some l =>
    if h.kind = 1 then
      (if l.coResident then
        (assign (fun (g : Gang) => ((l.dies.map (rotated · 0)).flatten.filterMap (fun c => (s.resumeSpots l g c).map (c, ·))))
          (l.gangs.filter (·.parked.isSome)) []).isSome
       else match l.gangs.find? (·.num == h.gang) with
        | some g => (rotated d 0).any (fun c => (s.resumeSpots l g c).isSome)
        | none => true)
    else if l.coResident then (s.planAll l 0).isSome
    else (rotated d 0).any (fun c => (s.clusterSpots l c).isSome)

/-- A thread's window outside its launch's discardable ranges, by offset (R407 step 4). -/
def State.windowCells (s : State) (l : Launch) (t : Thread) : List Host.Cell :=
  let base := t.core * 131072 + t.winBase
  let inside := s.scratch.filterMap (fun c => if base ≤ c.1 && c.1 < base + t.winSize then some (c.1 - base, c.2) else none)
  inside.filter (fun c => !(l.discards.any (fun r => r.1 ≤ c.1 && c.1 < r.1 + r.2)))

/-- A 64-bit word of a register of a class (0 vector, 1 accumulator, 2 scalar, 3 mask). -/
def Thread.putWord (t : Thread) (cls num w : Nat) (v : Word) : Thread :=
  match cls with
  | 0 => { t with vregs := vput t.vregs num ((vget t.vregs num 0 &&& ~~~((0xFFFFFFFFFFFFFFFF#32768) <<< (64 * w))) ||| (v.setWidth 32768 <<< (64 * w))) }
  | 1 => { t with accs := vput t.accs num ((vget t.accs num 0 &&& ~~~((0xFFFFFFFFFFFFFFFF#65536) <<< (64 * w))) ||| (v.setWidth 65536 <<< (64 * w))) }
  | 2 => t.setReg num v
  | _ => match vget t.masks num (.bitmap 0) with
    | .bitmap b => { t with masks := vput t.masks num (.bitmap ((b &&& ~~~((0xFFFFFFFFFFFFFFFF#16384) <<< (64 * w))) ||| (v.setWidth 16384 <<< (64 * w)))) }
    | .count _ k => { t with masks := vput t.masks num (.count (v.setWidth 15) k) }

/-- One uncorrectable word is saved as a free value: no value comes from the damaged unit, and no mark travels with it (R415, log 60). -/
def State.saveDamaged (s : State) (uid : Nat) (x : Damage) : State :=
  let v : Word := BitVec.ofNat 64 (Config.number s.free)
  let s := { s with free := s.free + 1, damage := s.damage.filter (fun y => match x with
    | .reg _ _ _ _ => y != x
    | _ => true) }
  s.onThreads (fun t => t.uid == uid) (fun t => match x with
    | .reg _ c n w => t.putWord c n w v
    | .scratch _ w => { t with saved := cellsMerge t.saved (8 * w - t.winBase) v.toNat (2 ^ 64 - 1) 8 }
    | _ => t)

/-- The damage is of a scratchpad word in a discardable range, which is not saved (R407 step 4). -/
def State.unsaved (s : State) (t : Thread) (x : Damage) : Bool :=
  match x with
  | .scratch _ w => s.discardable t (8 * w - t.winBase)
  | _ => false

/-- A thread whose image holds uncorrectable words takes the data error as it is saved: it stops with a trap record, and the event is
logged (R415, R420, log 60). -/
def State.saveThread (s : State) (t : Thread) : State :=
  match s.damage.filter (fun x => t.holdsDamage x && !s.unsaved t x) with
  | [] => s
  | x :: more =>
    let info := match x with
      | .scratch _ w => dataInfo (BitVec.ofNat 64 (2 ^ 63 + 8 * w)) 0 5
      | _ => s.registerInfo
    let s := if t.run == .stopped then s
      else { s.onThreads (fun y => y.uid == t.uid) (·.stopTrap t.pc ⟨0x07, t.csr.vstart.toNat, 0, info⟩) with
        ringWait := s.ringWait ++ [t.uid], free := s.free + 2 }
    let s := s.blackBox (dieOf t.core) 0x01 (s.asidOf t) info
    (x :: more).foldl (fun s y => s.saveDamaged t.uid y) s

/-- The state one gang's threads leave as they are parked (R407 steps 1 to 5, R411, R314, R334); `plan` gives each image its place in the
region of the die that parks it. -/
def State.parkGang (s : State) (l : Launch) (g : Gang) (home : Nat) (plan : List (Nat × Nat)) : State :=
  let mine := fun (t : Thread) => t.launch == l.id && t.gang == g.num && !isControl t.core
  let uids := (s.threads.filter mine).map (·.uid)
  let s := s.withdrawSems uids
  let s := match g.cluster with
    | some cl => s.cleanCluster cl
    | none => s
  let s := s.onThreads mine (fun t => { t with
    wait := .none
    govHeld := false
    saved := s.windowCells l t
    binds := t.binds.map (fun b => { b with ahead := [], place := none }) })
  let s := (s.threads.filter mine).foldl State.saveThread s
  let s := s.onThreads mine (fun t => { t with parked := true, parkAt := (plan.find? (·.1 == t.uid)).map (·.2) })
  let s := s.onGang l.id g.num (fun g => { g with
    parked := some home
    cluster := none
    spots := g.spots.map (fun p => { p with lanes := (s.coreRec p.core).maxlane }) })
  (s.threads.filter mine).foldl State.parkImage s

/-- Tokens that have arrived at parked threads since `s0` are written into their images (R407). -/
def State.syncImages (s s0 : State) : State :=
  (s.threads.filter (fun t => t.parked && s0.threads.any (fun x => x.uid == t.uid && x.tokens != t.tokens))).foldl State.parkImage s

/-- The copy commands of a gang's threads are done, as far as they can be (R344). -/
def State.gangCommandsDone (s : State) (l : Launch) (g : Gang) : Bool :=
  let uids := (s.gangThreads l.id g.num).map (·.uid)
  !(s.queues.any (fun q => uids.contains q.uid && q.queue < 32))

/-- A parked gang takes its new spots (R409 to R411): caches first, then each thread's image, with every discardable range zero; preempted is
set. -/
def State.resumeGang (s : State) (l : Launch) (g : Gang) (cl : Nat) (spots : List Spot) : State :=
  let s := s.onGang l.id g.num (fun g => { g with parked := none, cluster := some cl, die := cl / 16, order := s.nextUid, spots := spots })
  let s := { s.openGang cl spots with nextUid := s.nextUid + 1 }
  let mine := s.gangThreads l.id g.num
  mine.foldl (fun s t =>
    match (g.spots.zip spots).find? (fun x => x.1.core == t.core && x.1.slot == t.slot) with
    | none => s
    | some (_, p) =>
      let s := s.zeroScratch p.core p.win l.window
      let base := p.core * 131072 + p.win
      let kept := t.saved.filter (fun (c : Host.Cell) => !s.discardable t c.1)
      let s := { s with scratch := kept.foldl (fun m (c : Host.Cell) => cellsWrite m (base + c.1) c.2) s.scratch }
      s.onThreads (fun x => x.uid == t.uid) (fun x => { x with
        core := p.core
        parked := false
        saved := []
        parkAt := none
        held := x.held.map (fun h => { h with cmds := h.cmds.map (fun c => { c with core := p.core }) })
        csr := { x.csr with preempted := if l.discards.isEmpty then 1#2 else 3#2 } })) s

/-- The urn of a die resumes the parked gang at its head on a cluster; the parked gangs of a co-resident launch together
(R326, R333). -/
def State.resumeHead (s : State) (d cl : Nat) : State :=
  match s.urnHead d with
  | none => s
  | some h =>
    match s.launch h.launch with
    | none => s
    | some l =>
      if h.kind ≠ 1 then s
      else if l.coResident && !(l.dies.all (fun x => (s.urnHead x).map (·.launch) == some l.id)) then s
      else if l.coResident then
        match assign (fun (g : Gang) => (l.dies.map (rotated · cl)).flatten.filterMap (fun c => (s.resumeSpots l g c).map (c, ·)))
            (l.gangs.filter (·.parked.isSome)) [] with
        | none => s
        | some plan => plan.foldl (fun s (g, c, ps) => s.resumeGang l g c ps) s
      else match l.gangs.find? (·.num == h.gang), (l.gangs.find? (·.num == h.gang)).bind (fun g => s.resumeSpots l g (16 * d + cl)) with
        | some g, some ps => s.resumeGang l g (16 * d + cl) ps
        | _, _ => s

end Sys2Proof.Machine
end

