-- ==== Sys2Proof/Machine/Boundary.lean ====
section
/-! DEFINITION. The device boundary: management semaphore and masters (R379 to R383), boot, measurement and attestation
(R384 to R389), device reset (R419), fabric links (R383, R414) and wear (R422). -/

namespace Sys2Proof.Machine

open Sys2Proof

/-! ## Identity (R382, R383) -/

/-- Addresses of two devices exchanged: those of identity `a` become those of `b` and the reverse. -/
def swapIdent (a b x : Nat) : Nat :=
  if x / 2 ^ 43 = a then b * 2 ^ 43 + x % 2 ^ 43 else if x / 2 ^ 43 = b then a * 2 ^ 43 + x % 2 ^ 43 else x

/-- Lines of two devices exchanged. -/
def swapLine (a b n : Nat) : Nat := swapIdent a b (n * 128) / 128

/-- Agents of two devices exchanged (R249). -/
def swapAgent (a b g : Nat) : Nat := if g / 8 = a then b * 8 + g % 8 else if g / 8 = b then a * 8 + g % 8 else g

/-- The identity register changes: this device's memory, and what names it by address, moves to the new identity's
addresses (R15, R383). -/
def State.setIdent (s : State) (v : Word) : State :=
  let a := s.ident
  let b := v.toNat % 8192
  if a = b then { s with identity := v }
  else
    let f := swapIdent a b
    { s with
      identity := v
      mem := s.mem.foldl (fun m (c : Host.Cell) => cellsWrite m (f c.1) c.2) []
      metas := s.metas.map (fun x => (swapLine a b x.1, match Meta.ofBits x.2 with
        | some m => { m with ptr := swapAgent a b m.ptr }.bits
        | none => x.2))
      copies := s.copies.map (fun x => (f (x.1 * 32) / 32, swapAgent a b x.2))
      sectors := s.sectors.map (fun (x : Sector) => { x with addr := f (x.addr * 32) / 32 })
      ro := s.ro.map (fun (x : RoSector) => { x with addr := f (x.addr * 32) / 32 })
      icache := s.icache.map (fun (x : ICopy) => { x with addr := f (x.addr * 32) / 32 })
      walks := s.walks.map (fun (x : WalkEntry) => { x with addr := f x.addr })
      packed := s.packed.map (fun (x : Packed) => { x with addr := f x.addr })
      dies := s.dies.map (fun (x : Die) => { x with
        lost := x.lost.map f
        caddy := x.caddy.map (fun (y : CaddyBlock) => { y with tag := swapLine a b (y.tag * 128) / 128 }) })
      launches := s.launches.map (fun (l : Launch) => { l with
        cells := l.cells.map (fun x => (swapLine a b x.1, x.2))
        partials := l.partials.map (fun (x : Partial) => { x with home := f (x.home * 4) / 4 })
        tags := l.tags.map (fun (x : RankTag) => { x with word := f (x.word * 4) / 4 }) })
      damage := s.damage.map (fun x => match x with
        | .line n => .line (swapLine a b n)
        | .soft n => .soft (swapLine a b n)
        | .l2 d n => .l2 d (swapLine a b n)
        | .caddy d n => .caddy d (f (n * 32) / 32)
        | .sector c n => .sector c (f (n * 32) / 32)
        | .ro c n => .ro c (f (n * 32) / 32)
        | y => y) }

/-! ## The management semaphore (R380, R381) -/

/-- A held form for a port: held, that port, link not lost, zero bits zero, a session (R380). -/
def heldForm (port : Bool) (v : Word) : Bool :=
  v.extractLsb' 0 32 == (1#32 ||| (if port then 2#32 else 0#32)) && v.extractLsb' 32 32 != 0

/-- The port holds the semaphore. -/
def State.holds (s : State) (port : Bool) : Bool := s.mgmt.getLsbD 0 && s.mgmt.getLsbD 1 == port

/-- A swap from the current value to a new one is allowed to a port (R381). -/
def swapAllowed (cur new : Word) (port : Bool) : Bool :=
  if cur = 0 then heldForm port new
  else if cur.getLsbD 0 && !cur.getLsbD 2 then cur.getLsbD 1 == port && (new == 0 || heldForm port new)
  else cur.getLsbD 0 && cur.getLsbD 2 && (new == 0 || heldForm port new)

/-- One compare-and-swap (R381): the reply is the value before it. -/
def State.mgmtCas (s : State) (port : Bool) (expected new : Word) : State :=
  let old := s.mgmt
  let s := { s with replies := s.replies ++ [.old port old] }
  if old = expected && swapAllowed old new port then { s with mgmt := new }.blackBox 8 0x0A 0 new else s

/-- The link of a port goes down: a semaphore held through it is marked (R381). -/
def State.linkLost (s : State) (port : Bool) : State := if s.holds port then { s with mgmt := s.mgmt ||| 4#64 } else s

/-! ## Boot (R384 to R389) -/

/-- A little-endian number of an image's bytes. -/
def leField (bs : List Byte) (o n : Nat) : Nat := bytesNat ((bs.drop o).take n)

/-- The bytes of a number, highest first. -/
def beNat (bs : List Byte) : Nat := bs.foldl (fun acc b => acc * 256 + b.toNat) 0

/-- The signed message: header bytes 0 to 15, then the body (R385). -/
def signedMessage (im : List Byte) : List Byte := im.take 16 ++ im.drop 1664

/-- The header is well-formed for a stage (R384). -/
def headerOk (stage : Nat) (im : List Byte) : Bool :=
  leField im 0 4 = 0x514A424E && leField im 4 1 = stage && leField im 5 1 ≤ 63 && leField im 6 2 = 0 &&
  1 ≤ leField im 8 8 && leField im 8 8 ≤ 2 ^ 30 && im.length = 1664 + leField im 8 8 && leField im 1612 52 = 0

/-- An image runs as a stage (R385); `counter` is the stage's fused rollback counter. -/
def imageRuns (stage counter : Nat) (im : List Byte) : Bool :=
  headerOk stage im &&
  Config.ecdsaVerifies (BitVec.ofNat 768 (beNat ((im.drop 16).take 96))) (signedMessage im) &&
  Config.lmsVerifies ((im.drop 112).take 1500) (signedMessage im) &&
  beNat ((im.drop 112).take 4) < 1024 && counter ≤ leField im 5 1

/-- The image in flash for a stage: the one staged last. -/
def State.stageOf (s : State) (stage : Nat) : Option (List Byte) := s.flash.reverse.find? (fun im => leField im 4 1 = stage)

/-- The bytes of a 384-bit value, highest first. -/
def digestBytes (d : BitVec 384) : List Byte := (List.range 48).map (fun i => BitVec.ofNat 8 (d.toNat / 256 ^ (47 - i)))

/-- Extend a measurement register (R386). -/
def State.extend (s : State) (r : Nat) (digest : BitVec 384) : State :=
  { s with measures := vput s.measures r (Config.sha384 (digestBytes (vget s.measures r 0) ++ digestBytes digest)) }

/-- The control-core firmware runs on every control core: where it begins and under which tables is what the ROM makes of it, which the spec
does not state (R17, R384; free values, log 4). -/
def State.startControl (s : State) : State :=
  s.onThreads (fun t => isControl t.core) (fun t => { t with
    run := .ready
    pc := Config.firmwareEntry &&& ~~~(15#64)
    priv := { t.priv with ptroot := Config.firmwareRoot &&& ~~~(0xFFFF#64) } })

/-- The body of a stage that runs on the control cores is loaded into this device's HBM, at a place that the spec leaves open (R384, log
4). -/
def State.placeBody (s : State) (stage : Nat) (im : List Byte) : State :=
  let at_ := s.deviceBase + Config.stagePlace stage % 2 ^ 39
  { s with mem := (im.drop 1664).zipIdx.foldl (fun m x => cellsWrite m (at_ + x.2) x.1) s.mem }

/-- A stage fails: the device stays in ROM recovery, where no control core executes convoys of memory (R385). -/
def State.recovery (s : State) (stage : Nat) : State :=
  { s.onThreads (fun t => isControl t.core) (fun t => { t with run := .halted }) with failing := stage }

/-- Load the stages that remain, in order; the first failure leaves the device in ROM recovery (R385). -/
def State.loadStages (s : State) : List Nat → State
  | [] => s
  | stage :: rest =>
    match s.stageOf stage with
    | none => s.recovery stage
    | some im =>
      if imageRuns stage (vget s.rollback (stage - 1) 0) im then
        let s := if stage = 1 then s.extend 0 (Config.sha384 Config.rom) else s
        let s := s.extend stage (Config.sha384 (signedMessage im))
        let s := { s with stage := stage, versions := vput s.versions (stage - 1) (leField im 5 1) }
        let s := if stage = 3 then s else s.placeBody stage im
        (if stage = 1 then s.copyRings.startControl else s).loadStages rest
      else s.recovery stage

/-- Boot: the ROM and then each stage in order (R384 to R386, R421). -/
def State.boot (s : State) : State :=
  { s with measures := Vector.replicate 4 0, versions := Vector.replicate 3 0, stage := 0, failing := 0 }.loadStages [1, 2, 3]

/-- The ROM's work at a cold boot (R389): one more boot fuse, and a fresh bottom tree unless every fuse was blown. -/
def State.blowBootFuse (s : State) : State :=
  if s.bootFuses < 1024 then { s with bootFuses := s.bootFuses + 1, leaves := 0 } else { s with leaves := 1024 }

/-- A die after a reset: its black box and its wear figure survive (R419, R420, log 7). -/
def Die.afterReset (d : Die) : Die := { Die.reset with bbSeq := d.bbSeq, bb := d.bb, wear := d.wear }

/-- Everything a reset discards is as after the first reset; memory data, fuses, flash and the retention SRAM survive
(R419). The masters' replies, the model's schedule and its counters are not the device's to lose. -/
def State.discardAll (s : State) : State :=
  let s := s.setIdent 0
  { State.reset with
    mem := s.mem
    packed := s.packed
    dies := s.dies.map Die.afterReset
    rollback := s.rollback
    bootFuses := s.bootFuses
    leaves := s.leaves
    flash := s.flash
    bbFlash := s.bbFlash
    replies := s.replies
    damage := s.damage.filter (fun d => match d with
      | .line _ => true
      | .soft _ => true
      | _ => false)
    nextUid := s.nextUid + 16
    nextLaunch := s.nextLaunch
    agenda := s.agenda
    free := s.free }

/-- A device reset (R419): contexts are terminated, state is discarded, boot restarts. -/
def State.deviceReset (s : State) : State :=
  let s := s.blackBox 8 0x05 0 0
  let s := (List.range 64).foldl (fun s i => s.terminate i none) s
  s.discardAll.boot

/-- A cold boot: power-on. What no rule keeps without power is lost: memory reads as after power-on (log 6). -/
def State.coldStart (s : State) : State :=
  let d := s.discardAll
  ({ d with mem := [], packed := [], damage := [] }.blowBootFuse).boot

/-! ## Attestation (R388, R389) -/

/-- A report's body (R388); the order and widths of its fields are the model's (log 32). -/
def State.reportBody (s : State) (nonce : BitVec 256) (flags : Nat) : List Byte :=
  let le (n v : Nat) : List Byte := (List.range n).map (fun i => BitVec.ofNat 8 (v / 256 ^ i))
  le 32 nonce.toNat ++ le 8 s.identity.toNat ++ le 8 Config.serial.toNat ++ (s.measures.toList.map digestBytes).flatten ++
  s.versions.toList.map (BitVec.ofNat 8 ·) ++ s.rollback.toList.map (BitVec.ofNat 8 ·) ++ le 1 s.failing ++ le 1 flags

/-- A report is made and signed; each uses one leaf of the bottom tree while any is left (R389). -/
def State.attest (s : State) (port : Bool) (nonce : BitVec 256) : State :=
  if s.leaves < 1024 && s.bootFuses ≠ 0 then
    let body := s.reportBody nonce 0
    { s with leaves := s.leaves + 1 }.reply
      (.report port body (Config.ecdsaSign body) (some (Config.lmsSign (s.bootFuses - 1) s.leaves body)))
  else
    let body := s.reportBody nonce 1
    s.reply (.report port body (Config.ecdsaSign body) none)

/-! ## Fabric links and wear -/

/-- A fabric port that was up is down: its replay count stands at 8 until it has trained again (R414, R420). -/
def State.portDown (s : State) (port : Nat) : State :=
  { s with
    fabric := s.fabric &&& ~~~(1#18 <<< port)
    replays := if s.fabric.getLsbD port then vput s.replays port 8 else s.replays }

/-- A fabric port trains with its peer, whose identity register's low half is given (R382, R383): a link that was up before is retrained,
which is logged, and so is one that is refused (R420). The I/O die's ring records it (DESIGN CHOICE, log 59). -/
def State.trainLink (s : State) (port : Nat) (peer : BitVec 16) : State :=
  if !s.identity.getLsbD 15 then s
  else if !peer.getLsbD 15 || peer.toNat % 8192 = s.ident then
    (s.portDown port).blackBox 8 0x08 0 (BitVec.ofNat 64 port)
  else
    let again := s.fabric.getLsbD port || vget s.replays port 0 == 8
    let s := { s with fabric := s.fabric ||| (1#18 <<< port), replays := vput s.replays port 0 }
    if again then s.blackBox 8 0x08 0 (BitVec.ofNat 64 port) else s

/-- A fabric port goes down (R417, R420). The I/O die's ring and cycle count record it (DESIGN CHOICE, log 59). -/
def State.dropLink (s : State) (port : Nat) : State := (s.portDown port).blackBox 8 0x08 0 (BitVec.ofNat 64 port)

/-- A flit is replayed: a good one ends the count; after 8 replays the link goes to training (R414). No flit passes a port that is down. -/
def State.replayFlit (s : State) (port : Nat) (good : Bool) : State :=
  if !s.fabric.getLsbD port then s
  else if good then { s with replays := vput s.replays port 0 }
  else if vget s.replays port 0 + 1 < 8 then { s with replays := vput s.replays port (vget s.replays port 0 + 1) }
  else s.dropLink port

/-- The module's wear figure: the least of the dies' (R422). -/
def State.moduleWear (s : State) : Nat := ((List.range 9).map (fun d => (s.die d).wear.toNat)).foldl min 65535

/-- A threshold of R422 lies between an old and a new figure. -/
def crosses (old new : Nat) : Bool := (24 ≤ old && new < 24) || (6 ≤ old && new < 6)

/-- A die's figure changes, downward or by a firmware update (R422). -/
def State.setWear (s : State) (d : Nat) (v : BitVec 16) (firmware : Bool) : State :=
  let old := (s.die d).wear
  if v < old || firmware then
    let m := s.moduleWear
    let s := s.onDie d (fun x => { x with wear := v })
    let s := if crosses old.toNat v.toNat then s.blackBox d 0x0C 0 (v.setWidth 64) else s
    if crosses m s.moduleWear then s.blackBox 8 0x0C 0 (BitVec.ofNat 64 s.moduleWear) else s
  else s

/-! ## Lost lines (R416) -/

/-- System software clears a line's entry (R416). -/
def State.clearLost (s : State) (v : Word) : State :=
  let a := v.toNat
  let d := homeDie (a % 2 ^ 43)
  if (s.die d).lost.contains a then
    { s.onDie d (fun x => { x with lost := x.lost.filter (· != a) }) with damage := s.damage.filter (· != .line (a / 128)) }
  else s

end Sys2Proof.Machine
end

