-- ==== Sys2Proof/Machine/Device.lean ====
section
/-! DEFINITION. Device registers (R242): contexts (R364, R365), the doorbell (R324), the trap ring (R392), park regions
(R408), core settings (R113), wear figures (R422), and what a read and a write of each does. -/

namespace Sys2Proof.Machine

open Sys2Proof

/-! ## Contexts -/

/-- Put a context's record in place. -/
def State.putCtx (s : State) (c : Ctx) : State := { s with ctxs := c :: s.ctxs.filter (·.slot != c.slot) }

/-- Another valid slot meets a condition. -/
def State.otherCtx (s : State) (slot : Nat) (p : BitVec 512 → Bool) : Bool :=
  s.ctxs.any (fun c => c.slot != slot && c.image.getLsbD 16 && p c.image)

/-- Every field of a record within its limits (R364). -/
def recordLimits (r : BitVec 512) : Bool :=
  bits r 0 16 ≠ 0 && bits r 17 7 = 0 && bits r 32 16 + bits r 48 16 ≤ 65536 && bits r 64 16 = 0 && bits r 120 8 = 0 &&
  bits r 304 16 ≤ 4608 && bits r 320 1 = 0 && bits r 384 6 = 0 && bits r 448 64 = 0

/-- Two records name a common engine queue or semaphore. -/
def recordsMeet (a b : BitVec 512) : Bool :=
  (a.extractLsb' 256 48 &&& b.extractLsb' 256 48) != 0 ||
  (bits a 48 16 ≠ 0 && bits b 48 16 ≠ 0 && bits a 32 16 < bits b 32 16 + bits b 48 16 && bits b 32 16 < bits a 32 16 + bits a 48 16)

/-- The device list a record names (R364). -/
def State.deviceList (s : State) (r : BitVec 512) : List Nat :=
  (List.range (bits r 304 16)).map (fun i => s.homeRead (bits r 320 64 + 2 * i) 2)

/-- The I/O die reads the device list at its homes (R245); true if a line of it is uncorrectable (R253). DESIGN CHOICE (log 77): a list
that cannot be read fails as one that names no device does, with status 4. -/
def State.readDevices (s : State) (r : BitVec 512) : Bool × State :=
  (List.range (bits r 304 16)).foldl (fun (acc : Bool × State) i =>
    let a := bits r 320 64 + 2 * i
    if acc.2.lineBad a then (true, acc.2.foundBad a) else (acc.1, acc.2.sharedRead none a)) (false, s)

/-- The scope-table image of a context, if every doubleword can be read (R289). -/
def State.readScopes (s : State) (slot : Nat) : Option (List (BitVec 4608)) × State :=
  let base := (s.ctxRec slot).extractLsb' 384 64
  let (ws, s) := (List.range 1152).foldl (fun (acc : List (Option Word) × State) i =>
    let (v, s) := acc.2.ctxRead8 slot (base + BitVec.ofNat 64 (8 * i))
    (v :: acc.1, s)) ([], s)
  let ws := ws.reverse
  if ws.any Option.isNone then (none, s)
  else
    let vals := ws.map (·.getD 0)
    (some ((List.range 16).map (fun i => BitVec.ofNat 4608 (natOfDwords ((vals.drop (72 * i)).take 72)))), s)

/-- The status of a context as it is created, in the order of R365, and its scope entries. -/
def State.createStatus (s : State) (slot : Nat) : Nat × List (BitVec 4608) × State :=
  let r := s.ctxRec slot
  if !recordLimits r then (1, [], s)
  else if s.otherCtx slot (fun x => x.extractLsb' 0 16 == r.extractLsb' 0 16) then (2, [], s)
  else if s.otherCtx slot (recordsMeet r) then (3, [], s)
  else
    let (bad, s) := s.readDevices r
    if bad || (s.deviceList r).any (fun d => 4608 ≤ d || d = s.ident) then (4, [], s)
    else
      let s1 := s.putCtx ⟨slot, r, [], s.deviceList r⟩
      match s1.readScopes slot with
      | (none, s2) => (5, [], s2)
      | (some es, s2) => if es.any (fun e => (s2.scopeFault slot e).isSome) then (5, [], s2) else (0, es, s2)

/-- The slot as its record stands while it is being created. -/
def State.creating (s : State) (slot : Nat) : State := s.putCtx ⟨slot, s.ctxRec slot ||| (1#512 <<< 16), [], []⟩

/-- The read of a scope-table image stalls on a page that moves (R289, R374). -/
def State.creationStalls (s : State) (slot : Nat) : Bool :=
  let s := s.creating slot
  let base := (s.ctxRec slot).extractLsb' 384 64
  (s.createStatus slot).1 = 5 && (s.ctxStalls slot base 0 || s.ctxStalls slot (base + 9208) 0)

/-- The stalled read wakes the engines of compressed pages (R374). -/
def State.creationWake (s : State) (slot : Nat) : State :=
  let c := s.creating slot
  let base := (c.ctxRec slot).extractLsb' 384 64
  { s with woken := ((c.ctxWake slot base 0).ctxWake slot (base + 9208) 0).woken }

/-- Valid is written to 1: the record is checked and the context created or refused with a status (R365). -/
def State.createContext (s : State) (slot : Nat) : State :=
  if (s.ctxRec slot).getLsbD 16 then s
  else
    let r := s.ctxRec slot ||| (1#512 <<< 16)
    let s := s.putCtx ⟨slot, r, [], []⟩
    let (status, es, s) := s.createStatus slot
    let r := (r &&& ~~~(0xFF#512 <<< 24)) ||| (BitVec.ofNat 512 status <<< 24)
    if status = 0 then
      (s.putCtx ⟨slot, r, es.map (fun e => ⟨withGeneration e 0, 0, false⟩), s.deviceList r⟩).blackBox 8 0x06 (r.extractLsb' 0 16) (BitVec.ofNat 64 slot)
    else s.putCtx ⟨slot, r &&& ~~~(1#512 <<< 16), [], []⟩

/-- An aligned 8-byte write to a context record (R364). -/
def State.writeContext (s : State) (slot word : Nat) (v : Word) : State :=
  let r := s.ctxRec slot
  if r.getLsbD 16 then (if word = 0 && !v.getLsbD 16 then s.terminate slot none else s)
  else
    let keepStatus : Word := if word = 0 then (v &&& ~~~(0xFF010000#64)) ||| (r.extractLsb' 0 64 &&& 0xFF000000#64) else v
    let mask : BitVec 512 := BitVec.ofNat 512 (2 ^ 64 - 1) <<< (64 * word)
    let r' := (r &&& ~~~mask) ||| ((keepStatus.setWidth 512) <<< (64 * word))
    let s0 := s
    let s := s.putCtx ⟨slot, r', [], []⟩
    if word = 0 && v.getLsbD 16 then (if s.creationStalls slot then (s0.woke (s.creationWake slot)).waitFor (.creation slot) .nothing else s.createContext slot) else s

/-! ## Host launch queues (R324) -/

def State.onHostQ (s : State) (n : Nat) (f : HostQueue → HostQueue) : State := { s with hostQs := updWhere (fun q => q.num == n) f s.hostQs }

/-- The 128 bytes of a queue's entry, or nothing if any cannot be read. -/
def State.readRecord (s : State) (slot : Nat) (addr : Word) : Option (BitVec 1024) × State :=
  let (ws, s) := (List.range 16).foldl (fun (acc : List (Option Word) × State) i =>
    let (v, s) := acc.2.ctxRead8 slot (addr + BitVec.ofNat 64 (8 * i))
    (v :: acc.1, s)) ([], s)
  if ws.any Option.isNone then (none, s) else (some (BitVec.ofNat 1024 (natOfDwords (ws.reverse.map (·.getD 0)))), s)

/-- Entries from D up to A are read and dispatched in order; an entry waits while an urn it names is full or its page
moves (R325, R374). -/
def State.dispatch (s : State) (n : Nat) : Nat → State
  | 0 => s
  | fuel + 1 =>
    match s.hostQs.find? (·.num == n) with
    | none => s
    | some q =>
      if q.taken = q.accepted then s
      else
        let addr := q.base + BitVec.ofNat 64 (128 * (q.taken.toNat % 2 ^ q.k))
        let next (s : State) (bad : Nat) := s.onHostQ n (fun q => { q with taken := q.taken + 1, errors := q.errors + bad })
        if s.ctxStalls q.ctx addr 0 then s.ctxWake q.ctx addr 0
        else match s.readRecord q.ctx addr with
        | (none, s) => ((next s 1).hostToken q.ctx (addr + 120) (errorToken 8)).dispatch n fuel
        | (some r, s1) =>
          if s1.urnWaits q.ctx r then s.woke (s1.urnWake q.ctx r)
          else ((next s1 0).urnAccept q.ctx r (.host q.ctx (addr + 120))).dispatch n fuel

/-- A doorbell write (R324). -/
def State.ringDoorbell (s : State) (v : Word) : State :=
  let n := v.toNat % 256
  match s.hostQs.find? (·.num == n) with
  | none => s
  | some q =>
    let t := v.extractLsb' 32 32
    let err := s.onHostQ n (fun q => { q with errors := q.errors + 1 })
    if v.extractLsb' 8 24 ≠ 0 then err
    else if (t - q.taken).toNat ≤ 2 ^ q.k && (t - q.accepted).toNat < 2 ^ 31 then
      (s.onHostQ n (fun q => { q with accepted := t })).dispatch n (2 ^ q.k + 1)
    else err

/-- Queues whose entries waited for an urn go on (R324). -/
def State.dispatchAll (s : State) : State := s.hostQs.foldl (fun s q => s.dispatch q.num (2 ^ q.k + 1)) s

/-- System software enables a queue: both counts are 0 (R324, log 24). -/
def State.enableQueue (s : State) (n slot : Nat) (base : Word) (k : Nat) : State :=
  if n < 256 && (s.ctxRec slot).getLsbD 16 && base.toNat % 128 = 0 && 1 ≤ k && k ≤ 16 then
    { s with hostQs := ⟨n, slot, base, k, 0, 0, 0⟩ :: s.hostQs.filter (·.num != n) }
  else s

/-! ## Core settings (R113) -/

/-- A core has a resident thread. -/
def State.resident (s : State) (core : Nat) : Bool := s.threads.any (fun t => t.core == core && !t.parked)

/-- Where a byte of the scratchpad stands when the powered lane groups change from `old` to `new`: at the same place of its slice,
if the slice keeps its power (R135). -/
def slicedTo (old new off : Nat) : Option Nat :=
  let slice := off / 64 % old
  if slice < new && off < 16384 * old then some (off / (64 * old) * (64 * new) + 64 * slice + off % 64) else none

/-- The scratchpad and the TLB slices of a core whose powered lane groups change: slices that lose power lose their contents, new ones
read zero (R113, R135, log 34). -/
def State.loseSlices (s : State) (core old new : Nat) : State :=
  let mine := s.scratch.filterMap (fun (c : Host.Cell) => if c.1 / 131072 = core then
    (slicedTo old new (c.1 % 131072)).map (fun x => (⟨core * 131072 + x, c.2⟩ : Host.Cell)) else none)
  { s with
    scratch := mine.foldl (fun m c => cellsWrite m c.1 c.2) (s.scratch.filter (fun (c : Host.Cell) => c.1 / 131072 != core))
    slices := s.slices.filter (fun x => x.core != core || x.group < new) }

/-- A write to a compute core's maxlane: ignored while the core has a resident thread (R113). -/
def State.setMaxlane (s : State) (core : Nat) (v : Word) : State :=
  if s.resident core then s
  else
    let code := v.extractLsb' 0 2
    (s.putCore { s.coreRec core with maxlane := code }).loseSlices core (lanesOf (s.coreRec core).maxlane) (lanesOf code)

/-- The governor budget a written value stores (R113, R210). -/
def budgetOf (v : Word) : BitVec 11 := if 1024 < v.toNat then 1024#11 else v.setWidth 11

/-- The current governor window of a core's die. -/
def State.windowOf (s : State) (core : Nat) : Nat := (s.die (dieOf core)).window.toNat / 1024

/-- The budget that a core's next window will use. -/
def State.nextBudget (s : State) (core : Nat) : BitVec 11 :=
  match (if isControl core then s.threads.find? (·.core == core) else none) with
  | some t => t.priv.dbudget
  | none => (s.coreRec core).dbudget

/-- A core's charge record for the current window: a new window starts with no charge and takes up a written budget. -/
def State.govern (s : State) (core : Nat) : CoreRec :=
  let r := s.coreRec core
  if r.last = s.windowOf core then r
  else { r with last := s.windowOf core, charge := 0, issued := false, budget := s.nextBudget core }

/-- A write to a compute core's dbudget; it counts from the next window (R113). -/
def State.setBudget (s : State) (core : Nat) (v : Word) : State := s.putCore { s.govern core with dbudget := budgetOf v }

/-! ## Reads and writes -/

/-- The first offset of the device registers in the local space (R16). -/
def deviceStart : Nat := 7 * 2 ^ 40

/-- A doubleword of the device registers at an offset from their start. -/
def State.deviceRead8 (s : State) (o : Nat) : Word :=
  if o = 0 then s.mgmt
  else if o = 8 then s.identity
  else if 0x2000 ≤ o && o < 0x3000 then (s.ctxRec ((o - 0x2000) / 64)).extractLsb' (8 * (o % 64)) 64
  else if o = 0x3000 then s.ringBase
  else if o = 0x3008 then s.ringSize
  else if o = 0x3010 then s.ringTail
  else if o = 0x3018 then s.ringHead
  else if 0x4000 ≤ o && o < 0x4080 then
    (if o / 8 % 2 = 0 then (s.die ((o - 0x4000) / 16)).parkBase else (s.die ((o - 0x4000) / 16)).parkSize)
  else if 0x6000 ≤ o && o < 0x6018 then
    let w (d : Nat) : BitVec 16 := if d = 9 then BitVec.ofNat 16 s.moduleWear else if d < 9 then (s.die d).wear else 0
    let d := (o - 0x6000) / 2
    w (d + 3) ++ w (d + 2) ++ w (d + 1) ++ w d
  else if 0x10000 ≤ o && o < 0x20000 then
    let c := s.coreRec ((o - 0x10000) / 16)
    if o / 8 % 2 = 0 then c.maxlane.setWidth 64 else c.dbudget.setWidth 64
  else 0

/-- An aligned read of 4 or 8 bytes of a device register; a 4-byte one returns the addressed half (R242). -/
def State.deviceRead (s : State) (off n : Nat) : Word :=
  let o := off - deviceStart
  let v := s.deviceRead8 (o / 8 * 8)
  if n = 8 then v else (if o % 8 = 4 then v >>> 32 else v) &&& 0xFFFFFFFF#64

/-- Registers that take 8-byte writes only (R242). -/
def only8 (off : Nat) : Bool :=
  let o := off - deviceStart
  o / 8 = 0x20 || (0x2000 ≤ o && o < 0x3000) || (0x3000 ≤ o && o < 0x3028) || (0x4000 ≤ o && o < 0x4080) || o / 8 = 0xA00 ||
  (0x10000 ≤ o && o < 0x20000)

/-- The thread is in privileged mode; only a control core can be (R60, R394). -/
def State.privileged (s : State) : Bool := isControl s.th.core && s.th.priv.privileged

/-- An aligned write of a device register by the current thread (R242). The reset that a privileged write of 1 to the reset register
asks for follows the convoy that holds the write; a write in user mode asks for nothing (R419). -/
def State.deviceWrite (s : State) (off n : Nat) (v : Word) : State :=
  let o := off - deviceStart
  if only8 off && n ≠ 8 then s
  else if o = 0x10 then (if v = 1 && s.privileged then s.onCv (fun c => { c with reset := true }) else s)
  else if o = 0x100 then s.ringDoorbell v
  else if 0x2000 ≤ o && o < 0x3000 then s.writeContext ((o - 0x2000) / 64) (o / 8 % 8) v
  else if o = 0x3000 then { s with ringBase := v }
  else if o = 0x3008 then { s with ringSize := v &&& 0xF#64 }
  else if o = 0x3018 then { s with ringHead := v }
  else if o = 0x3020 then s.resumeThread v
  else if 0x4000 ≤ o && o < 0x4080 then
    s.onDie ((o - 0x4000) / 16) (fun d => if o / 8 % 2 = 0 then { d with parkBase := v } else { d with parkSize := v })
  else if o = 0x5000 then s.clearLost v
  else if 0x10000 ≤ o && o < 0x20000 then
    (if o / 8 % 2 = 0 then s.setMaxlane ((o - 0x10000) / 16) v else s.setBudget ((o - 0x10000) / 16) v)
  else s

/-- An access of a device register is legal: aligned, of 4 or 8 bytes, and not a 4-byte write to a register that takes
8-byte writes only (R242). -/
def deviceLegal (off n : Nat) (write : Bool) : Bool :=
  (n = 4 || n = 8) && off % n = 0 && !(write && n = 4 && only8 off)

end Sys2Proof.Machine
end

