-- ==== Sys2Proof/Machine/Access.lean ====
section
/-! DEFINITION. The current thread's accesses: loads and stores of scalar words, elements and bytes (R15, R72 to R74, R133,
R241, R246), rank tags of deterministic mode (R178 to R183), and instruction fetch (R378). -/

namespace Sys2Proof.Machine

open Sys2Proof

/-! ## Loads -/

/-- A sector enters the current core's read-only-path cache of 16 KiB, 512 sectors; the one longest there gives way (R243). -/
def State.putRo (s : State) (a : Nat) (whole : BitVec 256) : State :=
  let core := s.th.core
  let mine := (s.ro.filter (fun y => y.core == core && y.addr != a / 32)).take 511
  { s with ro := ⟨core, a / 32, whole⟩ :: mine ++ s.ro.filter (fun y => y.core != core) }

/-- The read-only path (R246): the core's copy, if it differs from what a generic load returns, may still be used. -/
def State.roRead (s : State) (cl a n : Nat) : Nat × State :=
  let (fresh, s) := s.clusterRead cl a n
  let whole := (s.filledSector cl a).data
  match s.ro.find? (fun x => x.core == s.th.core && x.addr == a / 32) with
  | some x =>
    let old := x.data.toNat / 2 ^ (8 * (a % 32)) % 2 ^ (8 * n)
    if old = fresh then (fresh, s)
    else
      let (pick, s) := s.freeChoice
      if pick then (old, s) else (fresh, s.putRo a whole)
  | none => (fresh, s.putRo a whole)

/-- A class-15 load is not ordered after an earlier store of its thread to the location (R258): by free choice the core's read-only
path has the sector as it stands before the store (log 11). -/
def State.roEarly (s : State) (cl a : Nat) : State :=
  if s.ro.any (fun x => x.core == s.th.core && x.addr == a / 32) then s
  else
    let (pick, s) := s.freeChoice
    if pick then
      let s := s.fillSector cl a
      s.putRo a (s.filledSector cl a).data
    else s

/-- What comes before a store at a place of memory: the class-15 load that a later one of the thread may have been (R258). -/
def State.roBefore (s : State) (t : Target) : State :=
  match t with
  | .cluster cl a | .through cl a => s.roEarly cl a
  | _ => s

/-- The core's read-only path holds a damaged sector of an address (R415). -/
def State.roBad (s : State) (a : Nat) : Bool :=
  s.damage.contains (.ro s.th.core (a / 32)) && s.ro.any (fun x => x.core == s.th.core && x.addr == a / 32)

/-- A load at a network window performs once, at the port: it waits for the port's answer to this thread (R241, log 31). The answer
that an element has used is used up with it. -/
def State.windowRead (s : State) (port : Bool) (off n elem : Nat) : Option Nat × State :=
  match s.netIn.find? (fun x => x.uid == s.th.uid && x.port == port && x.off == off && x.size == n) with
  | some x => (some (x.data.toNat % 2 ^ (8 * n)), { s with netIn := s.netIn.erase x }.keep elem (.taken x))
  | none => (none, s.waitFor (.network port off n) (.request ⟨s.th.uid, port, off, n, false, 0⟩ elem))

/-- Load `n` bytes, n a power of two and the address aligned to it, for element `elem`. Nothing where the access faults or
waits. A device register takes scalar accesses only (R242). -/
def State.load (s : State) (va : Word) (n cls elem : Nat) (scalar : Bool) : Option Nat × State :=
  match s.resolve va n 0 elem with
  | (.fault c i, s) => (none, s.raise c elem i)
  | (.stall, s) => (none, s.waitFor (.page va 0) .nothing)
  | (.at_ t _, s) =>
    match t with
    | .device off =>
      if scalar && deviceLegal off n false then (some (s.deviceRead off n).toNat, s)
      else (none, s.raise 0x06 elem (addrInfo va 0))
    | .window port off => s.windowRead port off n elem
    | t =>
      match s.damageAt t with
      | some src => (none, s.raise 0x07 elem (dataInfo va 0 src))
      | none =>
        match t with
        | .cluster cl a =>
          if cls = 15 && s.roBad a then (none, s.raise 0x07 elem (dataInfo va 0 4))
          else let (v, s) := if cls = 15 then s.roRead cl a n else s.clusterRead cl a n; (some v, s)
        | t => let (v, s) := s.readAt t n; (some v, s)

/-! ## Rank tags (R178 to R183) -/

/-- The home device, die and slice of a word (R247), in one number. -/
def sliceOf (word : Nat) : Nat := word * 4 / 2 ^ 43 * 128 + homeDie (word * 4 % 2 ^ 43) * 16 + homeSlice (word * 4 % 2 ^ 43)

/-- Lines of the launch that hold tags in a slice, and its partial lines there (R183, R304). -/
def Launch.tagLines (l : Launch) (slice : Nat) : Nat :=
  (((l.tags.filter (fun t => sliceOf t.word == slice)).map (fun t => t.word / 32)).eraseDups).length +
  (((l.partials.filter (fun p => sliceOf p.home == slice)).map (fun p => (p.home / 32, p.rank))).eraseDups).length

/-- What the home decides of a store to one word: stored with a tag, dropped, or a violation for a reason (R178, R179). -/
inductive TagResult where
  | store (t : RankTag)
  | drop
  | violation (reason : Nat)
  deriving DecidableEq, Repr

/-- The check of one word at its home: `sub` says that only part of it is stored. -/
def Launch.checkTag (l : Launch) (word rank : Nat) (sub : Bool) : TagResult :=
  match l.tags.find? (·.word == word) with
  | none =>
    if l.tags.any (fun t => t.word / 32 = word / 32) || l.tagLines (sliceOf word) < 16384 then .store ⟨word, rank, sub⟩
    else .violation 1
  | some t =>
    if sub then (if t.rank = rank then .store ⟨word, rank, true⟩ else .violation 0)
    else if t.rank = rank then .store ⟨word, rank, t.sub⟩
    else if t.sub then .violation 0
    else if t.rank < rank then .store ⟨word, rank, false⟩
    else .drop

/-- The words a store of `n` bytes reaches, each with its place in the store. -/
def storeWords (a n : Nat) : List (Nat × Nat) := if n = 8 then [(a / 4, 0), (a / 4 + 1, 4)] else [(a / 4, 0)]

/-- The store is plain for the words it reaches: all 4 bytes of each (R178). -/
def plainStore (mask : BitVec 64) (n : Nat) : Bool := (n = 8 && mask == BitVec.allOnes 64) || (n = 4 && mask.extractLsb' 0 32 == BitVec.allOnes 32)

/-- The reason a deterministic store is refused with, if any. -/
def State.tagFault (s : State) (launch rank a n : Nat) (mask : BitVec 64) : Option Nat :=
  match s.launch launch with
  | none => none
  | some l => (storeWords a n).findSome? (fun w => match l.checkTag w.1 rank (!plainStore mask n) with
      | .violation r => some r
      | _ => none)

/-- A store performed at its place, with its rank if the launch is deterministic (R178): each word is stored or dropped and
tagged on its own. -/
def State.performStore (s : State) (t : Target) (val mask : BitVec 64) (n : Nat) (rank : Option (Nat × Nat)) : State :=
  match rank, t with
  | some (launch, r), .through cl a =>
    (storeWords a n).foldl (fun s w =>
      match s.launch launch with
      | none => s
      | some l =>
        match l.checkTag w.1 r (!plainStore mask n) with
        | .store tag =>
          let s := s.onLaunch launch (fun l => { l with tags := tag :: l.tags.filter (·.word != w.1) })
          s.writeAt (.through cl (a + w.2)) (val.toNat / 2 ^ (8 * w.2)) (mask.toNat / 2 ^ (8 * w.2)) (min n 4)
        | .drop => s.refresh cl (a + w.2) (min n 4)
        | .violation _ => s) s
  | _, .window port off => s.sendStore s.th.uid port off n val.toNat
  | _, t => s.writeAt t val.toNat mask.toNat n

/-! ## Stores -/

/-- Store `n` bytes at an aligned address for element `elem`; `mask` selects the bits (R101). The effect is noted for a
faulting convoy (R396). -/
def State.store (s : State) (va : Word) (n : Nat) (val mask : BitVec 64) (cls elem : Nat) (scalar : Bool) : State :=
  match s.resolve va n 1 elem with
  | (.fault c i, s) => s.raise c elem i
  | (.stall, s) => s.waitFor (.page va 1) .nothing
  | (.at_ t _, s) =>
    let done (s : State) (t : Target) (rank : Option (Nat × Nat)) : State :=
      ((s.roBefore t).performStore t val mask n rank).keep elem (.store t val mask n rank)
    match t with
    | .device off =>
      if scalar && deviceLegal off n true then
        let s := s.releaseFences (some cls) va 1 elem
        if s.stopsAt elem then s else s.deviceWrite off n (lowBits (8 * n) val)
      else s.raise 0x06 elem (addrInfo va 1)
    | .window port off =>
      if mask.toNat % 2 ^ (8 * n) ≠ 2 ^ (8 * n) - 1 then s.raise 0x06 elem (addrInfo va 1)
      else
        let s := s.releaseFences (some cls) va 1 elem
        if s.stopsAt elem then s else done s (.window port off) none
    | .cluster cl a =>
      if s.lineLost a then s.raise 0x07 elem (dataInfo va 1 (s.sourceOf a))
      else if s.th.det then
        let rank := s.th.threadNo.toNat
        match s.tagFault s.th.launch rank a n mask with
        | some r => s.raise 0x0E elem (BitVec.ofNat 64 (va.toNat / 4 * 4 + r))
        | none =>
          let s := s.releaseFences (some cls) va 1 elem
          if s.stopsAt elem then s
          else if s.lineBad a then (s.foundBad a).raise 0x07 elem (dataInfo va 1 (s.sourceOf a))
          else done s (.through cl a) (some (s.th.launch, rank))
      else if (s.th.fencesOn (some cls)).isEmpty then done s (.cluster cl a) none
      else
        let s := s.releaseFences (some cls) va 1 elem
        if s.stopsAt elem then s
        else if s.lineBad a then (s.foundBad a).raise 0x07 elem (dataInfo va 1 (s.sourceOf a))
        else done s (.through cl a) none
    | t =>
      let s := s.releaseFences (some cls) va 1 elem
      if s.stopsAt elem then s else done s t none

/-- All the bits of `n` bytes. -/
def fullMask (n : Nat) : BitVec 64 := BitVec.ofNat 64 (2 ^ (8 * n) - 1)

/-! ## Bytes of an element that may cross a page (R399, R400) -/

/-- The convoy notes every page that an element's bytes lie on, before any of them is asked for (R398). -/
def State.notePages (s : State) (elem : Nat) (addrs : List Word) : State :=
  addrs.foldl (fun s a => if canonical a then s.notePage elem (pageOf a) else s) s

/-- Load consecutive bytes one at a time, lowest first; nothing where one faults. -/
def State.loadEach (s : State) (cls elem : Nat) : List Word → Option Nat × State
  | [] => (some 0, s)
  | a :: rest =>
    match s.load a 1 cls elem false with
    | (none, s) => (none, s)
    | (some b, s) =>
      match s.loadEach cls elem rest with
      | (none, s) => (none, s)
      | (some r, s) => (some (b + 256 * r), s)

/-- Load the bytes of an element. -/
def State.loadBytes (s : State) (cls elem : Nat) (addrs : List Word) : Option Nat × State :=
  (s.notePages elem addrs).loadEach cls elem addrs

/-- The word of a byte is tagged as a sub-word store of the current thread would tag it, so that the store's next bytes find its line
counted (R183). -/
def State.claimTag (s : State) (a : Nat) : State :=
  match s.launch s.th.launch with
  | none => s
  | some l => match l.checkTag (a / 4) s.th.threadNo.toNat true with
    | .store t => s.onLaunch l.id (fun l => { l with tags := t :: l.tags.filter (·.word != t.word) })
    | _ => s

/-- Probe bytes one at a time. -/
def State.probeEach (s : State) (at_ : Word) (elem : Nat) : List Word → State
  | [] => s
  | a :: rest =>
    match s.resolve a 1 1 elem with
    | (.fault c i, s) => s.raise c elem i
    | (.stall, s) => s.waitFor (.page a 1) .nothing
    | (.at_ t _, s) =>
      match t with
      | .device _ => s.raise 0x06 elem (addrInfo a 1)
      | .cluster _ x =>
        if s.lineLost x then s.raise 0x07 elem (dataInfo a 1 (s.sourceOf x))
        else match (if s.th.det then s.tagFault s.th.launch s.th.threadNo.toNat x 1 1 else none) with
          | some r => s.raise 0x0E elem (BitVec.ofNat 64 (at_.toNat / 4 * 4 + r))
          | none => (if s.th.det then s.claimTag x else s).probeEach at_ elem rest
      | _ => s.probeEach at_ elem rest

/-- Probe the bytes of a store at `at_` so that none is written if any would fault (R400): the first fault is raised. A violation of
deterministic mode names the element's address (R180). -/
def State.probeStore (s : State) (at_ : Word) (elem : Nat) (addrs : List Word) : State :=
  { (s.notePages elem addrs).probeEach at_ elem addrs with launches := s.launches }

/-! ## Scalar loads and stores (R72 to R74) -/

/-- A scalar load: alignment first, then the access. -/
def State.scalarLoad (s : State) (va : Word) (n cls : Nat) : Option Nat × State :=
  if va.toNat % n ≠ 0 then (none, s.raiseHere 0x03 (addrInfo va 0)) else s.load va n cls s.cv.vstart0 true

/-- A scalar store of the low bytes of a value. -/
def State.scalarStore (s : State) (va : Word) (n cls : Nat) (v : Word) : State :=
  if va.toNat % n ≠ 0 then s.raiseHere 0x03 (addrInfo va 1) else s.store va n v (fullMask n) cls s.cv.vstart0 true

/-- Read consecutive doublewords as class-0 loads of a word counted at vstart; nothing where one faults. -/
def State.loadDwords (s : State) (va : Word) : Nat → Option (List Word) × State
  | 0 => (some [], s)
  | n + 1 =>
    match s.load va 8 0 s.cv.vstart0 false with
    | (none, s) => (none, s)
    | (some v, s) =>
      match s.loadDwords (va + 8) n with
      | (none, s) => (none, s)
      | (some r, s) => (some (BitVec.ofNat 64 v :: r), s)

/-- Store consecutive doublewords as class-0 stores of a word counted at vstart. DEDUCED (log 74): R307 and R308 call the accesses of
SCOPEPUT and SCOPEGET class 0, so the fences of class 0 and of the whole class mask cover them, though R256 puts the access of a SYNC
instruction into every class. -/
def State.storeDwords (s : State) (va : Word) : List Word → State
  | [] => s
  | w :: rest =>
    let s := s.store va 8 w (fullMask 8) 0 s.cv.vstart0 false
    if s.goes then s.storeDwords (va + 8) rest else s

/-! ## Instruction fetch (R378) -/

/-- What a fetch brings: the convoy's 16 bytes, a fault, or a stall. -/
inductive Fetch where
  | convoy (data : BitVec 128)
  | fault (cause : Nat) (info : Word)
  | stall
  deriving DecidableEq, Repr

/-- A core's instruction cache of 16 KiB, 512 sectors, takes up a sector; the one longest there gives way (R11, R14). -/
def State.putInstr (s : State) (a : Nat) (data : BitVec 256) : State :=
  let core := s.th.core
  let mine := (s.icache.filter (fun y => y.core == core && y.addr != a / 32)).take 511
  { s with icache := ⟨core, a / 32, data⟩ :: mine ++ s.icache.filter (fun y => y.core != core) }

/-- The convoy's bytes at a physical address: from a sector that the core's instruction cache still holds, by free choice where it no
longer agrees with the home (log 11), or read at the home through the die's L2 (R244, R245). Nothing where that read is uncorrectable,
for a source (R415). -/
def State.fetchBytes (s : State) (phys : Nat) : Except Nat (BitVec 128) × State :=
  let agent := s.agentOf (clusterOf s.th.core)
  let part (d : BitVec 256) : BitVec 128 := d.extractLsb' (8 * (phys % 32)) 128
  let fresh : BitVec 256 := BitVec.ofNat 256 (s.homeRead (phys / 32 * 32) 32)
  let bad := if s.l2Bad agent phys then some 2 else s.damageAt (.home phys)
  let read (s : State) : Except Nat (BitVec 128) × State :=
    match bad with
    | some src => (.error src, s)
    | none => (.ok (part fresh), (s.sharedRead agent phys).putInstr phys fresh)
  match s.icache.find? (fun x => x.core == s.th.core && x.addr == phys / 32) with
  | some x =>
    if part x.data = part fresh && bad.isNone then (.ok (part fresh), s)
    else
      let (pick, s) := s.freeChoice
      if pick then (.ok (part x.data), s) else read s
  | none => read s

/-- Fetch the convoy at the program counter: translated with Execute and User checked (R378). A page of attribute 11 and bytes that are
uncorrectable leave no leaf and no Accessed bit behind (R370). -/
def State.fetch (s : State) : Fetch × State :=
  let va := s.th.pc
  match s.xlate va 3 s.th.csr.vstart.toNat with
  | (.fault 0x07 i, s) => (.fault 0x07 i, s)
  | (.fault _ _, s) => (.fault 0x14 (addrInfo va 3), s)
  | (.stall, s) => (.stall, s)
  | (.ok attr phys, s1) =>
    if attr = 3 then (.fault 0x14 (addrInfo va 3), { s with free := s1.free })
    else match s1.fetchBytes phys with
      | (.ok data, s2) => (.convoy data, s2)
      | (.error src, s2) => (.fault 0x07 (dataInfo va 3 src), { s with free := s2.free })

end Sys2Proof.Machine
end

