-- ==== Sys2Proof/Machine/Elements.lean ====
section
/-! DEFINITION. Elements in memory: byte formats, bit strings and blocked FP4 (R100 to R105, R128), and stream elements:
AFFINE, WINDOW and DECODED positions and the strainer's blocks (R137 to R147, R350 to R356). -/

namespace Sys2Proof.Machine

open Sys2Proof

/-! ## Sub-byte elements -/

/-- The byte addresses that hold element `k` of a bit string with offset `o` (R100), or of a blocked array, nibble byte then
scale byte (R102). -/
def subAddrs (base : Word) (fmt k o : Nat) : List Word :=
  if fmt = 11 then [base + BitVec.ofNat 64 (5 * (k / 8) + k % 8 / 2), base + BitVec.ofNat 64 (5 * (k / 8) + 4)]
  else
    let n := fmtBits fmt 16
    let lo := n * k + o
    (span (lo / 8) ((lo + n - 1) / 8 + 1)).map (fun i => base + BitVec.ofNat 64 i)

/-- The element's code and its block scale (0 where there is none) in the bytes so addressed. -/
def subCode (fmt k o bytes : Nat) : Nat × Nat :=
  if fmt = 11 then (bytes / 2 ^ (4 * (k % 2)) % 16, bytes / 256 % 256)
  else
    let n := fmtBits fmt 16
    (bytes / 2 ^ ((n * k + o) % 8) % 2 ^ n, 0)

/-- The memory code of an element, with its block scale: a byte-format one at its own address, another in the string or
block array that begins there (R128). -/
def State.loadCode (s : State) (base : Word) (fmt sew k o cls elem : Nat) : Option (Nat × Nat) × State :=
  if byteFmt fmt then
    let (v, s) := s.load base (fmtBits fmt sew / 8) cls elem false
    (v.map (·, 0), s)
  else
    let (v, s) := s.loadBytes cls elem (subAddrs base fmt k o)
    (v.map (subCode fmt k o), s)

/-- Store an element's code: a byte-format one whole, another changing only its bits (R101). -/
def State.storeCode (s : State) (base : Word) (fmt sew k code cls elem : Nat) : State :=
  if byteFmt fmt then
    let n := fmtBits fmt sew / 8
    s.store base n (BitVec.ofNat 64 code) (fullMask n) cls elem false
  else
    let n := fmtBits fmt 16
    let addrs := subAddrs base fmt k 0
    let s := if addrs.length = 1 then s else s.probeStore (addrs.headD base) elem addrs
    addrs.zipIdx.foldl (fun s (a, i) =>
      if s.cv.wait.isSome || !(match s.cv.limit with
          | none => true
          | some l => elem < l) then s
      else
        let sh := n * k % 8
        s.store a 1 (BitVec.ofNat 64 (code * 2 ^ sh / 256 ^ i)) (BitVec.ofNat 64 ((2 ^ n - 1) * 2 ^ sh / 256 ^ i % 256)) cls elem false) s

/-! ## Strainer blocks (R350 to R352) -/

/-- One step of CRC-32C over a byte's bits. -/
def crcBits : Nat → Nat → Nat
  | 0, c => c
  | n + 1, c => crcBits n (if c % 2 = 1 then (c / 2) ^^^ 0x82F63B78 else c / 2)

/-- CRC-32C: reflected, initial value all ones, final complement. -/
def crc32c (bs : List Byte) : Nat := (bs.foldl (fun c b => crcBits 8 (c ^^^ b.toNat)) 0xFFFFFFFF) ^^^ 0xFFFFFFFF

/-- Rice codes of `n` elements: their symbols and the bits that remain (R351). -/
def riceDecode (k : Nat) : Nat → List Bool → Option (List Nat × List Bool)
  | 0, bits => some ([], bits)
  | n + 1, bits =>
    let q := (bits.takeWhile id).length
    let rest := bits.drop q
    if rest.length < 1 + k then none
    else
      let low := ((rest.drop 1).take k).foldr (fun b acc => (if b then 1 else 0) + 2 * acc) 0
      let u := q * 2 ^ k + low
      if 15 < u then none
      else match riceDecode k n (rest.drop (1 + k)) with
        | none => none
        | some (us, r) => some (u :: us, r)

/-- The bits of bytes, bit 0 of each byte first. -/
def bitsOf (bs : List Byte) : List Bool := (bs.map (fun b => (List.range 8).map (fun i => b.getLsbD i))).flatten

/-- The nibbles of bytes, low nibble first. -/
def nibblesOf (bs : List Byte) : List Nat := (bs.map (fun b => [b.toNat % 16, b.toNat / 16])).flatten

/-- The nibble of a symbol u = 2m + s. -/
def nibbleOf (u : Nat) : Nat := u / 2 + u % 2 * 8

/-- The 64 nibbles of a payload after its scales, or nothing where it is malformed (R351). -/
def decodePayload (kind k count : Nat) (body : List Byte) : Option (List Nat) :=
  match kind with
  | 0 => if count = 64 && body.length = 32 then some (nibblesOf body) else none
  | 1 =>
    let map := bitsOf (body.take 8)
    let ones := (map.filter id).length
    if body.length < 8 || count ≠ ones || body.length ≠ 8 + (count + 1) / 2 then none
    else
      let ns := nibblesOf (body.drop 8)
      some (((List.range 64).map (fun e =>
        if map.getD e false then ns.getD ((map.take e).filter id).length 0 else 0)))
  | _ =>
    if count ≠ 64 then none
    else match riceDecode k 64 (bitsOf body) with
      | some (us, rest) => if rest.length < 8 && !rest.any id then some (us.map nibbleOf) else none
      | none => none

/-- A strainer's read: bytes, a fault, or a stall on a page that is not present (R354). -/
inductive Strain (α : Type) where
  | ok (v : α)
  | fault (cause : Nat) (info : Word)
  | stall (va : Word)
  deriving Repr

/-- Read `n` bytes at the homes; a byte at or beyond the limit is a block-format fault at the header (R353, R354). -/
def State.strainRead (s : State) (b : Binding) (header : Word) : List Word → Strain (List Byte) × State
  | [] => (.ok [], s)
  | a :: rest =>
    if b.limit ≤ (a - descBase b.desc).toNat then (.fault 0x0D header, s)
    else match s.engineXlate (s.rootOf s.th) (s.asidOf s.th) a 0 (!isControl s.th.core) with
      | (.ok attr phys, s1) =>
        if attr = 3 then (.fault 0x06 (addrInfo a 0), s1)
        else if s.l2Bad (s.agentOf (clusterOf s.th.core)) phys then (.fault 0x07 (dataInfo a 0 2), s)
        else
          let s := s1.sharedRead (s.agentOf (clusterOf s.th.core)) phys
          match s.strainRead b header rest with
          | (.ok bs, s) => (.ok (BitVec.ofNat 8 (s.homeRead phys 1) :: bs), s)
          | r => r
      | (.fault 0x05 _, s) => (.stall a, s)
      | (.fault c i, s) => (.fault c i, s)
      | (.stall, s) => (.stall a, s)

/-- A header that the walk steps over is plausible (R354). -/
def headerStep (h : List Byte) : Option Nat :=
  let kind := leField h 2 1
  let n := leField h 6 2
  if leField h 0 2 ≠ 0x5A1E || kind % 4 = 3 then none
  else match kind % 4 with
    | 0 => if n = 40 then some n else none
    | 1 => if n = 16 + (leField h 4 2 + 1) / 2 then some n else none
    | _ => if 16 ≤ n && n ≤ 136 then some n else none

/-- The header address of the block `n` blocks after the one at `h` (R354). -/
def State.strainWalk (s : State) (b : Binding) (h : Word) : Nat → Strain Word × State
  | 0 => (.ok h, s)
  | n + 1 =>
    match s.strainRead b h (byteAddrs h 16) with
    | (.ok bs, s) =>
      match headerStep bs with
      | some k => s.strainWalk b (h + BitVec.ofNat 64 (16 + k)) n
      | none => (.fault 0x0D h, s)
    | (.fault c i, s) => (.fault c i, s)
    | (.stall a, s) => (.stall a, s)

/-- The block at a header: its nibbles, its scales, and the next block's header (R350 to R352, R354). -/
def State.strainBlock (s : State) (b : Binding) (h : Word) : Strain (List Nat × List Nat × Word) × State :=
  match s.strainRead b h (byteAddrs h 16) with
  | (.ok hd, s) =>
    let kind := leField hd 2 1
    let k := leField hd 3 1
    let n := leField hd 6 2
    if leField hd 0 2 ≠ 0x5A1E || 2 < kind || (if kind = 2 then 3 < k else k ≠ 0) || leField hd 12 4 ≠ 0 || n < 8 || 136 < n then
      (.fault 0x0D h, s)
    else
      match s.strainRead b h (byteAddrs (h + 16) n) with
      | (.ok body, s) =>
        match decodePayload kind k (leField hd 4 2) (body.drop 8) with
        | none => (.fault 0x0D h, s)
        | some ns =>
          let packed := (List.range 32).map (fun i => BitVec.ofNat 8 (ns.getD (2 * i) 0 + 16 * ns.getD (2 * i + 1) 0))
          if crc32c (body.take 8 ++ packed) ≠ leField hd 8 4 then (.fault 0x0C h, s)
          else (.ok (ns, (body.take 8).map (·.toNat), h + BitVec.ofNat 64 (16 + n)), s)
      | (.fault c i, s) => (.fault c i, s)
      | (.stall a, s) => (.stall a, s)
  | (.fault c i, s) => (.fault c i, s)
  | (.stall a, s) => (.stall a, s)

/-! ## Positions of a stream (R139, R140) -/

/-- Dimension indices of a position, dimension 0 fastest. -/
def dimIndex (d : BitVec 512) : Nat → Nat → List Nat
  | 0, _ => []
  | n + 1, p =>
    let j := descDims d - (n + 1)
    (p % descCount d j) :: dimIndex d n (p / descCount d j)

/-- Base plus the strides of the dimensions from `j` up. -/
def strideSum (d : BitVec 512) (idx : List Nat) (j : Nat) : Word :=
  ((idx.zipIdx.drop j).map (fun (i, n) => BitVec.ofNat 64 i * descStride d n)).foldl (· + ·) (descBase d)

/-- Where a position's element lies: its own address for a byte format, else the row's base and the element's place in
it. `none` is a WINDOW pad element. -/
def streamPlace (d : BitVec 512) (shape : BitVec 256) (p sew : Nat) : Option (Word × Nat) :=
  if descKind d = 1 then
    let c := p % shapeC shape
    let t := p / shapeC shape
    let kx := t % shapeKw shape
    let t := t / shapeKw shape
    let ky := t % shapeKh shape
    let t := t / shapeKh shape
    let ox := t % bits shape 128 16
    let oy := t / bits shape 128 16
    let iy : Int := (oy * bits shape 64 8 + ky * bits shape 80 8 : Nat) - (bits shape 96 8 : Nat)
    let ix : Int := (ox * bits shape 72 8 + kx * bits shape 88 8 : Nat) - (bits shape 104 8 : Nat)
    if 0 ≤ iy && iy < shapeH shape && 0 ≤ ix && ix < shapeW shape then
      some (descBase d + BitVec.ofNat 64 (iy.toNat * bits shape 160 32 + ix.toNat * bits shape 192 32 +
        c * (fmtBits (descFmt d) sew / 8)), 0)
    else none
  else
    let idx := dimIndex d (descDims d) p
    if byteFmt (descFmt d) then some (strideSum d idx 0, 0) else some (strideSum d idx 1, idx.headD 0)

/-- Change the binding of a register. -/
def State.onBind (s : State) (reg : Nat) (f : Binding → Binding) : State :=
  s.onTh (fun t => { t with binds := updWhere (fun b => b.reg == reg) f t.binds })

/-- The binding of a register. -/
def Thread.bind (t : Thread) (reg : Nat) : Option Binding := t.binds.find? (·.reg == reg)

/-- A binding's position moves past one element. -/
def Binding.step (b : Binding) : Binding := { b with pos := b.pos + 1, ahead := b.ahead.filter (·.pos != b.pos), fresh := false }

/-! ## Fetching a stream's element (R142, R145, R354) -/

/-- The first byte of the block that holds a blocked element (R391). -/
def blockAddr (base : Word) (k : Nat) : Word := base + BitVec.ofNat 64 (5 * (k / 8))

/-- The header of block `k` of a DECODED stream, walked from the strainer's place or from the base (R354). -/
def State.strainFind (s : State) (b : Binding) (k : Nat) : Strain Word × State :=
  match b.place with
  | some (j, h) => if j ≤ k then s.strainWalk b h (k - j) else s.strainWalk b (descBase b.desc) k
  | none => s.strainWalk b (descBase b.desc) k

/-- The strainer decodes block `k`: the elements of it from position `p` on, and its place after it (R354, R355). -/
def State.strainStage (s : State) (b : Binding) (k p sew : Nat) : Strain (List Ahead × Nat × Word) × State :=
  match s.strainFind b k with
  | (.ok h, s) =>
    match s.strainBlock b h with
    | (.ok (ns, sc, next), s) =>
      (.ok (((List.range 64).map (fun i => (⟨64 * k + i, ns.getD i 0, sc.getD (i / 8) 0, sew⟩ : Ahead))).filter (fun x => p ≤ x.pos),
        k + 1, next), s)
    | (.fault c i, s) => (.fault c i, s)
    | (.stall a, s) => (.stall a, s)
  | (.fault c i, s) => (.fault c i, s)
  | (.stall a, s) => (.stall a, s)

/-- The block-alignment check of a DECODED stream (R147): the header of the block that holds the position. -/
def State.checkDecoded (s : State) (b : Binding) (elem : Nat) : State :=
  if b.pos % 64 = 0 then s
  else match s.strainFind b (b.pos / 64) with
    | (.fault c i, s) => s.raise c elem i
    | (.stall a, s) => s.waitFor (.strainer a) .nothing
    | (.ok h, s) => s.raise 0x04 elem (addrInfo h 0)

/-- An element fetched ahead still serves: its format's width is what it was at the fetch. -/
def Binding.aheadAt (b : Binding) (sew : Nat) : Option Ahead :=
  b.ahead.find? (fun x => x.pos == b.pos && fmtBits (descFmt b.desc) x.sew == fmtBits (descFmt b.desc) sew)

/-- The value of the binding's next element at the SEW, for element `e`, or nothing where it faults at `elem` or stalls; `first` asks
for the block alignment check of R147. Of a decoded block at most four chunks are held ahead (R145). -/
def State.streamElem (s : State) (b : Binding) (sew elem e : Nat) (first : Bool) : Option Nat × State :=
  let fmt := descFmt b.desc
  if descKind b.desc = 2 then
    if !b.attached then (none, s.waitFor (.attached b.reg) .nothing)
    else
      let s := if first then s.checkDecoded b elem else s
      if s.stopsAt elem then (none, s)
      else match b.aheadAt sew with
        | some x => (some (widenElem 11 sew x.code x.scale), s)
        | none =>
          match s.strainStage b (b.pos / 64) b.pos sew with
          | (.ok (all, place), s) =>
            let xs := all.take (4 * s.vl)
            let s := (s.onBind b.reg (fun b => { b with place := some place, ahead := xs })).keep e (.decoded b.reg (some place) xs)
            ((xs.head?).map (fun x => widenElem 11 sew x.code x.scale), s)
          | (.fault c i, s) => (none, s.raise c elem i)
          | (.stall a, s) => (none, s.waitFor (.strainer a) .nothing)
  else
    match streamPlace b.desc b.shape b.pos sew with
    | none => (some (descPad b.desc % 2 ^ sew), s)
    | some (a, k) =>
      if first && fmt = 11 && k % 8 ≠ 0 then (none, s.raise 0x04 elem (addrInfo (blockAddr a k) 0))
      else if byteFmt fmt && a.toNat % (fmtBits fmt sew / 8) ≠ 0 then (none, s.raise 0x03 elem (addrInfo a 0))
      else match b.aheadAt sew with
        | some x => (some (widenElem fmt sew x.code x.scale), s)
        | none =>
          let (v, s) := s.loadCode a fmt sew k 0 (descClass b.desc) elem
          (v.map (fun c => widenElem fmt sew c.1 c.2), s)

/-- Positions of a binding that have been fetched ahead, without a gap: WINDOW pads need no fetch (R140, R145). -/
def Binding.fetched (b : Binding) (sew : Nat) : Nat → Nat → Nat
  | 0, p => p
  | fuel + 1, p =>
    if b.ahead.any (·.pos == p) || (p < streamTotal b.desc b.shape && (streamPlace b.desc b.shape p sew).isNone) then b.fetched sew fuel (p + 1)
    else p

/-- A read stream of the current thread fetches one element ahead of its position, within four chunks; it takes no fault (R145). -/
def State.prefetch (s : State) (reg sew vl : Nat) : State :=
  match s.th.bind reg with
  | none => s
  | some b =>
    let p := b.fetched sew (4 * vl) b.pos
    if descWrite b.desc || descKind b.desc = 2 || b.pos + 4 * vl ≤ p || streamTotal b.desc b.shape ≤ p || !fmtLegal (descFmt b.desc) sew then s
    else match streamPlace b.desc b.shape p sew with
      | none => s
      | some (a, k) =>
        match s.loadCode a (descFmt b.desc) sew k 0 (descClass b.desc) 0 with
        | (some c, s1) => { s1 with cv := s.cv }.onBind reg (fun b => { b with ahead := b.ahead ++ [(⟨p, c.1, c.2, sew⟩ : Ahead)] })
        | (none, _) => s

/-- The cluster's strainer decodes the next block of an attached binding where the block's elements have room within four chunks (R353
to R355); a failure waits for the consumer. -/
def State.strainAhead (s : State) (reg sew vl : Nat) : State :=
  match s.th.bind reg with
  | none => s
  | some b =>
    let p := b.pos + b.ahead.length
    if descKind b.desc ≠ 2 || !b.attached || 4 * vl ≤ b.ahead.length || streamTotal b.desc b.shape ≤ p then s
    else match s.strainStage b (p / 64) p sew with
      | (.ok (xs, place), s1) =>
        if 4 * vl < b.ahead.length + xs.length then s else s1.onBind reg (fun b => { b with place := some place, ahead := b.ahead ++ xs })
      | _ => s

end Sys2Proof.Machine
end

