-- ==== Sys2Proof/Machine/Operands.lean ====
section
/-! DEFINITION. The operands of vector words: elements of register groups (R111), mask registers (R122, R123), issue checks
(R62, R63, R142, R169), stream chunks (R142 to R144), last-read marks (R121), and the frames of an element-wise word (R119,
R120, R148) and of a word that reads its sources whole (R164, R171). -/

namespace Sys2Proof.Machine

open Sys2Proof

/-! ## Elements of a register group (R111) -/

/-- Element `e` of the group at register `v`, at width `sew` with `per` elements to a register. -/
def Thread.elem (t : Thread) (v e sew per : Nat) : Nat :=
  ((vget t.vregs (v + e / per) 0).extractLsb' (e % per * sew) sew).toNat

/-- Element `e` of the current thread's group at register `v`. -/
def State.elem (s : State) (v e sew : Nat) : Nat := s.th.elem v e sew (s.perReg sew)

/-- A bit field of a register row. -/
def fieldMask (bit width : Nat) : BitVec 32768 := BitVec.ofNat 32768 (2 ^ width - 1) <<< bit

/-- Write a bit field of a vector register. -/
def Thread.putBits (t : Thread) (r bit width val : Nat) : Thread :=
  let old := vget t.vregs r 0
  { t with vregs := vput t.vregs r ((old &&& ~~~fieldMask bit width) ||| (BitVec.ofNat 32768 (val % 2 ^ width) <<< bit)) }

/-- A word of the convoy writes a bit field of a vector register; the register's last-read mark notes it (R121). -/
def State.putBits (s : State) (r bit width val : Nat) : State :=
  let s := s.onTh (fun t => t.putBits r bit width val)
  if s.cv.marks.isEmpty then s
  else s.onCv (fun c => { c with marks := c.marks.map (fun (q, w) => if q = r then (q, w ||| fieldMask bit width) else (q, w)) })

/-- Write an element of the group at `v`. -/
def State.putElem (s : State) (v e sew x : Nat) : State :=
  let per := s.perReg sew
  s.putBits (v + e / per) (e % per * sew) sew x

/-- Write element `e`, and note the effect for a faulting convoy (R396). -/
def State.writeElem (s : State) (v at_ e sew x : Nat) : State :=
  let per := s.perReg sew
  (s.putElem v e sew x).keep at_ (.vset (v + e / per) (e % per * sew) sew (BitVec.ofNat 64 x))

/-- Every bit of the group's elements from `lo` up to its end set to 1 (R119): the group has `regs` registers. -/
def State.onesFrom (s : State) (v lo sew regs : Nat) : State :=
  let per := s.perReg sew
  (List.range regs).foldl (fun s j =>
    let a := lo - j * per
    if a < per then s.putBits (v + j) (a * sew) ((per - a) * sew) (2 ^ ((per - a) * sew) - 1) else s) s

/-! ## Mask registers (R122, R123) -/

/-- Bit `e` of a mask register read at a SEW. -/
def MaskReg.bit (m : MaskReg) (sew e : Nat) : Bool :=
  match m with
  | .bitmap b => b.getLsbD e
  | .count n w => e < n.toNat * (16 * 2 ^ w.toNat) / sew

/-- The register as a bitmap at a SEW. -/
def MaskReg.toBits (m : MaskReg) (sew : Nat) : BitVec 16384 :=
  match m with
  | .bitmap b => b
  | .count n w => BitVec.ofNat 16384 (2 ^ min 16384 (n.toNat * (16 * 2 ^ w.toNat) / sew) - 1)

/-- K[k][e] at the thread's SEW. -/
def Thread.active (t : Thread) (k e : Nat) : Bool := (t.mask k).bit (sewOf t.csr.vtype) e

/-- Write mask register `k`; a write to k0 is discarded (R123). -/
def Thread.putMask (t : Thread) (k : Nat) (m : MaskReg) : Thread := if k = 0 then t else { t with masks := vput t.masks k m }

/-- Write one bit of a mask at a SEW; a count form is expanded first (R122). -/
def Thread.putMaskBitAt (t : Thread) (sew k e : Nat) (b : Bool) : Thread :=
  let old := (t.mask k).toBits sew
  let one : BitVec 16384 := 1#16384 <<< e
  t.putMask k (.bitmap (if b then old ||| one else old &&& ~~~one))

/-- Write one bit of a mask at the current SEW. -/
def Thread.putMaskBit (t : Thread) (k e : Nat) (b : Bool) : Thread := t.putMaskBitAt (sewOf t.csr.vtype) k e b

/-- Write a mask bit, noted for a faulting convoy. -/
def State.writeMaskBit (s : State) (k at_ e : Nat) (b : Bool) : State :=
  (s.onTh (fun t => t.putMaskBit k e b)).keep at_ (.kset k e b s.sew)

/-- Set or clear every bit of a mask from `lo` up. -/
def State.maskFrom (s : State) (k lo : Nat) (b : Bool) : State :=
  s.onTh (fun t =>
    let old := (t.mask k).toBits (sewOf t.csr.vtype)
    let low : BitVec 16384 := BitVec.ofNat 16384 (2 ^ lo - 1)
    t.putMask k (.bitmap (if b then old ||| ~~~low else old &&& low)))

/-- The number of set bits of a mask below index `n`. -/
def State.maskCount (s : State) (k n : Nat) : Nat :=
  ((List.range n).filter (fun i => s.th.active k i)).length

/-! ## Register groups and their checks (R62, R63) -/

/-- How a word uses a group: a source field, which may consume a chunk (R142), a destination, which may emit one (R143), or a
destination that emits nothing (R160). -/
inductive Role where
  | source | dest | plain
  deriving DecidableEq, Repr

/-- A vector register group that a word names: first register, alignment, number of registers, use. -/
structure Grp where
  reg   : Nat
  align : Nat
  regs  : Nat
  use   : Role
  deriving DecidableEq, Repr

/-- The registers of a group. -/
def Grp.list (g : Grp) : List Nat := (List.range g.regs).map (g.reg + ·)

/-- A group of LMUL registers (R62). -/
def State.grp (s : State) (r : BitVec 5) (use : Role) : Grp := ⟨r.toNat, s.lmul, s.lmul, use⟩

/-- A group held at twice the SEW: 2 × LMUL registers (R157). -/
def State.wideGrp (s : State) (r : BitVec 5) (use : Role) : Grp := ⟨r.toNat, 2 * s.lmul, 2 * s.lmul, use⟩

/-- Two groups share a register. -/
def Grp.overlaps (a b : Grp) : Bool := a.reg < b.reg + b.regs && b.reg < a.reg + a.regs

/-- The group breaks R142: it overlaps a bound group without beginning at it. -/
def State.badBound (s : State) (g : Grp) : Bool :=
  s.th.binds.any (fun b => b.reg ≠ g.reg && b.reg < g.reg + g.regs && g.reg < b.reg + s.lmul)

/-- The chunk that the use would consume or emit is in a format that does not suit the SEW (R97, R138). -/
def State.badChunk (s : State) (g : Grp) : Bool :=
  match s.th.bind g.reg with
  | some b => (match g.use with
    | .source => !descWrite b.desc
    | .dest => descWrite b.desc
    | .plain => false) && !fmtLegal (descFmt b.desc) s.sew
  | none => false

/-- Registers that the use writes: a destination's, and those of a source that consumes a chunk. -/
def State.writtenBy (s : State) (g : Grp) : List Nat :=
  match g.use with
  | .source => (match s.th.bind g.reg with
    | some b => if descWrite b.desc then [] else g.list
    | none => [])
  | _ => g.list

/-- A word writes a register or mask that an earlier whole-source word of the convoy read (R169). -/
def State.breaksWhole (s : State) (gs : List Grp) (masks : List Nat) : Bool :=
  gs.any (fun g => (s.writtenBy g).any (fun r => s.cv.whole.contains r)) || masks.any (fun k => k ≠ 0 && s.cv.wholeK.contains k)

/-- The allocation fault of R62 for a class (0 vector, 1 accumulator, 2 tree) and register number. -/
def State.allocFault (s : State) (cls reg : Nat) : State := s.raiseHere 0x12 (illegalInfo s.cv.raw 0 reg cls)

/-- The issue checks of a vector word (R63 step 3): alignment, then the sub-code 7 checks, then the allocation of its vector
groups. `gs` stands in field order; `masks` are the masks it writes; `bad` is the word's own sub-code 7 check. -/
def State.checkWord (s : State) (gs : List Grp) (masks : List Nat) (bad : Bool) : State :=
  match gs.find? (fun g => g.reg % g.align ≠ 0) with
  | some g => s.illegal 4 g.reg
  | none =>
    if bad || gs.any s.badChunk || gs.any s.badBound || s.breaksWhole gs masks then s.illegal 7 0
    else match (gs.flatMap Grp.list).find? (fun r => s.th.nregs ≤ r) with
      | some r => s.allocFault 0 r
      | none => s

/-! ## Last-read marks (R121) -/

/-- L = 1 marks the registers of a group: from here on their written bits are noted. A convoy that goes on after a fault
takes up what its first execution wrote. DESIGN CHOICE: of two marks of a register in one convoy the later one starts the noted bits
afresh (log 43). -/
def State.markLast (s : State) (l : BitVec 1) (g : Grp) : State :=
  if l = 0 then s
  else
    let before := (s.th.carried.find? (fun c => c.1 == s.cv.addr && c.2.1 == s.cv.vstart0)).map (·.2.2)
    let old (r : Nat) : BitVec 32768 := (((before.getD []).find? (·.1 == r)).map (·.2)).getD 0
    s.onCv (fun c => { c with marks := g.list.map (fun r => (r, old r)) ++ c.marks.filter (fun m => !g.list.contains m.1) })

/-! ## Consuming and emitting chunks (R142 to R144) -/

/-- The distinct read-bound registers among a word's source groups. -/
def State.boundSources (s : State) (gs : List Grp) : List Nat :=
  ((gs.filter (fun g => g.use == .source)).map (·.reg)).eraseDups.filter (fun r => match s.th.bind r with
    | some b => !descWrite b.desc
    | none => false)

/-- A binding's position moves past one element; the move belongs to element `e`. -/
def State.advance (s : State) (reg e : Nat) : State := (s.onBind reg Binding.step).keep e (.advance reg)

/-- Element `e` of the chunk for a bound register; a fault is taken at `at_`, and what has been delivered belongs to element `e` (R142,
R144). -/
def State.consumeOne (s : State) (at_ e reg : Nat) : State :=
  s.noted e (fun s => match s.th.bind reg with
    | none => s
    | some b =>
      if b.pos < streamTotal b.desc b.shape then
        match s.streamElem b s.sew at_ e (e == s.vstart && (s.vstart == 0 || b.fresh)) with
        | (none, s) => s
        | (some x, s) => (s.writeElem reg e e s.sew x).advance reg e
      else if s.ta then s.writeElem reg e e s.sew (2 ^ s.sew - 1)
      else s)

/-- Element `e` of every chunk that an element-wise word consumes. A chunk's element is no write of the word that marks its
group as last read (R121, log 43). -/
def State.consume (s : State) (regs : List Nat) (mark : Option Nat) (e : Nat) : State :=
  regs.foldl (fun s r =>
    if s.stopsAt e then s
    else
      let s' := s.consumeOne e e r
      if mark = some r then s'.onCv (fun c => { c with marks := s.cv.marks }) else s') s

/-- Every element of the chunks that an element-wise word consumes, ahead of its own elements: a wide source is read from the whole
chunk (R142, R157). -/
def State.consumeAll (s : State) (srcs : List Grp) (mark : Option Nat) : State :=
  let regs := s.boundSources srcs
  (span s.vstart s.vl).foldl (fun s e => if s.stopsAt e then s else s.consume regs mark e) s

/-- The whole chunk of every bound source of a word counted at vstart. -/
def State.consumeWhole (s : State) (gs : List Grp) : State :=
  (s.boundSources gs).foldl (fun s r =>
    (span s.vstart s.vl).foldl (fun s e => if s.goes then s.consumeOne s.cv.vstart0 e r else s) s) s

/-- OR an element's flags into fflags, noted for a faulting convoy. -/
def State.noteFlags (s : State) (e : Nat) (f : BitVec 6) : State := if f = 0 then s else (s.orFlags f).keep e (.flags f)

/-- The element of a chunk that a write-bound destination emits, held at index `e` of the group (R143); `at_` is the element
that a fault names, and what has been stored belongs to element `e` (R144). -/
def State.emit (s : State) (reg at_ e : Nat) (act : Bool) : State :=
  s.noted e (fun s => match s.th.bind reg with
    | none => s
    | some b =>
      if !descWrite b.desc || streamTotal b.desc b.shape ≤ b.pos then s
      else
        let fmt := descFmt b.desc
        let s := if !act then s
          else match streamPlace b.desc b.shape b.pos s.sew with
            | none => s
            | some (a, k) =>
              if byteFmt fmt && a.toNat % (fmtBits fmt s.sew / 8) ≠ 0 then s.raise 0x03 at_ (addrInfo a 1)
              else
                let (c, f) := narrowElem fmt s.sew s.th.csr.frm.toNat (s.elem reg e s.sew)
                let s := s.storeCode a fmt s.sew k c (descClass b.desc) at_
                if s.stopsAt at_ then s else s.noteFlags e f
        if s.stopsAt at_ then s else s.advance reg e)

/-! ## The frame of an element-wise word (R119, R120, R148) -/

/-- Where an element-wise word writes: a vector group at a width over some registers, a mask's bits, or nowhere. -/
inductive Dest where
  | vec (v sew regs : Nat)
  | mask (k : Nat)
  | nowhere
  deriving DecidableEq, Repr

/-- The result of element `e` is written. -/
def State.writeDest (s : State) (d : Dest) (e x : Nat) : State :=
  match d with
  | .vec v sew _ => s.writeElem v e e sew x
  | .mask k => s.writeMaskBit k e e (x ≠ 0)
  | .nowhere => s

/-- An inactive element: unchanged, or every bit 1 (R119). -/
def State.writeInactive (s : State) (d : Dest) (e : Nat) : State :=
  if s.ma then
    match d with
    | .vec v sew _ => s.writeElem v e e sew (2 ^ sew - 1)
    | .mask k => s.writeMaskBit k e e true
    | .nowhere => s
  else s

/-- Emission of element `e` by a vector destination. -/
def State.emitDest (s : State) (d : Dest) (e : Nat) (act : Bool) : State :=
  match d with
  | .vec v _ _ => s.emit v e e act
  | _ => s

/-- The exception-mask bit of element `e` (R120). -/
def State.writeException (s : State) (x e : Nat) (b : Bool) : State := if x = 0 then s else s.writeMaskBit x e e b

/-- The tail of the destination and of the exception mask (R119, R120); at vl = 0 nothing is written. -/
def State.writeTail (s : State) (d : Dest) (x : Nat) : State :=
  if s.vl = 0 || s.cv.limit.isSome || s.cv.wait.isSome then s
  else
    let lo := max s.vl s.vstart
    let s := if s.ta then
      match d with
      | .vec v sew regs => s.onesFrom v lo sew regs
      | .mask k => s.maskFrom k lo true
      | .nowhere => s
      else match d with
        | .mask k => s.onTh (fun t => t.putMask k (.bitmap ((t.mask k).toBits (sewOf t.csr.vtype))))
        | _ => s
    if x = 0 then s else s.maskFrom x lo false

/-- An element-wise word after its checks: for each element from vstart to vl - 1 it consumes, acts if the mask allows,
writes, notes flags and the exception bit, and emits; then the tail. `op` may carry data from element to element. -/
def State.elementwiseWith {α : Type} (s : State) (d : Dest) (srcs : List Grp) (mark : Option Nat) (k x : BitVec 3) (init : α)
    (op : State → α → Nat → Option (Nat × BitVec 6) × State × α) : State :=
  let regs := s.boundSources srcs
  let r := (span s.vstart s.vl).foldl (fun ((s, c) : State × α) e =>
    if s.stopsAt e then (s, c)
    else
      let s := s.consume regs mark e
      if s.stopsAt e then (s, c)
      else if s.th.active k.toNat e then
        match op s c e with
        | (none, s, c) => (s, c)
        | (some (v, f), s, c) =>
          ((((s.writeDest d e v).noteFlags e f).writeException x.toNat e (marksException f)).emitDest d e true, c)
      else (((s.writeInactive d e).writeException x.toNat e false).emitDest d e false, c)) (s, init)
  r.1.writeTail d x.toNat

/-- The frame for an operation that carries nothing. -/
def State.elementwise (s : State) (d : Dest) (srcs : List Grp) (mark : Option Nat) (k x : BitVec 3)
    (op : State → Nat → Option (Nat × BitVec 6) × State) : State :=
  s.elementwiseWith d srcs mark k x () (fun s _ e => let r := op s e; (r.1, r.2, ()))

/-- The group that L = 1 marks. -/
def markOf (l : BitVec 1) (a : BitVec 5) : Option Nat := if l = 0 then none else some a.toNat

/-- An operation that cannot fault. -/
def pureOp (op : State → Nat → Nat × BitVec 6) (s : State) (e : Nat) : Option (Nat × BitVec 6) × State := (some (op s e), s)

/-- The second operand of element `e`: the group at vb, or the scalar's low SEW bits (R148). -/
def State.operandB (s : State) (b : BitVec 5) (sc : BitVec 1) : State → Nat → Nat :=
  let bc := (s.reg b).toNat % 2 ^ s.sew
  if sc = 0 then fun s e => s.elem b.toNat e s.sew else fun _ _ => bc

/-- The groups of a word with destination, first source and an optional vector second source. -/
def State.groups3 (s : State) (d a b : BitVec 5) (sc : BitVec 1) : List Grp :=
  [s.grp d .dest, s.grp a .source] ++ (if sc = 0 then [s.grp b .source] else [])

/-- The frame of R148 with a vector destination. -/
def State.vector2 (s : State) (d a b : BitVec 5) (k x : BitVec 3) (l sc : BitVec 1) (bad : Bool)
    (op : State → Nat → Nat → Nat → Nat × BitVec 6) : State :=
  let gs := s.groups3 d a b sc
  let s := s.checkWord gs [x.toNat] bad
  if !s.goes then s
  else
    let y := s.operandB b sc
    (s.markLast l (s.grp a .source)).elementwise (.vec d.toNat s.sew s.lmul) gs (markOf l a) k x
      (pureOp (fun s e => op s e (s.elem a.toNat e s.sew) (y s e)))

/-- The frame of R148 for a unary word. -/
def State.vector1 (s : State) (d a : BitVec 5) (k x : BitVec 3) (l : BitVec 1) (bad : Bool)
    (op : State → Nat → Nat → Nat × BitVec 6) : State :=
  let gs := [s.grp d .dest, s.grp a .source]
  let s := s.checkWord gs [x.toNat] bad
  if !s.goes then s
  else (s.markLast l (s.grp a .source)).elementwise (.vec d.toNat s.sew s.lmul) gs (markOf l a) k x
      (pureOp (fun s e => op s e (s.elem a.toNat e s.sew)))

/-- The frame of R156: the destination is a mask register. -/
def State.compare2 (s : State) (d a b : BitVec 5) (k x : BitVec 3) (l sc : BitVec 1) (bad : Bool)
    (op : State → Nat → Nat → Bool × BitVec 6) : State :=
  let gs := [s.grp a .source] ++ (if sc = 0 then [s.grp b .source] else [])
  let s := s.checkWord gs [d.toNat, x.toNat] bad
  if !s.goes then s
  else
    let y := s.operandB b sc
    (s.markLast l (s.grp a .source)).elementwise (.mask d.toNat) gs (markOf l a) k x
      (pureOp (fun s e => let r := op s (s.elem a.toNat e s.sew) (y s e); (if r.1 then 1 else 0, r.2)))

/-! ## Words that read their sources whole (R164, R169, R171) -/

/-- A whole-source word's vector and mask sources may not be written by later words of the convoy (R169). -/
def State.noteWhole (s : State) (gs : List Grp) (masks : List Nat) : State :=
  s.onCv (fun c => { c with
    whole := ((gs.filter (fun g => g.use == .source)).flatMap Grp.list) ++ c.whole
    wholeK := masks ++ c.wholeK })

/-- The common beginning of a whole-source word: its checks, its chunks, the registers it reads, and the mark. -/
def State.beginWhole (s : State) (gs : List Grp) (writes reads : List Nat) (bad : Bool) (mark : Option (BitVec 1 × Grp)) : State :=
  let s := s.checkWord gs writes bad
  if !s.goes then s
  else
    let s := (s.consumeWhole gs).noteWhole gs reads
    match mark with
    | some (l, g) => s.markLast l g
    | none => s

/-- The elements of a whole-source word's destination from vstart to vl - 1: the result where active, R119 elsewhere, and
then what a write-bound destination emits. `op` gives nothing for an element that stays unchanged. -/
def State.writeWhole (s : State) (d : Dest) (k : Nat) (op : Nat → Option Nat) : State :=
  if !s.goes then s
  else
    let s1 := (span s.vstart s.vl).foldl (fun s e =>
      if s.th.active k e then
        match op e with
        | some r => (match d with
          | .vec v sew _ => s.putElem v e sew r
          | .mask m => s.onTh (fun t => t.putMaskBit m e (r ≠ 0))
          | .nowhere => s)
        | none => s
      else if s.ma then
        (match d with
          | .vec v sew _ => s.putElem v e sew (2 ^ sew - 1)
          | .mask m => s.onTh (fun t => t.putMaskBit m e true)
          | .nowhere => s)
      else s) s
    s1.writeTail d 0

/-- The chunk that a word emits after writing its whole destination: a fault names the element, or is counted at vstart. -/
def State.emitWhole (s : State) (v k : Nat) (counted : Bool) : State :=
  (span s.vstart s.vl).foldl (fun s e =>
    let at_ := if counted then s.cv.vstart0 else e
    if s.stopsAt at_ then s else s.emit v at_ e (s.th.active k e)) s

end Sys2Proof.Machine
end

