-- ==== Sys2Proof/Machine/Scalar.lean ====
section
/-! DEFINITION. The scalar instructions: integer arithmetic (R65 to R71), scalar FP32 (R79, R80), scalar loads and stores
(R72 to R74), and branches and jumps (R75 to R78). -/

namespace Sys2Proof.Machine

open Sys2Proof

/-- What a word answers: it always completes, traps or waits, which the state records. -/
abbrev Result := Host.Outcome State Fault Refusal

/-! ## Integer arithmetic (R66 to R71) -/

/-- S[d] receives a function of S[a] and S[b]. -/
def State.int2 (s : State) (d a b : BitVec 5) (f : Word → Word → Word) : State := s.setReg d (f (s.reg a) (s.reg b))

/-- The high half of a product. -/
def mulHigh (x : Int) : Word := BitVec.ofInt 64 (x / 2 ^ 64)

/-- The quotient of R67: all ones by 0, and −2⁶³ by −1 wraps. -/
def divSigned (x y : Word) : Word := if y = 0 then BitVec.allOnes 64 else BitVec.ofInt 64 (x.toInt.tdiv y.toInt)

/-- The remainder of R67: S[a] by 0. -/
def remSigned (x y : Word) : Word := if y = 0 then x else BitVec.ofInt 64 (x.toInt.tmod y.toInt)

/-- 1 for a condition that holds. -/
def boolWord (b : Bool) : Word := if b then 1 else 0

/-- ADD (R66). -/
def execAdd (d a b : BitVec 5) (s : State) : Result := .next (s.int2 d a b (fun x y => x + y))

/-- SUB (R66). -/
def execSub (d a b : BitVec 5) (s : State) : Result := .next (s.int2 d a b (fun x y => x - y))

/-- AND (R66). -/
def execAnd (d a b : BitVec 5) (s : State) : Result := .next (s.int2 d a b (fun x y => x &&& y))

/-- OR (R66). -/
def execOr (d a b : BitVec 5) (s : State) : Result := .next (s.int2 d a b (fun x y => x ||| y))

/-- XOR (R66). -/
def execXor (d a b : BitVec 5) (s : State) : Result := .next (s.int2 d a b (fun x y => x ^^^ y))

/-- SLL (R66). -/
def execSll (d a b : BitVec 5) (s : State) : Result := .next (s.int2 d a b (fun x y => x <<< (y.toNat % 64)))

/-- SRL (R66). -/
def execSrl (d a b : BitVec 5) (s : State) : Result := .next (s.int2 d a b (fun x y => x >>> (y.toNat % 64)))

/-- SRA (R66). -/
def execSra (d a b : BitVec 5) (s : State) : Result := .next (s.int2 d a b (fun x y => x.sshiftRight (y.toNat % 64)))

/-- SLT (R66). -/
def execSlt (d a b : BitVec 5) (s : State) : Result := .next (s.int2 d a b (fun x y => boolWord (x.slt y)))

/-- SLTU (R66). -/
def execSltu (d a b : BitVec 5) (s : State) : Result := .next (s.int2 d a b (fun x y => boolWord (x.ult y)))

/-- MIN (R66). -/
def execMin (d a b : BitVec 5) (s : State) : Result := .next (s.int2 d a b (fun x y => if x.sle y then x else y))

/-- MAX (R66). -/
def execMax (d a b : BitVec 5) (s : State) : Result := .next (s.int2 d a b (fun x y => if x.sle y then y else x))

/-- MINU (R66). -/
def execMinu (d a b : BitVec 5) (s : State) : Result := .next (s.int2 d a b (fun x y => if x.ule y then x else y))

/-- MAXU (R66). -/
def execMaxu (d a b : BitVec 5) (s : State) : Result := .next (s.int2 d a b (fun x y => if x.ule y then y else x))

/-- MUL (R66). -/
def execMul (d a b : BitVec 5) (s : State) : Result := .next (s.int2 d a b (fun x y => x * y))

/-- MULH (R66). -/
def execMulh (d a b : BitVec 5) (s : State) : Result := .next (s.int2 d a b (fun x y => mulHigh (x.toInt * y.toInt)))

/-- MULHU (R66). -/
def execMulhu (d a b : BitVec 5) (s : State) : Result := .next (s.int2 d a b (fun x y => mulHigh (x.toNat * y.toNat : Nat)))

/-- DIV (R67). -/
def execDiv (d a b : BitVec 5) (s : State) : Result := .next (s.int2 d a b (fun x y => divSigned x y))

/-- DIVU (R67). -/
def execDivu (d a b : BitVec 5) (s : State) : Result := .next (s.int2 d a b (fun x y => if y = 0 then BitVec.allOnes 64 else x / y))

/-- REM (R67). -/
def execRem (d a b : BitVec 5) (s : State) : Result := .next (s.int2 d a b (fun x y => remSigned x y))

/-- REMU (R67). -/
def execRemu (d a b : BitVec 5) (s : State) : Result := .next (s.int2 d a b (fun x y => if y = 0 then x else x % y))

/-- POPC (R66). -/
def execPopc (d a : BitVec 5) (s : State) : Result := .next (s.setReg d (BitVec.ofNat 64 (popCount 64 (s.reg a).toNat)))

/-- CLZ (R66). -/
def execClz (d a : BitVec 5) (s : State) : Result := .next (s.setReg d (BitVec.ofNat 64 (leadingZeros 64 (s.reg a).toNat)))

/-- CTZ (R66). -/
def execCtz (d a : BitVec 5) (s : State) : Result := .next (s.setReg d (BitVec.ofNat 64 (trailingZeros 64 (s.reg a).toNat)))

/-- ADDI: the immediate is sign-extended (R68). -/
def execAddi (d a : BitVec 5) (imm : BitVec 16) (s : State) : Result :=
  let x := s.reg a
  let i : Word := imm.signExtend 64
  .next (s.setReg d (x + i))

/-- ANDI: the immediate is sign-extended (R68). -/
def execAndi (d a : BitVec 5) (imm : BitVec 16) (s : State) : Result :=
  let x := s.reg a
  let i : Word := imm.signExtend 64
  .next (s.setReg d (x &&& i))

/-- ORI: the immediate is sign-extended (R68). -/
def execOri (d a : BitVec 5) (imm : BitVec 16) (s : State) : Result :=
  let x := s.reg a
  let i : Word := imm.signExtend 64
  .next (s.setReg d (x ||| i))

/-- XORI: the immediate is sign-extended (R68). -/
def execXori (d a : BitVec 5) (imm : BitVec 16) (s : State) : Result :=
  let x := s.reg a
  let i : Word := imm.signExtend 64
  .next (s.setReg d (x ^^^ i))

/-- SLTI: the immediate is sign-extended (R68). -/
def execSlti (d a : BitVec 5) (imm : BitVec 16) (s : State) : Result :=
  let x := s.reg a
  let i : Word := imm.signExtend 64
  .next (s.setReg d (boolWord (x.slt i)))

/-- SLLI (R69). -/
def execSlli (d a : BitVec 5) (n : BitVec 6) (s : State) : Result :=
  let x := s.reg a
  .next (s.setReg d (x <<< n.toNat))

/-- SRLI (R69). -/
def execSrli (d a : BitVec 5) (n : BitVec 6) (s : State) : Result :=
  let x := s.reg a
  .next (s.setReg d (x >>> n.toNat))

/-- SRAI (R69). -/
def execSrai (d a : BitVec 5) (n : BitVec 6) (s : State) : Result :=
  let x := s.reg a
  .next (s.setReg d (x.sshiftRight n.toNat))

/-- LUI (R70). -/
def execLui (d : BitVec 5) (i : BitVec 21) (s : State) : Result := .next (s.setReg d (i.signExtend 64 <<< 16))

/-- LQA: the address of a convoy relative to this one (R71). -/
def execLqa (d : BitVec 5) (i : BitVec 21) (s : State) : Result := .next (s.setReg d (s.cv.addr + (i.signExtend 64 <<< 4)))

/-! ## Scalar FP32 (R79, R80) -/

/-- The FP32 pattern in a scalar register. -/
def State.fp (s : State) (a : BitVec 5) : Nat := (s.reg a).toNat % 2 ^ 32

/-- The rounding mode in frm. -/
def State.frm (s : State) : Nat := s.th.csr.frm.toNat

/-- A result and its flags reach S[d] and fflags. -/
def State.fpResult (s : State) (d : BitVec 5) (r : Nat × BitVec 6) : State := (s.setReg d (BitVec.ofNat 64 r.1)).orFlags r.2

/-- FADD (R79, R80). -/
def execFadd (d a b : BitVec 5) (s : State) : Result := .next (s.fpResult d (fpAdd fmtF32 s.frm (s.fp a) (s.fp b)))

/-- FSUB (R79, R80). -/
def execFsub (d a b : BitVec 5) (s : State) : Result := .next (s.fpResult d (fpSub fmtF32 s.frm (s.fp a) (s.fp b)))

/-- FMUL (R79, R80). -/
def execFmul (d a b : BitVec 5) (s : State) : Result := .next (s.fpResult d (fpMul fmtF32 s.frm (s.fp a) (s.fp b)))

/-- FDIV (R79, R80). -/
def execFdiv (d a b : BitVec 5) (s : State) : Result := .next (s.fpResult d (fpDiv fmtF32 s.frm (s.fp a) (s.fp b)))

/-- FMIN (R79, R80). -/
def execFmin (d a b : BitVec 5) (s : State) : Result := .next (s.fpResult d (fpMinMax fmtF32 false (s.fp a) (s.fp b)))

/-- FMAX (R79, R80). -/
def execFmax (d a b : BitVec 5) (s : State) : Result := .next (s.fpResult d (fpMinMax fmtF32 true (s.fp a) (s.fp b)))

/-- FSQRT (R79, R80). -/
def execFsqrt (d a : BitVec 5) (s : State) : Result := .next (s.fpResult d (fpSqrt fmtF32 s.frm (s.fp a)))

/-- A comparison's 0 or 1 and its flags. -/
def State.fpTest (s : State) (d a b : BitVec 5) (r : FRel) : State :=
  let t := fpRel fmtF32 r (s.fp a) (s.fp b)
  s.fpResult d (if t.1 then 1 else 0, t.2)

/-- FEQ (R79, R80). -/
def execFeq (d a b : BitVec 5) (s : State) : Result := .next (s.fpTest d a b .eq)

/-- FLT (R79, R80). -/
def execFlt (d a b : BitVec 5) (s : State) : Result := .next (s.fpTest d a b .lt)

/-- FLE (R79, R80). -/
def execFle (d a b : BitVec 5) (s : State) : Result := .next (s.fpTest d a b .le)

/-- FCVTFI: int64 to FP32 (R79). -/
def execFcvtfi (d a : BitVec 5) (s : State) : Result := .next (s.fpResult d (fpOfInt fmtF32 s.frm (s.reg a).toInt))

/-- FCVTIF: FP32 to int64, saturating (R79, R80). -/
def execFcvtif (d a : BitVec 5) (s : State) : Result := .next (s.fpResult d (fpToInt fmtF32 s.frm 64 (s.fp a)))

/-! ## Scalar loads and stores (R72 to R74) -/

/-- S[a] + sext(off12). -/
def State.scalarAddr (s : State) (a : BitVec 5) (o : BitVec 12) : Word := s.reg a + o.signExtend 64

/-- A scalar load of `n` bytes, sign- or zero-extended into S[d]. -/
def State.loadReg (s : State) (d a : BitVec 5) (c : BitVec 4) (o : BitVec 12) (n : Nat) (signed : Bool) : State :=
  match s.scalarLoad (s.scalarAddr a o) n c.toNat with
  | (none, s) => s
  | (some x, s) =>
    let v : Word := BitVec.ofNat 64 x
    s.setReg d (if signed then sextBits (8 * n) v else v)

/-- LDB (R72). -/
def execLdb (d a : BitVec 5) (c : BitVec 4) (o : BitVec 12) (s : State) : Result := .next (s.loadReg d a c o 1 true)

/-- LDBU (R72). -/
def execLdbu (d a : BitVec 5) (c : BitVec 4) (o : BitVec 12) (s : State) : Result := .next (s.loadReg d a c o 1 false)

/-- LDH (R72). -/
def execLdh (d a : BitVec 5) (c : BitVec 4) (o : BitVec 12) (s : State) : Result := .next (s.loadReg d a c o 2 true)

/-- LDHU (R72). -/
def execLdhu (d a : BitVec 5) (c : BitVec 4) (o : BitVec 12) (s : State) : Result := .next (s.loadReg d a c o 2 false)

/-- LDW (R72). -/
def execLdw (d a : BitVec 5) (c : BitVec 4) (o : BitVec 12) (s : State) : Result := .next (s.loadReg d a c o 4 true)

/-- LDWU (R72). -/
def execLdwu (d a : BitVec 5) (c : BitVec 4) (o : BitVec 12) (s : State) : Result := .next (s.loadReg d a c o 4 false)

/-- LDD (R72). -/
def execLdd (d a : BitVec 5) (c : BitVec 4) (o : BitVec 12) (s : State) : Result := .next (s.loadReg d a c o 8 false)

/-- STB (R72). -/
def execStb (d a : BitVec 5) (c : BitVec 4) (o : BitVec 12) (s : State) : Result :=
  .next (s.scalarStore (s.scalarAddr a o) 1 c.toNat (s.reg d))

/-- STH (R72). -/
def execSth (d a : BitVec 5) (c : BitVec 4) (o : BitVec 12) (s : State) : Result :=
  .next (s.scalarStore (s.scalarAddr a o) 2 c.toNat (s.reg d))

/-- STW (R72). -/
def execStw (d a : BitVec 5) (c : BitVec 4) (o : BitVec 12) (s : State) : Result :=
  .next (s.scalarStore (s.scalarAddr a o) 4 c.toNat (s.reg d))

/-- STD (R72). -/
def execStd (d a : BitVec 5) (c : BitVec 4) (o : BitVec 12) (s : State) : Result :=
  .next (s.scalarStore (s.scalarAddr a o) 8 c.toNat (s.reg d))

/-! ## Branches and jumps (R75 to R78) -/

/-- The next convoy is at a target, or the fault of R22 or R78 is raised: alignment first. -/
def State.transfer (s : State) (target : Word) : State :=
  if target.toNat % 16 ≠ 0 then s.raiseHere 0x03 (addrInfo target 3)
  else if !canonical target || isScratchAddr target then s.raiseHere 0x06 (addrInfo target 3)
  else s.onCv (fun c => { c with next := some target })

/-- A convoy-relative target; a wrap past either end of the address space is non-canonical (R78). -/
def State.transferBy (s : State) (off : Int) : State :=
  let t := (s.cv.addr.toNat : Int) + off * 16
  if t < 0 || 2 ^ 64 ≤ t then s.raiseHere 0x06 (addrInfo (BitVec.ofInt 64 t) 3) else s.transfer (BitVec.ofInt 64 t)

/-- A conditional branch (R75). -/
def State.branch (s : State) (taken : Bool) (o : BitVec 16) : State := if taken then s.transferBy o.toInt else s

/-- BEQ (R75). -/
def execBeq (a b : BitVec 5) (o : BitVec 16) (s : State) : Result := .next (s.branch (s.reg a = s.reg b) o)

/-- BNE (R75). -/
def execBne (a b : BitVec 5) (o : BitVec 16) (s : State) : Result := .next (s.branch (s.reg a ≠ s.reg b) o)

/-- BLT (R75). -/
def execBlt (a b : BitVec 5) (o : BitVec 16) (s : State) : Result := .next (s.branch ((s.reg a).slt (s.reg b)) o)

/-- BGE (R75). -/
def execBge (a b : BitVec 5) (o : BitVec 16) (s : State) : Result := .next (s.branch ((s.reg b).sle (s.reg a)) o)

/-- BLTU (R75). -/
def execBltu (a b : BitVec 5) (o : BitVec 16) (s : State) : Result := .next (s.branch ((s.reg a).ult (s.reg b)) o)

/-- BGEU (R75). -/
def execBgeu (a b : BitVec 5) (o : BitVec 16) (s : State) : Result := .next (s.branch ((s.reg b).ule (s.reg a)) o)

/-- J (R76). -/
def execJ (o : BitVec 26) (s : State) : Result := .next (s.transferBy o.toInt)

/-- JAL: lk receives the following convoy's address (R76). -/
def execJal (o : BitVec 26) (s : State) : Result :=
  let s' := s.transferBy o.toInt
  .next (if s'.goes then s'.setReg 31 (s.cv.addr + 16) else s')

/-- JALR: the target comes from S[a] before the link is written (R77). -/
def execJalr (d a : BitVec 5) (i : BitVec 16) (s : State) : Result :=
  let s' := s.transfer (s.reg a + i.signExtend 64)
  .next (if s'.goes then s'.setReg d (s.cv.addr + 16) else s')

end Sys2Proof.Machine
end

