-- ==== Sys2Proof/Machine/Diag.lean ====
section
/-! DEFINITION. The diagonal engine (R185 to R212): spans, the shape checks, accumulating words and their completion, readout
and writeback, and the issue-budget governor. -/

namespace Sys2Proof.Machine

open Sys2Proof

/-! ## Accumulators and spans (R189 to R191) -/

/-- The configuration of an accumulator; every member of a span holds its span's. -/
def Thread.cfg (t : Thread) (a : Nat) : Word := vget t.accCfg a defaultAccCfg

/-- The head of the span that an accumulator belongs to: heads are multiples of their span (R189). -/
def Thread.spanHead (t : Thread) (a : Nat) : Nat := a / cfgSpan (t.cfg a) * cfgSpan (t.cfg a)

/-- Flat element `x` of the span at `head`, as an FP32 code (R189). -/
def Thread.flat (t : Thread) (head x : Nat) : Nat := ((vget t.accs (head + x / 2048) 0).extractLsb' (x % 2048 * 32) 32).toNat

/-- Write element `i` of an accumulator. -/
def Thread.putAcc (t : Thread) (a i : Nat) (v : BitVec 32) : Thread :=
  let m : BitVec 65536 := BitVec.ofNat 65536 0xFFFFFFFF <<< (32 * i)
  { t with accs := vput t.accs a ((vget t.accs a 0 &&& ~~~m) ||| (v.setWidth 65536 <<< (32 * i))) }

/-- Write flat element `x` of the span at `head`. -/
def Thread.putFlat (t : Thread) (head x : Nat) (v : Nat) : Thread := t.putAcc (head + x / 2048) (x % 2048) (BitVec.ofNat 32 v)

/-- The flat element of a linear span is void: its column lies outside the result (R185). -/
def flatVoid (c : Word) (x : Nat) : Bool :=
  cfgMode c = 0 &&
  (let col : Int := ((x % cfgL c : Nat) : Int) + cfgO c + ((x / cfgL c : Nat) : Int)
   col < 0 || (cfgN c : Int) ≤ col)

/-- Final groups of a span with every word complete (R191). -/
def fullMark (c : Word) : Nat := (cfgQ c * cfgL c + 63) / 64

/-! ## Completion of accumulating words (R200, R203 to R205) -/

/-- An operand element of an accepted word. -/
def DiagWord.at_ (w : DiagWord) (rows : List (BitVec 32768)) (e : Nat) : Fp :=
  (fmtOfSew w.sew).decode (((rows.getD (e / w.per) 0).extractLsb' (e % w.per * w.sew) w.sew).toNat)

/-- A list of products enters a flat element in runs of 8 (R200); `fuel` bounds the number of runs. -/
def gainRuns : Nat → Nat → List (Fp × BitVec 6) → Nat × BitVec 6
  | 0, acc, _ => (acc, 0)
  | fuel + 1, acc, ps =>
    if ps.isEmpty then (acc, 0)
    else
      let (r, f) := accumulateRun acc (ps.take 8)
      let (r', f') := gainRuns fuel r (ps.drop 8)
      (r', f ||| f')

/-- A thread's flat element gains products; the flags go to fflags of the thread (R200). -/
def Thread.gain (t : Thread) (head x : Nat) (ps : List (Fp × BitVec 6)) : Thread :=
  let (r, f) := gainRuns (ps.length / 8 + 1) (t.flat head x) ps
  let t := t.putFlat head x r
  { t with csr := { t.csr with fflags := t.csr.fflags ||| f } }

/-- d1, d2 and kin of DMAC; s and j of DMACS and DMACT (R203). -/
def opD1 (c : Word) : Int := (c.extractLsb' 0 16).toInt
def opD2 (c : Word) : Int := (c.extractLsb' 16 16).toInt
def opKin (c : Word) : Nat := (c.extractLsb' 32 16).toNat
def opJ (c : Word) : Nat := (c.extractLsb' 16 12).toNat

/-- The term of row `i` of a shifted-product word: factors and target diagonal, or nothing where it is void (R203). DESIGN CHOICE (log 70): the
t of DMACT enters the product as it stands, so that a signalling NaN raises NV there (R200) and is not quieted by its widening. -/
def DiagWord.term (w : DiagWord) (i : Nat) : Option (Fp × Fp × Int) :=
  let n : Int := cfgN w.cfg
  let row : Int := (i : Nat)
  let shifted : Int := row + opD1 w.op
  let inVl (x : Int) : Bool := 0 ≤ x && x < (w.vl : Int)
  if w.fn = 2 then
    if inVl row && inVl shifted && shifted < (opKin w.op : Int) && 0 ≤ shifted + opD2 w.op && shifted + opD2 w.op < n then
      some (w.at_ w.va i, w.at_ w.vb shifted.toNat, opD1 w.op + opD2 w.op - cfgO w.cfg)
    else none
  else if w.fn = 3 then
    if inVl row && inVl shifted then some (w.at_ w.va i, w.at_ w.vb shifted.toNat, (opJ w.op : Int)) else none
  else
    if inVl shifted then some (fmtBF16.decode (w.op.extractLsb' 48 16).toNat, w.at_ w.vb shifted.toNat, (opJ w.op : Int)) else none

/-- The target of a DMAC lies in the span (R204). -/
def DiagWord.fits (w : DiagWord) : Bool :=
  w.fn ≠ 2 ||
  (let j := opD1 w.op + opD2 w.op - cfgO w.cfg
   0 ≤ j && j < (cfgQ w.cfg : Int))

/-- A shifted-product word's effect on its thread (R203, R204). -/
def Thread.shifted (t : Thread) (w : DiagWord) : Thread :=
  if !w.fits then { t with csr := { t.csr with fflags := t.csr.fflags ||| flagDfill } }
  else (List.range (cfgL w.cfg)).foldl (fun t i =>
    if !w.mask.bit w.sew i then t
    else match w.term i with
      | none => t
      | some (x, y, j) =>
        let col : Int := (i : Nat) + cfgO w.cfg + j
        if cfgMode w.cfg = 0 && (col < 0 || (cfgN w.cfg : Int) ≤ col) then t
        else t.gain w.head (j.toNat * cfgL w.cfg + i) [Fp.mul x y]) t

/-- Flat element `x` of a tile product (R205). -/
def Thread.tileElem (t : Thread) (w : DiagWord) (x : Nat) : Thread :=
  let n := cfgN w.cfg
  let c := x / n
  let i := x % n
  t.gain w.head x ((List.range n).map (fun d => Fp.mul (w.at_ w.va (d * n + i)) (w.at_ w.vb ((c + n - d) % n * n + (i + d) % n))))

/-- Flat groups of a tile product, ascending: those from `lo` up to `hi`, excluded (R205). -/
def Thread.tileGroups (t : Thread) (w : DiagWord) (lo hi : Nat) : Thread :=
  (span (64 * lo) (min (64 * hi) (cfgN w.cfg * cfgN w.cfg))).foldl (fun t x => t.tileElem w x) t

/-- What is left of an accepted word is done. -/
def Thread.complete (t : Thread) (w : DiagWord) : Thread := if w.fn = 5 then t.tileGroups w w.group (fullMark w.cfg) else t.shifted w

/-- The engine of a core completes its oldest word (R196, R198). -/
def State.completeDiag (s : State) (core : Nat) : State :=
  let r := s.coreRec core
  match r.diag with
  | [] => s
  | w :: rest => (s.putCore { r with diag := rest }).onThreads (fun t => t.uid == w.uid) (fun t => t.complete w)

/-- The engine of a core goes on with its oldest word: a tile product makes its next flat group final, by free choice, or is completed
(R205). -/
def State.advanceDiag (s : State) (core : Nat) : State :=
  let r := s.coreRec core
  match r.diag with
  | [] => s
  | w :: rest =>
    if w.fn = 5 && w.group + 1 < fullMark w.cfg then
      let (one, s) := s.freeChoice
      if one then
        (s.putCore { r with diag := { w with group := w.group + 1 } :: rest }).onThreads (fun t => t.uid == w.uid)
          (fun t => t.tileGroups w w.group (w.group + 1))
      else s.completeDiag core
    else s.completeDiag core

/-- The engine of a core completes every word it holds, in order. -/
def State.drainDiag (s : State) (core : Nat) : State :=
  (s.coreRec core).diag.foldl (fun s _ => s.completeDiag core) s

/-- The words that the current thread's later words wait for complete: the core's queue, then those of this convoy (log 15). -/
def State.settleDiag (s : State) : State :=
  let s := s.drainDiag s.th.core
  let s := s.cv.diags.reverse.foldl (fun s w => s.onTh (·.complete w)) s
  s.onCv (fun c => { c with diags := [] })

/-! ## Checks (R193, R194) -/

/-- A diagonal-shape fault with its reason (R194). -/
def State.shapeFault (s : State) (reason : Nat) : State := s.raiseHere 0x0B (BitVec.ofNat 64 reason)

/-- The checks of R193: the SEW of a floating-point word, alignment, the other checks of sub-code 7, then the accumulator's and the
groups' allocation (log 21). -/
def State.checkDiag (s : State) (a : BitVec 3) (gs : List Grp) (fp : Bool) : State :=
  if fp && s.sew = 64 then s.illegal 7 0
  else match gs.find? (fun g => g.reg % g.align ≠ 0) with
  | some g => s.illegal 4 g.reg
  | none =>
    if gs.any s.badChunk || gs.any s.badBound || s.breaksWhole gs [] then s.illegal 7 0
    else if s.th.naccs ≤ a.toNat then s.allocFault 1 a.toNat
    else s.checkWord gs [] false

/-- The accumulator is the head of its span (reason 3). -/
def State.checkHead (s : State) (a : BitVec 3) : State := if s.th.spanHead a.toNat = a.toNat then s else s.shapeFault 3

/-! ## DCFG, DZERO, DWMARK (R201, R202, R208) -/

/-- Every element of accumulators [a, a + n) is +0. -/
def Thread.zeroAccs (t : Thread) (a n : Nat) : Thread :=
  (List.range n).foldl (fun t i => { t with accs := vput t.accs (a + i) 0 }) t

/-- DCFG's effect (R201): spans it cuts are dissolved to the default configuration. -/
def Thread.configure (t : Thread) (a : Nat) (c : Word) : Thread :=
  let hit (j : Nat) : Bool :=
    let h := t.spanHead j
    h < a + cfgSpan c && a < h + cfgSpan (t.cfg j)
  (List.range 8).foldl (fun u j =>
    if a ≤ j && j < a + cfgSpan c then { u with accCfg := vput u.accCfg j c, accs := vput u.accs j 0 }
    else if hit j then { u with accCfg := vput u.accCfg j defaultAccCfg, accs := vput u.accs j 0 } else u) t

/-- DCFG (R190, R201). -/
def execDcfg (x : BitVec 3) (c : BitVec 5) (s : State) : Result :=
  let s := s.checkDiag x [] false
  let cfg := s.reg c
  .next (if !s.goes then s
    else if !cfgOk cfg then s.shapeFault 1
    else if x.toNat % cfgSpan cfg ≠ 0 || s.th.naccs < x.toNat + cfgSpan cfg then s.shapeFault 2
    else s.settleDiag.onTh (fun t => t.configure x.toNat cfg))

/-- DZERO (R202). -/
def execDzero (x : BitVec 3) (s : State) : Result :=
  let s := s.checkDiag x [] false
  let s := if s.goes then s.checkHead x else s
  .next (if s.goes then s.settleDiag.onTh (fun t => t.zeroAccs x.toNat (cfgSpan (t.cfg x.toNat))) else s)

/-- The lowest flat element that an accepted word may still write (R191, R205). DESIGN CHOICE (log 72): of a shifted-product word it is row 0 of
its target diagonal, whether or not that row is active or void. -/
def DiagWord.lowest (w : DiagWord) : Nat :=
  if w.fn = 5 then 64 * w.group
  else if w.fn = 2 then (opD1 w.op + opD2 w.op - cfgO w.cfg).toNat * cfgL w.cfg else opJ w.op * cfgL w.cfg

/-- The watermark of a span: what accepted words that are not complete leave final (R191, log 15). -/
def State.watermark (s : State) (head : Nat) : Nat :=
  let pending := ((s.coreRec s.th.core).diag ++ s.cv.diags).filter (fun w => w.uid == s.th.uid && w.head == head && w.fits)
  pending.foldl (fun m w => min m (w.lowest / 64)) (fullMark (s.th.cfg head))

/-- DWMARK (R208). -/
def execDwmark (x : BitVec 3) (c : BitVec 5) (s : State) : Result :=
  let s := s.checkDiag x [] false
  let s := if s.goes then s.checkHead x else s
  .next (if s.goes then s.setReg c (BitVec.ofNat 64 (s.watermark x.toNat)) else s)

/-! ## Accumulating words (R196, R203 to R205) -/

/-- Engine cycles of an accumulating word (R209). -/
def DiagWord.cycles (w : DiagWord) : Nat :=
  if w.fn = 5 then cfgN w.cfg ^ 3 / (if w.sew = 16 then 2048 else 512)
  else if w.sew = 16 then 1 else (cfgL w.cfg + 511) / 512

/-- The registers of a group, as they stand. -/
def State.rows (s : State) (g : Grp) : List (BitVec 32768) := g.list.map (fun r => vget s.th.vregs r 0)

/-! ## The governor's charge (R210) -/

/-- A convoy with an accumulating word may issue: the charge is below the budget, or none has issued in the window. -/
def State.admits (s : State) (core : Nat) : Bool :=
  let r := s.govern core
  r.charge < r.budget.toNat || !r.issued

/-- An accumulating word that issues is charged. -/
def State.chargeDiag (s : State) (core cycles : Nat) : State :=
  let r := s.govern core
  s.putCore { r with charge := r.charge + cycles, issued := true }

/-- The convoy holds an accumulating word, charged as it issues, that the engine accepts when the convoy can no longer fault (R196,
R210). -/
def State.acceptDiag (s : State) (w : DiagWord) : State := (s.chargeDiag s.th.core w.cycles).onCv (fun c => { c with diags := w :: c.diags })

/-- DMAC, DMACS and DMACT (R203): checks, shape, chunks, then the word as the engine will execute it. -/
def State.shiftWord (s : State) (fn : Nat) (x k : BitVec 3) (gs : List Grp) (va vb : Option Grp) (c : BitVec 5) : State :=
  let s := s.checkDiag x gs true
  let s := if s.goes then s.checkHead x else s
  if !s.goes then s
  else
    let cfg := s.th.cfg x.toNat
    let op := s.reg c
    let zeros : BitVec 64 := if fn = 2 then op &&& 0xFFFF000000000000#64
      else if fn = 3 then op &&& 0xFFFFFFFFF0000000#64 else op &&& 0x0000FFFFF0000000#64
    if fn = 2 && cfgMode cfg ≠ 0 then s.shapeFault 4
    else if fn ≠ 2 && cfgQ cfg ≤ opJ op then s.shapeFault 5
    else if zeros ≠ 0 then s.shapeFault 7
    else
      let rows (s : State) (g : Option Grp) : List (BitVec 32768) := match g with
        | some g => s.rows g
        | none => []
      let word (s : State) : DiagWord :=
        ⟨s.th.uid, fn, x.toNat, cfg, s.th.mask k.toNat, s.sew, s.perReg s.sew, s.vl, rows s va, rows s vb, op, 0⟩
      if !(word s).fits && cfgFaults cfg then s.raiseHere 0x0A (BitVec.ofInt 64 (opD1 op + opD2 op))
      else
        let s := (s.consumeWhole gs).noteWhole gs [k.toNat]
        if s.goes then s.acceptDiag (word s) else s

/-- DMAC (R203, R204). -/
def execDmac (x k : BitVec 3) (a b c : BitVec 5) (s : State) : Result :=
  let ga := s.grp a .source
  let gb := s.grp b .source
  .next (s.shiftWord 2 x k [ga, gb] (some ga) (some gb) c)

/-- DMACS (R203). -/
def execDmacs (x k : BitVec 3) (a b c : BitVec 5) (s : State) : Result :=
  let ga := s.grp a .source
  let gb := s.grp b .source
  .next (s.shiftWord 3 x k [ga, gb] (some ga) (some gb) c)

/-- DMACT (R203). -/
def execDmact (x k : BitVec 3) (b c : BitVec 5) (s : State) : Result :=
  let gb := s.grp b .source
  .next (s.shiftWord 4 x k [gb] none (some gb) c)

/-- DMM (R205): the operands are checked as single registers at issue, as groups when the word executes. -/
def execDmm (x : BitVec 3) (a b c : BitVec 5) (s : State) : Result :=
  let s := s.checkDiag x [⟨a.toNat, 1, 1, .source⟩, ⟨b.toNat, 1, 1, .source⟩] true
  let s := if s.goes then s.checkHead x else s
  .next (if !s.goes then s
    else
      let cfg := s.th.cfg x.toNat
      let op := s.reg c
      let n := op.toNat % 256
      let e := s.perReg s.sew
      let r := max 1 (n * n / e)
      let ga : Grp := ⟨a.toNat, r, r, .source⟩
      let gb : Grp := ⟨b.toNat, r, r, .source⟩
      let bad (g : Grp) : Bool := g.reg % r ≠ 0 || s.th.nregs < g.reg + r
      if cfgMode cfg ≠ 1 || cfgL cfg ≠ n || cfgQ cfg ≠ n || cfgO cfg ≠ 0 || cfgN cfg ≠ n || cfgSpan cfg ≠ max 1 (n * n / 2048) then
        s.shapeFault 4
      else if !([32, 64, 128].contains n) || 8 < r || bad ga || bad gb then s.shapeFault 6
      else if op.toNat / 256 ≠ 0 then s.shapeFault 7
      else if [ga, gb].any s.badBound || s.breaksWhole [ga, gb] [] then s.illegal 7 0
      else
        let s := (s.consumeWhole [ga, gb]).noteWhole [ga, gb] []
        if s.goes then
          s.acceptDiag ⟨s.th.uid, 5, x.toNat, cfg, .bitmap 0, s.sew, e, s.vl, s.rows ga, s.rows gb, op, 0⟩
        else s)

/-! ## Readout and writeback (R206, R207) -/

/-- The engine goes on until the first `groups` flat groups of the span at `head` are final (R191, R198, R205): the words of earlier convoys, then
those of this one. -/
def State.settleGroups (s : State) (head groups : Nat) : Nat → State
  | 0 => s.settleDiag
  | fuel + 1 =>
    if groups ≤ s.watermark head then s
    else if (s.coreRec s.th.core).diag.isEmpty then s.settleDiag
    else (s.advanceDiag s.th.core).settleGroups head groups fuel

/-- The common head of DRD and DWR: checks, reason 3 and the flat range (reason 5). -/
def State.beginFlat (s : State) (x : BitVec 3) (g : Grp) (c : BitVec 5) : State :=
  let s := s.checkDiag x [g] true
  let s := if s.goes then s.checkHead x else s
  if !s.goes then s
  else
    let cfg := s.th.cfg x.toNat
    if cfgQ cfg * cfgL cfg < (s.reg c).toNat + s.vl then s.shapeFault 5 else s

/-- DRD (R206): element-wise, as soon as the groups that it reads are final (R191, R198, log 15). -/
def execDrd (x k : BitVec 3) (a c : BitVec 5) (s : State) : Result :=
  let g := s.grp a .dest
  let s := s.beginFlat x g c
  let f := (s.reg c).toNat
  let s := if s.goes && s.vstart < s.vl then s.settleGroups x.toNat ((f + s.vl + 63) / 64) (260 * ((s.coreRec s.th.core).diag.length + 1)) else s
  .next (if !s.goes then s
    else s.elementwise (.vec a.toNat s.sew s.lmul) [g] none k 0 (pureOp (fun s e =>
      let cfg := s.th.cfg x.toNat
      let v := if flatVoid cfg (f + e) then 0 else s.th.flat x.toNat (f + e)
      if s.sew = 16 then fmtBF16.encode s.frm (fmtF32.decode v) else (v, 0))))

/-- DWR (R207): element-wise. -/
def execDwr (x k : BitVec 3) (a c : BitVec 5) (s : State) : Result :=
  let g := s.grp a .source
  let s := s.beginFlat x g c
  let f := (s.reg c).toNat
  let s := if s.goes then s.settleDiag else s
  .next (if !s.goes then s
    else s.elementwise .nowhere [g] none k 0 (fun s e =>
      let cfg := s.th.cfg x.toNat
      let v := if flatVoid cfg (f + e) then 0 else widen32 (fmtOfSew s.sew) (s.elem a.toNat e s.sew)
      let y := f + e
      let q := BitVec.ofNat 32 v
      (some (0, 0), (s.onTh (fun t => t.putFlat x.toNat y v)).keep e (.acc (x.toNat + y / 2048) (y % 2048) q))))

/-! ## The governor (R210) -/

/-- The governor holds a thread's convoy back: its dgov counts each word held, saturating, once for the wait (R210). -/
def Thread.holdBack (t : Thread) (words : Nat) : Thread :=
  if t.govHeld then t
  else { t with govHeld := true, csr := { t.csr with dgov := BitVec.ofNat 32 (min 0xFFFFFFFF (t.csr.dgov.toNat + words)) } }

/-- The next governor window of a core begins (R210). -/
def State.newWindow (s : State) (core : Nat) : State :=
  let d := dieOf core
  let left := 1024 - (s.die d).window.toNat % 1024
  let s := s.onDie d (fun x => { x with window := x.window + BitVec.ofNat 64 left, cycle := x.cycle + BitVec.ofNat 64 left })
  s.putCore (s.govern core)

/-- GOVERNOR_WINDOW: the core's charge starts at zero (R210). -/
def execGovernorWindow (core : Nat) (s : State) : Result :=
  .next (if core < 4096 || (4096 ≤ core && core < 4112) then s.newWindow core else s)

/-- DIAG_WORD_COMPLETION: the engine of a core goes on with its oldest accepted word (R191, R196, R198, R200, R205). -/
def execDiagWordCompletion (core : Nat) (s : State) : Result := .next (s.advanceDiag core)

end Sys2Proof.Machine
end

