-- ==== Sys2Proof/Machine/Traits.lean ====
section
/-! DEFINITION. What the convoy asks of an instruction before it executes it: the scalar registers it reads and writes (R325, R341),
whether it works element by element (R395), is a control transfer (R34), an accumulating word (R196), a command word (R341) or
privileged (R60), starts other work, returns what others may change, and which of its values are checked at issue (R63). -/

namespace Sys2Proof

/-- What the convoy asks of an instruction. `spawns` words start work that a later word of the convoy may wait for (R325, R338, log 2);
the results of `varies` words depend on what others do meanwhile; `issue` words have their sub-code 7 checked before any word of the
convoy takes effect (R63), `sewIssue` words only that of their SEW; `tree` words work on the token tree and `changing` ones change it (R220); `unassigned` says that the control
register is none (R61). -/
structure Traits where
  reads        : List (BitVec 5) := []
  writes       : List (BitVec 5) := []
  elementWise  : Bool := false
  transfer     : Bool := false
  accumulating : Bool := false
  privileged   : Bool := false
  command      : Bool := false
  spawns       : Bool := false
  varies       : Bool := false
  issue        : Bool := false
  sewIssue     : Bool := false
  tree         : Bool := false
  changing     : Bool := false
  unassigned   : Bool := false
  event        : Bool := false
  deriving DecidableEq, Repr

/-- The scalar register that a vector word's b field names when its S bit is 1 (R30). -/
def scalarB (s : BitVec 1) (b : BitVec 5) : List (BitVec 5) := if s = 1#1 then [b] else []

/-- The traits of an instruction. A control-register word is privileged by the register it names (R60). -/
def traits : Instr → Traits
  | .add d a b | .sub d a b | .and d a b | .or d a b | .xor d a b | .sll d a b | .srl d a b | .sra d a b | .slt d a b
  | .sltu d a b | .min d a b | .max d a b | .minu d a b | .maxu d a b | .mul d a b | .mulh d a b | .mulhu d a b | .div d a b
  | .divu d a b | .rem d a b | .remu d a b | .fadd d a b | .fsub d a b | .fmul d a b | .fdiv d a b | .fmin d a b | .fmax d a b
  | .feq d a b | .flt d a b | .fle d a b | .setvlhw d a b =>
    { reads := [a, b], writes := [d] }
  | .popc d a | .clz d a | .ctz d a | .addi d a _ | .andi d a _ | .ori d a _ | .xori d a _ | .slti d a _ | .slli d a _
  | .srli d a _ | .srai d a _ | .fsqrt d a | .fcvtfi d a | .fcvtif d a | .setvl d a | .settype d a =>
    { reads := [a], writes := [d] }
  | .ldb d a _ _ | .ldbu d a _ _ | .ldh d a _ _ | .ldhu d a _ _ | .ldw d a _ _ | .ldwu d a _ _ | .ldd d a _ _ | .lda d a _ _ _ =>
    { reads := [a], writes := [d], varies := true }
  | .lui d _ | .lqa d _ | .send d _ | .spos d _ | .tjoin d =>
    { writes := [d] }
  | .stb d a _ _ | .sth d a _ _ | .stw d a _ _ | .std d a _ _ =>
    { reads := [a, d] }
  | .beq a b _ | .bne a b _ | .blt a b _ | .bge a b _ | .bltu a b _ | .bgeu a b _ =>
    { reads := [a, b], transfer := true }
  | .j _ | .trapu _ | .tret | .halt =>
    { transfer := true }
  | .jal _ =>
    { writes := [31#5], transfer := true }
  | .jalr d a _ =>
    { reads := [a], writes := [d], transfer := true }
  | .vfceq _ _ b _ _ _ s | .vfcne _ _ b _ _ _ s | .vfclt _ _ b _ _ _ s | .vfcle _ _ b _ _ _ s | .vfcgt _ _ b _ _ _ s
  | .vfcge _ _ b _ _ _ s | .vfcun _ _ b _ _ _ s | .vadd _ _ b _ _ s | .vsub _ _ b _ _ s | .vmul _ _ b _ _ s
  | .vmulh _ _ b _ _ s | .vmin _ _ b _ _ s | .vmax _ _ b _ _ s | .vminu _ _ b _ _ s | .vmaxu _ _ b _ _ s | .vand _ _ b _ _ s
  | .vor _ _ b _ _ s | .vxor _ _ b _ _ s | .vsll _ _ b _ _ s | .vsrl _ _ b _ _ s | .vsra _ _ b _ _ s | .vfadd _ _ b _ _ _ s
  | .vfsub _ _ b _ _ _ s | .vfmul _ _ b _ _ _ s | .vfdiv _ _ b _ _ _ s | .vfmin _ _ b _ _ _ s | .vfmax _ _ b _ _ _ s
  | .vfma _ _ b _ _ _ s | .vfms _ _ b _ _ _ s | .vfnma _ _ b _ _ _ s | .vfnms _ _ b _ _ _ s | .vceq _ _ b _ _ s
  | .vcne _ _ b _ _ s | .vclt _ _ b _ _ s | .vcle _ _ b _ _ s | .vcltu _ _ b _ _ s | .vcleu _ _ b _ _ s | .vcgt _ _ b _ _ s
  | .vcgtu _ _ b _ _ s | .vmerge _ _ b _ _ s =>
    { reads := scalarB s b, elementWise := true, issue := true }
  | .csrr d c =>
    { writes := [d], privileged := 0x800 ≤ c.toNat, varies := true, unassigned := 0x80A ≤ c.toNat }
  | .csrw a c | .csrs a c | .csrc a c =>
    { reads := [a], privileged := 0x800 ≤ c.toNat || c = 0x050#12, unassigned := 0x809 ≤ c.toNat }
  | .vpopc _ _ _ _ | .vclz _ _ _ _ | .vfsqrt _ _ _ _ _ | .vfrsq _ _ _ _ _ | .vfexp2 _ _ _ _ _ | .vflog2 _ _ _ _ _
  | .vfrcp _ _ _ _ _ | .vfclass _ _ _ _ | .vcvtFBf _ _ _ _ _ | .vcvtBfF _ _ _ _ _ | .vcvtFI _ _ _ _ _ | .vcvtIF _ _ _ _ _
  | .vwiden _ _ _ _ | .vwidenu _ _ _ _ | .vnarrow _ _ _ _ | .vnarrowu _ _ _ _ | .vmv _ _ _ _ | .vid _ _ | .viota _ _ _
  | .vcompress _ _ _ _ | .kand _ _ _ | .kor _ _ _ | .kxor _ _ _ | .kandn _ _ _ | .knot _ _ | .kfirst _ _ | .kvdrop _ _ _ =>
    { elementWise := true, issue := true }
  | .vbcast _ b _ =>
    { reads := [b], elementWise := true, issue := true }
  | .kvwalk _ _ b _ _ =>
    { reads := [b], elementWise := true, varies := true, issue := true }
  | .vextr d _ b | .vredsum d _ b _ _ | .vfredsum d _ b _ _ | .vfredosum d _ b _ _ | .vredmin d _ b _ _ | .vredmax d _ b _ _ =>
    { reads := [b], writes := [d], issue := true }
  | .ttprune d _ b | .ttcommit d _ b =>
    { reads := [b], writes := [d], issue := true, tree := true, changing := true }
  | .ttclr _ b =>
    { reads := [b], issue := true, tree := true, changing := true }
  | .ttadd d _ _ =>
    { writes := [d], issue := true, tree := true, changing := true }
  | .ttmask _ _ b | .ttpath _ _ b =>
    { reads := [b], issue := true, tree := true }
  | .ttcount d _ =>
    { writes := [d], issue := true, tree := true }
  | .ttpos _ _ =>
    { issue := true, tree := true }
  | .vins _ a b =>
    { reads := [a, b], issue := true }
  | .vslideup _ _ b _ _ | .vslidedn _ _ b _ _ | .vtopk _ _ b _ _ | .vscan _ _ b _ _ =>
    { reads := [b], issue := true }
  | .vpermute _ _ _ _ _ | .vexpand _ _ _ _ | .vconflict _ _ _ _ | .vrev _ _ _ _ | .kloop _ | .kpopc _ _ | .dzero _ =>
    { issue := true }
  | .vfredmini d _ _ _ | .vfredmaxi d _ _ _ | .vredminui d _ _ _ =>
    { writes := [d], issue := true }
  | .vld _ a b _ _ _ | .vlds _ a b _ _ _ | .vldb _ a b _ _ _ =>
    { reads := [a, b], elementWise := true, varies := true, issue := true }
  | .vst _ a b _ _ _ | .vsts _ a b _ _ _ =>
    { reads := [a, b], elementWise := true, issue := true }
  | .vldx _ a _ _ _ _ | .vldl _ a _ _ _ _ | .vamoadd _ a _ _ _ | .vamomin _ a _ _ _ | .vamomax _ a _ _ _ | .vamofadd _ a _ _ _ =>
    { reads := [a], elementWise := true, varies := true, issue := true }
  | .vstx _ a _ _ _ _ | .vstl _ a _ _ _ _ | .vscadd _ a _ _ _ | .vacc _ a _ _ _ =>
    { reads := [a], elementWise := true, issue := true }
  | .sbind _ a | .sseek _ a | .scopepin a _ | .decbind _ a | .qfence a =>
    { reads := [a] }
  | .sunbind _ | .fence _ _ | .fenceRel _ _ | .fenceAcq _ _ | .invro _ | .cclean _ | .cinval _ | .wait _ _ _ _ | .yield =>
    {}
  | .dcfg _ c =>
    { reads := [c] }
  | .dmac _ _ _ _ c | .dmacs _ _ _ _ c | .dmact _ _ _ c | .dmm _ _ _ c =>
    { reads := [c], accumulating := true, issue := true }
  | .drd _ _ _ c | .dwr _ _ _ c =>
    { reads := [c], elementWise := true, issue := true }
  | .dwmark _ c =>
    { writes := [c], varies := true, issue := true }
  | .kvhint _ b _ _ =>
    { reads := [b], elementWise := true, sewIssue := true }
  | .amoadd d a b _ _ _ | .amomin d a b _ _ _ | .amomax d a b _ _ _ | .amominu d a b _ _ _ | .amomaxu d a b _ _ _
  | .amoand d a b _ _ _ | .amoor d a b _ _ _ | .amoxor d a b _ _ _ | .amoswp d a b _ _ _ | .amofadd d a b _ _
  | .semwait d a b _ | .semtry d a b _ | .sempost d a b _ | .pubhw d a b _ =>
    { reads := [a, b], writes := [d], varies := true }
  | .tspawn d a b =>
    { reads := [a, b], writes := [d], spawns := true }
  | .amocas d a b _ _ _ =>
    { reads := [a, b, d], writes := [d], varies := true }
  | .stl a b _ _ _ | .accw a b _ =>
    { reads := [a, b] }
  | .merge a _ =>
    { reads := [a] }
  | .scopeput d a _ | .scopeget d a _ =>
    { reads := [a], writes := [d], varies := true }
  | .launch d a =>
    { reads := [a], writes := [d], spawns := true }
  | .bar d _ =>
    { writes := [d], varies := true }
  | .copy d a b _ =>
    { reads := [a, b, d], writes := [d], command := true }
  | .copy2d d a _ | .qcopy d a _ | .mcmd d a _ =>
    { reads := [a], writes := [d], command := true }
  | .trap a =>
    { reads := [a], transfer := true }
  | .tlbinv a b =>
    { reads := [a, b], privileged := true }
  | .ctxsave d a b | .ctxload d a b =>
    { reads := [a, b], writes := [d], privileged := true, varies := true }
  | .engrst a =>
    { reads := [a], privileged := true }
  | .migrate d a =>
    { reads := [a], writes := [d], privileged := true, command := true }
  | .eret =>
    { transfer := true, privileged := true }
  | .idle =>
    { privileged := true }
  | .convoyIssue _ | .issueAgeing _ _ | .governorWindow _ | .trapRecordWrite | .threadResume _ | .doorbell _
  | .dependenceCellRead _ | .gangPlacement _ _ | .park _ _ _ | .resume _ _ | .taskStart _ _ | .taskDeadlock _ _
  | .tjoinRelease _ _ | .launchCompletion _ | .engineCommandExecute _ | .commandCompletion _ | .mediaParameterRead _
  | .mediaEngineFailure _ _ | .pageExpand _ _ _ | .strainerDecode _ _ _ | .streamPrefetch _ _ _ | .diagWordCompletion _
  | .setvlhwWake _ | .scopeputDrainComplete _ _ | .sharedRead _ _ | .ownRead _ _ | .writeBack _ _ | .cleanEvict _ _
  | .forward _ _ _ | .invalidation _ _ | .clusterCacheEviction _ _ | .memoryScrub _ | .contextCreate _ | .contextTerminate _
  | .maxlane _ _ | .dbudget _ _ | .lostLineClear _ | .deviceResetWrite _ | .deviceRegisterWrite _ _ _ | .mgmtSemaphoreCas _ _ _
  | .holderLinkDown _ | .stageImage _ _ | .commitVersion _ _ | .setIdentity _ _ | .mgmtDeviceReset _ | .attestationRequest _ _
  | .blackBoxRead _ | .linkTraining _ _ | .flitReplay _ _ | .coldBoot | .wearUpdate _ _ _ | .idleWake _ | .fabricLinkDown _
  | .hostQueueEnable _ _ _ _ | .networkWindowResponse _ _ _ =>
    { event := true }

end Sys2Proof
end

