-- ==== Sys2Proof/Machine/Damaged.lean ====
section
/-! DEFINITION. Uncorrectable words of the register files and accumulators (R415, R417): which 64-bit words of registers an instruction
consumes, element by element or as a whole, and which it writes whole. -/

namespace Sys2Proof.Machine

open Sys2Proof

/-! ## What a word takes from the register files, and what it puts there -/

/-- The register words that an instruction consumes and writes; scalar registers stand in its traits. A vector register comes with
whether its group is held at twice the SEW. `k` governs the elements, `select` chooses between the two sources (R159), `whole` says
that the sources are read whole (R169), `all` that elements below vstart are written too, `one` names the scalar register that holds
the only index concerned (R160), `pair` that the group after the destination is written as well (R175), `packed` that the selected elements go to the lowest places (R162). -/
structure RegUse where
  k       : BitVec 3 := 0
  vsrc    : List (BitVec 5 × Bool) := []
  select  : Option (BitVec 3) := none
  ksrc    : List (BitVec 5) := []
  whole   : Bool := false
  one     : Option (BitVec 5) := none
  span    : Option (BitVec 3) := none
  square  : Option (BitVec 5 × BitVec 5 × BitVec 5) := none
  flat    : Option (BitVec 3 × BitVec 5) := none
  vdst    : Option (BitVec 5 × Bool) := none
  pair    : Bool := false
  all     : Bool := false
  packed  : Bool := false
  kdst    : List (BitVec 5) := []
  flatDst : Option (BitVec 3 × BitVec 5) := none
  zeroed  : Option (BitVec 3) := none
  deriving DecidableEq, Repr

/-- The second source where the word's b field names a vector register (R30). -/
def vectorB (s : BitVec 1) (b : BitVec 5) : List (BitVec 5 × Bool) := if s = 0#1 then [(b, false)] else []

/-- The use that an instruction makes of vector registers, masks and accumulators. -/
def regUse : Instr → RegUse
  | .vfceq d a b k e _ s | .vfcne d a b k e _ s | .vfclt d a b k e _ s | .vfcle d a b k e _ s | .vfcgt d a b k e _ s
  | .vfcge d a b k e _ s | .vfcun d a b k e _ s =>
    { k := k, vsrc := (a, false) :: vectorB s b, kdst := [d, e.setWidth 5] }
  | .vceq d a b k _ s | .vcne d a b k _ s | .vclt d a b k _ s | .vcle d a b k _ s | .vcltu d a b k _ s | .vcleu d a b k _ s
  | .vcgt d a b k _ s | .vcgtu d a b k _ s =>
    { k := k, vsrc := (a, false) :: vectorB s b, kdst := [d] }
  | .vfadd d a b k e _ s | .vfsub d a b k e _ s | .vfmul d a b k e _ s | .vfdiv d a b k e _ s | .vfmin d a b k e _ s
  | .vfmax d a b k e _ s =>
    { k := k, vsrc := (a, false) :: vectorB s b, vdst := some (d, false), kdst := [e.setWidth 5] }
  | .vfma d a b k e _ s | .vfms d a b k e _ s | .vfnma d a b k e _ s | .vfnms d a b k e _ s =>
    { k := k, vsrc := (d, false) :: (a, false) :: vectorB s b, vdst := some (d, false), kdst := [e.setWidth 5] }
  | .vadd d a b k _ s | .vsub d a b k _ s | .vmul d a b k _ s | .vmulh d a b k _ s | .vmin d a b k _ s | .vmax d a b k _ s
  | .vminu d a b k _ s | .vmaxu d a b k _ s | .vand d a b k _ s | .vor d a b k _ s | .vxor d a b k _ s | .vsll d a b k _ s
  | .vsrl d a b k _ s | .vsra d a b k _ s =>
    { k := k, vsrc := (a, false) :: vectorB s b, vdst := some (d, false) }
  | .vmerge d a b k _ s =>
    { vsrc := (a, false) :: vectorB s b, select := some k, vdst := some (d, false) }
  | .vpopc d a k _ | .vclz d a k _ | .vmv d a k _ | .vfclass d a k _ =>
    { k := k, vsrc := [(a, false)], vdst := some (d, false) }
  | .vfsqrt d a k e _ | .vfrsq d a k e _ | .vfexp2 d a k e _ | .vflog2 d a k e _ | .vfrcp d a k e _ | .vcvtFI d a k e _
  | .vcvtIF d a k e _ =>
    { k := k, vsrc := [(a, false)], vdst := some (d, false), kdst := [e.setWidth 5] }
  | .vcvtFBf d a k e _ =>
    { k := k, vsrc := [(a, false)], vdst := some (d, true), kdst := [e.setWidth 5] }
  | .vcvtBfF d a k e _ =>
    { k := k, vsrc := [(a, true)], vdst := some (d, false), kdst := [e.setWidth 5] }
  | .vwiden d a k _ | .vwidenu d a k _ =>
    { k := k, vsrc := [(a, false)], vdst := some (d, true) }
  | .vnarrow d a k _ | .vnarrowu d a k _ =>
    { k := k, vsrc := [(a, true)], vdst := some (d, false) }
  | .vbcast d _ k | .vid d k =>
    { k := k, vdst := some (d, false) }
  | .viota d a k =>
    { k := k, ksrc := [a], vdst := some (d, false) }
  | .vextr _ a b =>
    { vsrc := [(a, false)], one := some b }
  | .vins d a _ =>
    { vdst := some (d, false), one := some a }
  | .vcompress d a k _ =>
    { k := k, vsrc := [(a, false)], vdst := some (d, false), packed := true }
  | .vrev d a k _ | .vexpand d a k _ | .vconflict d a k _ | .vslideup d a _ k _ | .vslidedn d a _ k _
  | .vscan d a _ k _ =>
    { k := k, vsrc := [(a, false)], whole := true, vdst := some (d, false) }
  | .vtopk d a _ k _ =>
    { k := k, vsrc := [(a, false)], whole := true, vdst := some (d, false), pair := true, all := true }
  | .vpermute d a b k _ =>
    { k := k, vsrc := [(a, false), (b, false)], whole := true, vdst := some (d, false) }
  | .vredsum _ a _ k _ | .vfredsum _ a _ k _ | .vfredosum _ a _ k _ | .vredmin _ a _ k _ | .vredmax _ a _ k _
  | .vfredmini _ a k _ | .vfredmaxi _ a k _ | .vredminui _ a k _ =>
    { k := k, vsrc := [(a, false)] }
  | .kand d a b | .kor d a b | .kxor d a b | .kandn d a b =>
    { ksrc := [a, b], kdst := [d] }
  | .knot d a =>
    { ksrc := [a], kdst := [d] }
  | .kpopc d a =>
    { ksrc := [a], whole := true, kdst := [d], all := true }
  | .kfirst d a =>
    { ksrc := [a], kdst := [d] }
  | .kloop d =>
    { kdst := [d], all := true }
  | .ttmask d _ _ =>
    { kdst := [d], all := true }
  | .ttpos d _ =>
    { vdst := some (d, false), all := true }
  | .ttpath d _ _ =>
    { vdst := some (d, false), all := true }
  | .ttadd _ _ b =>
    { vsrc := [(b, false)], whole := true }
  | .vld v _ _ k _ _ | .vlds v _ _ k _ _ =>
    { k := k, vdst := some (v, false) }
  | .vldb v _ _ k _ _ =>
    { k := k, vdst := some (v, false) }
  | .vldx v _ b k _ _ | .vldl v _ b k _ _ =>
    { k := k, vsrc := [(b, false)], vdst := some (v, false) }
  | .vst v _ _ k _ _ | .vsts v _ _ k _ _ =>
    { k := k, vsrc := [(v, false)] }
  | .vstx v _ b k _ _ | .vstl v _ b k _ _ | .vamoadd v _ b k _ | .vamomin v _ b k _ | .vamomax v _ b k _ | .vamofadd v _ b k _
  | .vscadd v _ b k _ | .vacc v _ b k _ =>
    { k := k, vsrc := [(v, false), (b, false)] }
  | .kvwalk d a _ k _ =>
    { k := k, vsrc := [(a, false)], vdst := some (d, false) }
  | .kvhint a _ k _ | .kvdrop a k _ =>
    { k := k, vsrc := [(a, false)] }
  | .dmac x k a b _ | .dmacs x k a b _ =>
    { k := k, vsrc := [(a, false), (b, false)], span := some x }
  | .dmact x k b _ =>
    { k := k, vsrc := [(b, false)], span := some x }
  | .dmm x a b c =>
    { square := some (a, b, c), span := some x }
  | .drd x k a c =>
    { k := k, flat := some (x, c), vdst := some (a, false) }
  | .dwr x k a c =>
    { k := k, vsrc := [(a, false)], flatDst := some (x, c) }
  | .dzero x | .dcfg x _ =>
    { zeroed := some x }
  | .add _ _ _ | .sub _ _ _ | .and _ _ _ | .or _ _ _ | .xor _ _ _ | .sll _ _ _ | .srl _ _ _ | .sra _ _ _ | .slt _ _ _
  | .sltu _ _ _ | .min _ _ _ | .max _ _ _ | .minu _ _ _ | .maxu _ _ _ | .mul _ _ _ | .mulh _ _ _ | .mulhu _ _ _ | .div _ _ _
  | .divu _ _ _ | .rem _ _ _ | .remu _ _ _ | .popc _ _ | .clz _ _ | .ctz _ _ | .addi _ _ _ | .andi _ _ _ | .ori _ _ _
  | .xori _ _ _ | .slti _ _ _ | .slli _ _ _ | .srli _ _ _ | .srai _ _ _ | .lui _ _ | .lqa _ _ | .ldb _ _ _ _ | .ldbu _ _ _ _
  | .ldh _ _ _ _ | .ldhu _ _ _ _ | .ldw _ _ _ _ | .ldwu _ _ _ _ | .ldd _ _ _ _ | .stb _ _ _ _ | .sth _ _ _ _ | .stw _ _ _ _
  | .std _ _ _ _ | .beq _ _ _ | .bne _ _ _ | .blt _ _ _ | .bge _ _ _ | .bltu _ _ _ | .bgeu _ _ _ | .j _ | .jal _ | .jalr _ _ _
  | .fadd _ _ _ | .fsub _ _ _ | .fmul _ _ _ | .fdiv _ _ _ | .fsqrt _ _ | .fmin _ _ _ | .fmax _ _ _ | .feq _ _ _ | .flt _ _ _
  | .fle _ _ _ | .fcvtfi _ _ | .fcvtif _ _ | .csrr _ _ | .csrw _ _ | .csrs _ _ | .csrc _ _ | .trapu _ | .setvl _ _
  | .setvlhw _ _ _ | .settype _ _ | .sbind _ _ | .sunbind _ | .send _ _ | .sseek _ _ | .spos _ _ | .dwmark _ _ | .ttclr _ _
  | .ttprune _ _ _ | .ttcommit _ _ _ | .ttcount _ _ | .amoadd _ _ _ _ _ _ | .amomin _ _ _ _ _ _ | .amomax _ _ _ _ _ _
  | .amominu _ _ _ _ _ _ | .amomaxu _ _ _ _ _ _ | .amoand _ _ _ _ _ _ | .amoor _ _ _ _ _ _ | .amoxor _ _ _ _ _ _
  | .amoswp _ _ _ _ _ _ | .amocas _ _ _ _ _ _ | .amofadd _ _ _ _ _ | .lda _ _ _ _ _ | .stl _ _ _ _ _ | .accw _ _ _ | .merge _ _
  | .fence _ _ | .fenceRel _ _ | .fenceAcq _ _ | .invro _ | .cclean _ | .cinval _ | .scopeput _ _ _ | .scopeget _ _ _
  | .scopepin _ _ | .bar _ _ | .semwait _ _ _ _ | .semtry _ _ _ _ | .sempost _ _ _ _ | .pubhw _ _ _ _ | .wait _ _ _ _
  | .copy _ _ _ _ | .copy2d _ _ _ | .qcopy _ _ _ | .decbind _ _ | .mcmd _ _ _ | .launch _ _ | .tspawn _ _ _ | .tjoin _
  | .qfence _ | .trap _ | .tlbinv _ _ | .ctxsave _ _ _ | .ctxload _ _ _ | .engrst _ | .migrate _ _ | .tret | .yield | .eret
  | .halt | .idle | .convoyIssue _ | .issueAgeing _ _ | .governorWindow _ | .trapRecordWrite | .threadResume _ | .doorbell _
  | .dependenceCellRead _ | .gangPlacement _ _ | .park _ _ _ | .resume _ _ | .taskStart _ _ | .taskDeadlock _ _
  | .tjoinRelease _ _ | .launchCompletion _ | .engineCommandExecute _ | .commandCompletion _ | .mediaParameterRead _
  | .mediaEngineFailure _ _ | .pageExpand _ _ _ | .strainerDecode _ _ _ | .streamPrefetch _ _ _ | .diagWordCompletion _
  | .setvlhwWake _ | .scopeputDrainComplete _ _ | .sharedRead _ _ | .ownRead _ _ | .writeBack _ _ | .cleanEvict _ _
  | .forward _ _ _ | .invalidation _ _ | .clusterCacheEviction _ _ | .memoryScrub _ | .contextCreate _ | .contextTerminate _
  | .maxlane _ _ | .dbudget _ _ | .lostLineClear _ | .deviceResetWrite _ | .deviceRegisterWrite _ _ _ | .mgmtSemaphoreCas _ _ _
  | .holderLinkDown _ | .stageImage _ _ | .commitVersion _ _ | .setIdentity _ _ | .mgmtDeviceReset _ | .attestationRequest _ _
  | .blackBoxRead _ | .linkTraining _ _ | .flitReplay _ _ | .coldBoot | .wearUpdate _ _ _ | .idleWake _ | .fabricLinkDown _
  | .hostQueueEnable _ _ _ _ | .networkWindowResponse _ _ _ =>
    {}
/-- The use of a word of a convoy; a word that no check accepts uses nothing, and ENGRST and MIGRATE use scalar registers only. -/
def wordUse (w : BitVec 32) : RegUse :=
  if isEngrstWord w || isMigrateWord w then {}
  else match decodeOther w with
    | .ok i => regUse i
    | .error _ => {}

/-! ## Damaged words -/

/-- A 64-bit word of a register: class (0 vector, 1 accumulator, 2 scalar, 3 mask), register number, word. -/
abbrev RegWord := Nat × Nat × Nat

/-- The current thread's damaged register words. -/
def State.badRegs (s : State) : List RegWord :=
  s.damage.filterMap (fun x => match x with
    | .reg u c n w => if u = s.th.uid then some (c, n, w) else none
    | _ => none)

/-- The word that holds element `e` of the group at `v`. -/
def State.laneWord (s : State) (v e : Nat) (wide : Bool) : RegWord :=
  let w := if wide then 2 * s.sew else s.sew
  let per := s.perReg w
  (0, v + e / per, e % per * w / 64)

/-- The group at `v` is filled with a chunk before the word reads it (R142). -/
def State.readBound (s : State) (v : Nat) : Bool :=
  match s.th.bind v with
  | some b => !descWrite b.desc
  | none => false

/-- The word of an accumulator that holds flat element `y` of the span at `x`. -/
def flatWord (x y : Nat) : RegWord := (1, x + y / 2048, y % 2048 / 2)

/-- The register words that element `e` of an instruction consumes. -/
def State.elemWords (s : State) (u : RegUse) (e : Nat) : List RegWord :=
  let sources := match u.select with
    | some m => if s.th.active m.toNat e then u.vsrc.drop 1 else u.vsrc.take 1
    | none => u.vsrc
  let masks := u.ksrc.map (·.toNat) ++ [u.k.toNat] ++ (u.select.map (·.toNat)).toList
  (if u.whole || s.th.active u.k.toNat e then
    ((sources.filter (fun x => !s.readBound x.1.toNat)).map (fun x => s.laneWord x.1.toNat e x.2)) ++
    (match u.flat with
      | some (x, c) => [flatWord x.toNat ((s.reg c).toNat + e)]
      | none => [])
   else []) ++ (masks.filter (· ≠ 0)).map (fun k => (3, k, e / 64))

/-- A word consumes a damaged word whatever its elements: a scalar register, a span that it accumulates in, or the operands of a DMM. -/
def State.headDamaged (s : State) (reads : List (BitVec 5)) (u : RegUse) (bad : List RegWord) : Bool :=
  reads.any (fun d => d ≠ 0 && bad.contains (2, d.toNat, 0)) ||
  (match u.span with
    | some x => bad.any (fun b => b.1 == 1 && x.toNat ≤ b.2.1 && b.2.1 < x.toNat + cfgSpan (s.th.cfg x.toNat))
    | none => false) ||
  (match u.square with
    | some (a, b, c) =>
      let n := (s.reg c).toNat % 256
      (List.range (n * n)).any (fun e => [a, b].any (fun v => !s.readBound v.toNat && bad.contains (s.laneWord v.toNat e false)))
    | none => false)

/-- The element at which a word consumes a damaged register word: its first such element, or vstart for a word counted there (R415). -/
def State.damagedElem (s : State) (elementWise : Bool) (reads : List (BitVec 5)) (u : RegUse) : Option Nat :=
  let bad := s.badRegs
  let hit (e : Nat) : Bool := (s.elemWords u e).any bad.contains
  if s.headDamaged reads u bad then some s.cv.vstart0
  else if elementWise then (span s.vstart s.vl).find? hit
  else
    let elems := match u.one with
      | some r => [(s.reg r).toNat].filter (· < s.vl)
      | none => span (if u.whole then 0 else s.vstart) s.vl
    if elems.any hit then some s.cv.vstart0 else none

/-- The word faults where it consumes a damaged register word (R415, R417). -/
def State.raiseRegister (s : State) (e : Nat) : State := { s.raise 0x07 e s.registerInfo with free := s.free + 2 }

/-! ## Words made good (R417) -/

/-- A word writes element `e` of its destination. -/
def State.writesElem (s : State) (u : RegUse) (e : Nat) : Bool :=
  match u.one with
  | some r => e == (s.reg r).toNat && decide (e < s.vl)
  | none =>
    if u.packed then
      decide (s.vl ≠ 0) && decide (s.maskCount u.k.toNat (min s.vstart s.vl) ≤ e) && (s.ta || decide (e < s.maskCount u.k.toNat s.vl))
    else if e < s.vl then (u.all || decide (s.vstart ≤ e)) && (s.th.active u.k.toNat e || s.ma) else decide (s.vl ≠ 0) && s.ta

/-- A word that has gone through writes all of a register word. -/
def State.coversWord (s : State) (writes : List (BitVec 5)) (u : RegUse) (b : RegWord) : Bool :=
  match b with
  | (0, n, w) =>
    (match u.vdst with
      | some (v, wide) =>
        let width := if wide then 2 * s.sew else s.sew
        let per := s.perReg width
        let regs := if wide then 2 * s.lmul else s.lmul
        let from_ (v : Nat) : Bool := decide (v ≤ n) && decide (n < v + regs) &&
          (List.range (64 / width)).all (fun i => s.writesElem u ((n - v) * per + w * (64 / width) + i))
        from_ v.toNat || (u.pair && from_ (v.toNat + s.lmul))
      | none => false)
  | (1, n, w) =>
    (match u.zeroed with
      | some x => decide (x.toNat ≤ n) && decide (n < x.toNat + cfgSpan (s.th.cfg x.toNat))
      | none => false) ||
    (match u.flatDst with
      | some (x, c) =>
        [0, 1].all (fun i =>
          let y := (n - x.toNat) * 2048 + 2 * w + i
          let e := y - (s.reg c).toNat
          decide (x.toNat ≤ n) && decide ((s.reg c).toNat ≤ y) && decide (s.vstart ≤ e) && decide (e < s.vl) && s.th.active u.k.toNat e)
      | none => false)
  | (2, n, _) => writes.any (fun d => d.toNat == n)
  | (_, n, w) => u.kdst.any (fun d => d ≠ 0 && d.toNat == n) && (List.range 64).all (fun i => s.writesElem { u with one := none } (64 * w + i))

/-- The damaged register words that a word has written whole are sound again. -/
def State.mendRegisters (s : State) (writes : List (BitVec 5)) (u : RegUse) : State :=
  if s.cv.limit.isSome || s.cv.wait.isSome then s
  else { s with damage := s.damage.filter (fun x => match x with
    | .reg id c n w => !(id == s.th.uid && s.coversWord writes u (c, n, w))
    | _ => true) }

end Sys2Proof.Machine
end

