-- ==== Sys2Proof/Machine/Arith.lean ====
section
/-! DEFINITION. Vector arithmetic: integer and logic (R150, R151), floating point (R152 to R155), comparisons (R156),
conversions (R157, R158), moves and element placement (R159 to R162), and the mask instructions (R124, R125). -/

namespace Sys2Proof.Machine

open Sys2Proof

/-- A floating-point word is illegal at SEW 64 (R90). -/
def State.noFp (s : State) : Bool := s.sew = 64

/-! ## Integer and logic: VINT, VLOG (R150, R151) -/

/-- An integer operation at SEW, without flags. -/
def State.vint2 (s : State) (d a b : BitVec 5) (k : BitVec 3) (l sc : BitVec 1) (f : Nat → Nat → Nat → Nat) : State :=
  s.vector2 d a b k 0 l sc false (fun s _ x y => (f s.sew x y, 0))

/-- VADD (R150). -/
def execVadd (d a b : BitVec 5) (k : BitVec 3) (l sc : BitVec 1) (s : State) : Result :=
  .next (s.vint2 d a b k l sc (fun n x y => (x + y) % 2 ^ n))

/-- VSUB (R150). -/
def execVsub (d a b : BitVec 5) (k : BitVec 3) (l sc : BitVec 1) (s : State) : Result :=
  .next (s.vint2 d a b k l sc (fun n x y => (x + 2 ^ n - y) % 2 ^ n))

/-- VMUL (R150). -/
def execVmul (d a b : BitVec 5) (k : BitVec 3) (l sc : BitVec 1) (s : State) : Result :=
  .next (s.vint2 d a b k l sc (fun n x y => x * y % 2 ^ n))

/-- VMULH (R150). -/
def execVmulh (d a b : BitVec 5) (k : BitVec 3) (l sc : BitVec 1) (s : State) : Result :=
  .next (s.vint2 d a b k l sc (fun n x y => ofInt n (toSigned n x * toSigned n y / 2 ^ n)))

/-- VMIN (R150). -/
def execVmin (d a b : BitVec 5) (k : BitVec 3) (l sc : BitVec 1) (s : State) : Result :=
  .next (s.vint2 d a b k l sc (fun n x y => if toSigned n x ≤ toSigned n y then x else y))

/-- VMAX (R150). -/
def execVmax (d a b : BitVec 5) (k : BitVec 3) (l sc : BitVec 1) (s : State) : Result :=
  .next (s.vint2 d a b k l sc (fun n x y => if toSigned n x ≤ toSigned n y then y else x))

/-- VMINU (R150). -/
def execVminu (d a b : BitVec 5) (k : BitVec 3) (l sc : BitVec 1) (s : State) : Result :=
  .next (s.vint2 d a b k l sc (fun _ x y => min x y))

/-- VMAXU (R150). -/
def execVmaxu (d a b : BitVec 5) (k : BitVec 3) (l sc : BitVec 1) (s : State) : Result :=
  .next (s.vint2 d a b k l sc (fun _ x y => max x y))

/-- VAND (R151). -/
def execVand (d a b : BitVec 5) (k : BitVec 3) (l sc : BitVec 1) (s : State) : Result :=
  .next (s.vint2 d a b k l sc (fun _ x y => x &&& y))

/-- VOR (R151). -/
def execVor (d a b : BitVec 5) (k : BitVec 3) (l sc : BitVec 1) (s : State) : Result :=
  .next (s.vint2 d a b k l sc (fun _ x y => x ||| y))

/-- VXOR (R151). -/
def execVxor (d a b : BitVec 5) (k : BitVec 3) (l sc : BitVec 1) (s : State) : Result :=
  .next (s.vint2 d a b k l sc (fun _ x y => x ^^^ y))

/-- VSLL (R151). -/
def execVsll (d a b : BitVec 5) (k : BitVec 3) (l sc : BitVec 1) (s : State) : Result :=
  .next (s.vint2 d a b k l sc (fun n x y => x * 2 ^ (y % n) % 2 ^ n))

/-- VSRL (R151). -/
def execVsrl (d a b : BitVec 5) (k : BitVec 3) (l sc : BitVec 1) (s : State) : Result :=
  .next (s.vint2 d a b k l sc (fun n x y => x / 2 ^ (y % n)))

/-- VSRA (R151). -/
def execVsra (d a b : BitVec 5) (k : BitVec 3) (l sc : BitVec 1) (s : State) : Result :=
  .next (s.vint2 d a b k l sc (fun n x y => ofInt n (toSigned n x / 2 ^ (y % n))))

/-- VPOPC (R151). -/
def execVpopc (d a : BitVec 5) (k : BitVec 3) (l : BitVec 1) (s : State) : Result :=
  .next (s.vector1 d a k 0 l false (fun s _ x => (popCount s.sew x, 0)))

/-- VCLZ (R151). -/
def execVclz (d a : BitVec 5) (k : BitVec 3) (l : BitVec 1) (s : State) : Result :=
  .next (s.vector1 d a k 0 l false (fun s _ x => (leadingZeros s.sew x, 0)))

/-! ## Floating point: VFP, VFMA (R152 to R155) -/

/-- A rounded operation on two elements, in the format of SEW and the mode of frm. -/
def State.vfp2 (s : State) (d a b : BitVec 5) (k e : BitVec 3) (l sc : BitVec 1) (f : Fmt → Nat → Nat → Nat → Nat × BitVec 6) : State :=
  s.vector2 d a b k e l sc s.noFp (fun s _ x y => f (fmtOfSew s.sew) s.frm x y)

/-- The same on one element. -/
def State.vfp1 (s : State) (d a : BitVec 5) (k e : BitVec 3) (l : BitVec 1) (f : Fmt → Nat → Nat → Nat × BitVec 6) : State :=
  s.vector1 d a k e l s.noFp (fun s _ x => f (fmtOfSew s.sew) s.frm x)

/-- VFADD (R152). -/
def execVfadd (d a b : BitVec 5) (k e : BitVec 3) (l sc : BitVec 1) (s : State) : Result := .next (s.vfp2 d a b k e l sc fpAdd)

/-- VFSUB (R152). -/
def execVfsub (d a b : BitVec 5) (k e : BitVec 3) (l sc : BitVec 1) (s : State) : Result := .next (s.vfp2 d a b k e l sc fpSub)

/-- VFMUL (R152). -/
def execVfmul (d a b : BitVec 5) (k e : BitVec 3) (l sc : BitVec 1) (s : State) : Result := .next (s.vfp2 d a b k e l sc fpMul)

/-- VFDIV (R152). -/
def execVfdiv (d a b : BitVec 5) (k e : BitVec 3) (l sc : BitVec 1) (s : State) : Result := .next (s.vfp2 d a b k e l sc fpDiv)

/-- VFMIN (R152). -/
def execVfmin (d a b : BitVec 5) (k e : BitVec 3) (l sc : BitVec 1) (s : State) : Result := .next (s.vfp2 d a b k e l sc (fun f _ x y => fpMinMax f false x y))

/-- VFMAX (R152). -/
def execVfmax (d a b : BitVec 5) (k e : BitVec 3) (l sc : BitVec 1) (s : State) : Result := .next (s.vfp2 d a b k e l sc (fun f _ x y => fpMinMax f true x y))

/-- VFSQRT (R152). -/
def execVfsqrt (d a : BitVec 5) (k e : BitVec 3) (l : BitVec 1) (s : State) : Result := .next (s.vfp1 d a k e l fpSqrt)

/-- VFRSQ (R152, R154). -/
def execVfrsq (d a : BitVec 5) (k e : BitVec 3) (l : BitVec 1) (s : State) : Result := .next (s.vfp1 d a k e l fpRsqrt)

/-- VFEXP2 (R153, R154). -/
def execVfexp2 (d a : BitVec 5) (k e : BitVec 3) (l : BitVec 1) (s : State) : Result := .next (s.vfp1 d a k e l fpExp2)

/-- VFLOG2 (R153, R154). -/
def execVflog2 (d a : BitVec 5) (k e : BitVec 3) (l : BitVec 1) (s : State) : Result := .next (s.vfp1 d a k e l fpLog2)

/-- VFRCP (R153, R154). -/
def execVfrcp (d a : BitVec 5) (k e : BitVec 3) (l : BitVec 1) (s : State) : Result := .next (s.vfp1 d a k e l fpRcp)

/-- A fused operation: the addend is the destination's element as it stands; vd consumes no chunk (R153). -/
def State.vfused (s : State) (d a b : BitVec 5) (k e : BitVec 3) (l sc : BitVec 1) (negProd negAdd : Bool) : State :=
  s.vector2 d a b k e l sc s.noFp (fun s i x y => fpFma (fmtOfSew s.sew) s.frm negProd negAdd x y (s.elem d.toNat i s.sew))

/-- VFMA (R153). -/
def execVfma (d a b : BitVec 5) (k e : BitVec 3) (l sc : BitVec 1) (s : State) : Result := .next (s.vfused d a b k e l sc false false)

/-- VFMS (R153). -/
def execVfms (d a b : BitVec 5) (k e : BitVec 3) (l sc : BitVec 1) (s : State) : Result := .next (s.vfused d a b k e l sc false true)

/-- VFNMA (R153). -/
def execVfnma (d a b : BitVec 5) (k e : BitVec 3) (l sc : BitVec 1) (s : State) : Result := .next (s.vfused d a b k e l sc true true)

/-- VFNMS (R153). -/
def execVfnms (d a b : BitVec 5) (k e : BitVec 3) (l sc : BitVec 1) (s : State) : Result := .next (s.vfused d a b k e l sc true false)

/-- VFCLASS (R155). -/
def execVfclass (d a : BitVec 5) (k : BitVec 3) (l : BitVec 1) (s : State) : Result :=
  .next (s.vector1 d a k 0 l s.noFp (fun s _ x => (fpClass (fmtOfSew s.sew) x, 0)))

/-! ## Comparisons: VCMP, VFCMP (R156) -/

/-- An integer relation at SEW into a mask. -/
def State.vcmp (s : State) (d a b : BitVec 5) (k : BitVec 3) (l sc : BitVec 1) (f : Nat → Nat → Nat → Bool) : State :=
  s.compare2 d a b k 0 l sc false (fun s x y => (f s.sew x y, 0))

/-- VCEQ (R156). -/
def execVceq (d a b : BitVec 5) (k : BitVec 3) (l sc : BitVec 1) (s : State) : Result := .next (s.vcmp d a b k l sc (fun _ x y => x == y))

/-- VCNE (R156). -/
def execVcne (d a b : BitVec 5) (k : BitVec 3) (l sc : BitVec 1) (s : State) : Result := .next (s.vcmp d a b k l sc (fun _ x y => x != y))

/-- VCLT (R156). -/
def execVclt (d a b : BitVec 5) (k : BitVec 3) (l sc : BitVec 1) (s : State) : Result := .next (s.vcmp d a b k l sc (fun n x y => toSigned n x < toSigned n y))

/-- VCLE (R156). -/
def execVcle (d a b : BitVec 5) (k : BitVec 3) (l sc : BitVec 1) (s : State) : Result := .next (s.vcmp d a b k l sc (fun n x y => toSigned n x ≤ toSigned n y))

/-- VCLTU (R156). -/
def execVcltu (d a b : BitVec 5) (k : BitVec 3) (l sc : BitVec 1) (s : State) : Result := .next (s.vcmp d a b k l sc (fun _ x y => x < y))

/-- VCLEU (R156). -/
def execVcleu (d a b : BitVec 5) (k : BitVec 3) (l sc : BitVec 1) (s : State) : Result := .next (s.vcmp d a b k l sc (fun _ x y => x ≤ y))

/-- VCGT (R156). -/
def execVcgt (d a b : BitVec 5) (k : BitVec 3) (l sc : BitVec 1) (s : State) : Result := .next (s.vcmp d a b k l sc (fun n x y => toSigned n y < toSigned n x))

/-- VCGTU (R156). -/
def execVcgtu (d a b : BitVec 5) (k : BitVec 3) (l sc : BitVec 1) (s : State) : Result := .next (s.vcmp d a b k l sc (fun _ x y => y < x))

/-- A floating-point relation into a mask. -/
def State.vfcmp (s : State) (d a b : BitVec 5) (k e : BitVec 3) (l sc : BitVec 1) (r : FRel) : State :=
  s.compare2 d a b k e l sc s.noFp (fun s x y => fpRel (fmtOfSew s.sew) r x y)

/-- VFCEQ (R156). -/
def execVfceq (d a b : BitVec 5) (k e : BitVec 3) (l sc : BitVec 1) (s : State) : Result := .next (s.vfcmp d a b k e l sc .eq)

/-- VFCNE (R156). -/
def execVfcne (d a b : BitVec 5) (k e : BitVec 3) (l sc : BitVec 1) (s : State) : Result := .next (s.vfcmp d a b k e l sc .ne)

/-- VFCLT (R156). -/
def execVfclt (d a b : BitVec 5) (k e : BitVec 3) (l sc : BitVec 1) (s : State) : Result := .next (s.vfcmp d a b k e l sc .lt)

/-- VFCLE (R156). -/
def execVfcle (d a b : BitVec 5) (k e : BitVec 3) (l sc : BitVec 1) (s : State) : Result := .next (s.vfcmp d a b k e l sc .le)

/-- VFCGT (R156). -/
def execVfcgt (d a b : BitVec 5) (k e : BitVec 3) (l sc : BitVec 1) (s : State) : Result := .next (s.vfcmp d a b k e l sc .gt)

/-- VFCGE (R156). -/
def execVfcge (d a b : BitVec 5) (k e : BitVec 3) (l sc : BitVec 1) (s : State) : Result := .next (s.vfcmp d a b k e l sc .ge)

/-- VFCUN (R156). -/
def execVfcun (d a b : BitVec 5) (k e : BitVec 3) (l sc : BitVec 1) (s : State) : Result := .next (s.vfcmp d a b k e l sc .un)

/-! ## Conversions: VCVT (R157, R158) -/

/-- A conversion between a narrow and a wide group, or between two narrow ones: `wd` and `wa` say which side is wide. -/
def State.convert (s : State) (d a : BitVec 5) (k e : BitVec 3) (l : BitVec 1) (wd wa : Bool) (sews : List Nat)
    (f : State → Nat → Nat × BitVec 6) : State :=
  let gd := if wd then s.wideGrp d .dest else s.grp d .dest
  let ga := if wa then s.wideGrp a .source else s.grp a .source
  let bad := !sews.contains s.sew || ((wd || wa) && gd.overlaps ga)
  let s := s.checkWord [gd, ga] [e.toNat] bad
  if !s.goes then s
  else
    let n := s.sew
    let s := s.markLast l ga
    let s := if wa then s.consumeAll [ga] (markOf l a) else s
    s.elementwise (.vec d.toNat (if wd then 2 * n else n) gd.regs) (if wa then [] else [ga]) (markOf l a) k e
      (pureOp (fun s i => f s (s.elem a.toNat i (if wa then 2 * n else n))))

/-- VCVT.F.BF: BF16 to FP32, exact (R158). -/
def execVcvtFBf (d a : BitVec 5) (k e : BitVec 3) (l : BitVec 1) (s : State) : Result :=
  .next (s.convert d a k e l true false [16] (fun _ x => fmtF32.encode 0 (fmtBF16.decode x)))

/-- VCVT.BF.F: FP32 to BF16 (R158). -/
def execVcvtBfF (d a : BitVec 5) (k e : BitVec 3) (l : BitVec 1) (s : State) : Result :=
  .next (s.convert d a k e l false true [16] (fun s x => fmtBF16.encode s.frm (fmtF32.decode x)))

/-- VCVT.F.I: signed integer to floating point (R158). -/
def execVcvtFI (d a : BitVec 5) (k e : BitVec 3) (l : BitVec 1) (s : State) : Result :=
  .next (s.convert d a k e l false false [16, 32] (fun s x => fpOfInt (fmtOfSew s.sew) s.frm (toSigned s.sew x)))

/-- VCVT.I.F: floating point to signed integer, saturating (R158). -/
def execVcvtIF (d a : BitVec 5) (k e : BitVec 3) (l : BitVec 1) (s : State) : Result :=
  .next (s.convert d a k e l false false [16, 32] (fun s x => fpToInt (fmtOfSew s.sew) s.frm s.sew x))

/-- VWIDEN: sign extension (R158). -/
def execVwiden (d a : BitVec 5) (k : BitVec 3) (l : BitVec 1) (s : State) : Result :=
  .next (s.convert d a k 0 l true false [16, 32] (fun s x => (ofInt (2 * s.sew) (toSigned s.sew x), 0)))

/-- VWIDENU: zero extension (R158). -/
def execVwidenu (d a : BitVec 5) (k : BitVec 3) (l : BitVec 1) (s : State) : Result :=
  .next (s.convert d a k 0 l true false [16, 32] (fun _ x => (x, 0)))

/-- VNARROW: signed, clamped (R158). -/
def execVnarrow (d a : BitVec 5) (k : BitVec 3) (l : BitVec 1) (s : State) : Result :=
  .next (s.convert d a k 0 l false true [16, 32] (fun s x =>
    (ofInt s.sew (clampInt (-(2 ^ (s.sew - 1) : Nat)) ((2 ^ (s.sew - 1) : Nat) - 1) (toSigned (2 * s.sew) x)), 0)))

/-- VNARROWU: unsigned, clamped (R158). -/
def execVnarrowu (d a : BitVec 5) (k : BitVec 3) (l : BitVec 1) (s : State) : Result :=
  .next (s.convert d a k 0 l false true [16, 32] (fun s x => (min x (2 ^ s.sew - 1), 0)))

/-! ## Moves and placement: VMOV (R159 to R162) -/

/-- VMV (R159). -/
def execVmv (d a : BitVec 5) (k : BitVec 3) (l : BitVec 1) (s : State) : Result :=
  .next (s.vector1 d a k 0 l false (fun _ _ x => (x, 0)))

/-- VBCAST (R159). -/
def execVbcast (d b : BitVec 5) (k : BitVec 3) (s : State) : Result :=
  let gs := [s.grp d .dest]
  let s := s.checkWord gs [] false
  let x := (s.reg b).toNat % 2 ^ s.sew
  .next (if !s.goes then s else s.elementwise (.vec d.toNat s.sew s.lmul) gs none k 0 (pureOp (fun _ _ => (x, 0))))

/-- VMERGE: k selects for every element (R159). -/
def execVmerge (d a b : BitVec 5) (k : BitVec 3) (l sc : BitVec 1) (s : State) : Result :=
  .next (s.vector2 d a b 0 0 l sc false (fun s e x y => (if s.th.active k.toNat e then y else x, 0)))

/-- VEXTR: one element to a scalar register (R160). -/
def execVextr (d a b : BitVec 5) (s : State) : Result :=
  let gs := [s.grp a .source]
  let s := s.checkWord gs [] false
  let s := if s.goes then s.consumeWhole gs else s
  let i := (s.reg b).toNat
  .next (if s.goes then s.setReg d (if i < s.vl then BitVec.ofNat 64 (s.elem a.toNat i s.sew) else 0) else s)

/-- VINS: a scalar to one element; it emits nothing (R160). -/
def execVins (d a b : BitVec 5) (s : State) : Result :=
  let s := s.checkWord [s.grp d .plain] [] false
  let i := (s.reg a).toNat
  .next (if s.goes && i < s.vl then s.putElem d.toNat i s.sew ((s.reg b).toNat % 2 ^ s.sew) else s)

/-- VID (R161). -/
def execVid (d : BitVec 5) (k : BitVec 3) (s : State) : Result :=
  let gs := [s.grp d .dest]
  let s := s.checkWord gs [] false
  .next (if !s.goes then s else s.elementwise (.vec d.toNat s.sew s.lmul) gs none k 0 (pureOp (fun _ e => (e, 0))))

/-- VIOTA: the set bits of a mask below each index (R161). -/
def execViota (d a : BitVec 5) (k : BitVec 3) (s : State) : Result :=
  let gs := [s.grp d .dest]
  let s := s.checkWord gs [] false
  .next (if !s.goes then s
    else s.elementwise (.vec d.toNat s.sew s.lmul) gs none k 0 (pureOp (fun s e => (s.maskCount a.toNat e, 0))))

/-- VCOMPRESS: selected elements packed to the front; the place of each depends on the mask alone (R162). DEDUCED (log 76): in a convoy that
faults at an element, a write-bound destination emits the elements below it from the register as it stands (R143, R144). -/
def execVcompress (d a : BitVec 5) (k : BitVec 3) (l : BitVec 1) (s : State) : Result :=
  let gd := s.grp d .dest
  let ga := s.grp a .source
  let s := s.checkWord [gd, ga] [] (gd.overlaps ga)
  .next (if !s.goes then s
    else
      let s := s.markLast l ga
      let regs := s.boundSources [ga]
      let (s, c) := (span s.vstart s.vl).foldl (fun ((s, j) : State × Nat) e =>
        if s.stopsAt e then (s, j)
        else
          let s := s.consume regs (markOf l a) e
          if !s.stopsAt e && s.th.active k.toNat e then (s.writeElem d.toNat e j s.sew (s.elem a.toNat e s.sew), j + 1)
          else (s, j)) (s, s.maskCount k.toNat (min s.vstart s.vl))
      if s.vl = 0 || s.cv.wait.isSome then s
      else
        let s := if s.ta && s.cv.limit.isNone then s.onesFrom d.toNat c s.sew s.lmul else s
        s.emitWhole d.toNat k.toNat false)

/-! ## Mask instructions: VMASK (R124, R125) -/

/-- A bitmap computed bit by bit from vstart to vl - 1. -/
def State.maskWord (s : State) (d : BitVec 5) (f : State → Nat → Bool) : State :=
  let s := s.checkWord [] [d.toNat] false
  if !s.goes then s
  else s.elementwise (.mask d.toNat) [] none 0 0 (pureOp (fun s e => (if f s e then 1 else 0, 0)))

/-- KAND (R124). -/
def execKand (d a b : BitVec 5) (s : State) : Result := .next (s.maskWord d (fun s e => s.th.active a.toNat e && s.th.active b.toNat e))

/-- KOR (R124). -/
def execKor (d a b : BitVec 5) (s : State) : Result := .next (s.maskWord d (fun s e => s.th.active a.toNat e || s.th.active b.toNat e))

/-- KXOR (R124). -/
def execKxor (d a b : BitVec 5) (s : State) : Result := .next (s.maskWord d (fun s e => s.th.active a.toNat e != s.th.active b.toNat e))

/-- KANDN (R124). -/
def execKandn (d a b : BitVec 5) (s : State) : Result := .next (s.maskWord d (fun s e => s.th.active a.toNat e && !s.th.active b.toNat e))

/-- KNOT (R124). -/
def execKnot (d a : BitVec 5) (s : State) : Result := .next (s.maskWord d (fun s e => !s.th.active a.toNat e))

/-- A count form is written whole (R125). -/
def State.maskCountForm (s : State) (d : BitVec 5) (n : Nat) : State :=
  let s := s.checkWord [] [d.toNat] false
  if !s.goes then s
  else s.onTh (fun t => t.putMask d.toNat (.count (BitVec.ofNat 15 n) (t.csr.vtype.extractLsb' 0 2)))

/-- KLOOP (R124, R125). -/
def execKloop (d : BitVec 5) (s : State) : Result := .next (s.maskCountForm d s.vl)

/-- KPOPC (R124, R125). -/
def execKpopc (d a : BitVec 5) (s : State) : Result := .next (s.maskCountForm d (s.maskCount a.toNat s.vl))

/-- KFIRST: the lowest set index below vl, whatever vstart holds (R124, R125). -/
def execKfirst (d a : BitVec 5) (s : State) : Result :=
  let first := (List.range s.vl).find? (fun i => s.th.active a.toNat i)
  .next (s.maskWord d (fun _ e => first == some e))

end Sys2Proof.Machine
end

