-- ==== Sys2Proof/Machine/Csr.lean ====
section
/-! DEFINITION. Control registers (R81 to R84, R394), vector configuration (R109, R115, R116), user traps (R85 to R87), YIELD
(R88), and the system control transfers TRAP, ERET, HALT and IDLE (R402 to R405). -/

namespace Sys2Proof.Machine

open Sys2Proof

/-! ## Privilege (R60) -/

/-- The privileged-instruction fault of R60 in user mode. -/
def State.needPrivilege (s : State) : State := if s.privileged then s else s.raiseHere 0x02 (illegalInfo s.cv.raw 0 0 0)

/-- The privileged control registers of R394. -/
def privCsrs : List Nat := [0x800, 0x801, 0x802, 0x803, 0x804, 0x805, 0x806, 0x807, 0x808, 0x809]

/-- Privilege and assignment of a control register that a word reads or writes (R60, R61). -/
def State.checkCsr (s : State) (c : Nat) (write : Bool) : State :=
  let s := if 0x800 ≤ c || (write && c = 0x050) then s.needPrivilege else s
  if s.goes && 0x800 ≤ c && !(privCsrs.contains c && !(write && c = 0x809)) then s.illegal 6 0 else s

/-! ## vtype and vl (R109, R110, R115, R116) -/

/-- vtype takes a value, and vl shrinks to the new VLMAX; SEW code 3 is an illegal instruction (R116). -/
def State.setType (s : State) (t : BitVec 6) : State :=
  if t.extractLsb' 0 2 = 3#2 then s.illegal 7 0
  else s.onCsr (fun c => { c with vtype := t, vl := BitVec.ofNat 15 (min c.vl.toNat (vlmaxOf t s.lanes)) })

/-- The vl and the scalar result of a configuration word stand under R114. -/
def State.standVl (s : State) (d : BitVec 5) : State :=
  (s.keepStanding (.setVl s.th.csr.vl)).keepStanding (.sreg d.toNat (s.reg d))

/-- vtype, vl and the scalar result of a SETTYPE stand under R114. -/
def State.standType (s : State) (d : BitVec 5) : State := (s.keepStanding (.setType s.th.csr.vtype)).standVl d

/-- SETVL (R115). -/
def execSetvl (d a : BitVec 5) (s : State) : Result :=
  .next (if s.cv.vstart0 ≠ 0 then s
    else
      let n := min (s.reg a).toNat s.vlmax
      let s := s.onCsr (fun c => { c with vl := BitVec.ofNat 15 n })
      (s.setReg d (BitVec.ofNat 64 n)).standVl d)

/-- SETTYPE (R116). -/
def execSettype (d a : BitVec 5) (s : State) : Result :=
  .next (if s.cv.vstart0 ≠ 0 then s
    else
      let s := s.setType ((s.reg a).setWidth 6)
      if s.goes then (s.setReg d (s.th.csr.vl.setWidth 64)).standType d else s)

/-! ## Reading and writing control registers (R81 to R84, R394) -/

/-- The ring holds a record that has not been consumed (R394). -/
def State.sevent (s : State) : Bool := s.ringTail ≠ s.ringHead

/-- The value of a control register; cycle as the convoy issued (R26). -/
def State.csrValue (s : State) (c : Nat) : Word :=
  let r := s.th.csr
  let p := s.th.priv
  match c with
  | 0x000 => r.vl.setWidth 64
  | 0x001 => r.vtype.setWidth 64
  | 0x002 => r.vstart.setWidth 64
  | 0x003 => BitVec.ofNat 64 s.vlmax
  | 0x004 => r.frm.setWidth 64
  | 0x005 => r.fflags.setWidth 64
  | 0x006 => r.hwbase.setWidth 64
  | 0x007 => r.hwscope.setWidth 64
  | 0x008 => s.th.threadNo.setWidth 64
  | 0x009 => s.th.lcoreNo.setWidth 64
  | 0x00A => s.th.lgangNo.setWidth 64
  | 0x00B => s.th.lcountNo.setWidth 64
  | 0x010 => r.uth
  | 0x011 => r.uepc
  | 0x012 => r.ucause.setWidth 64
  | 0x013 => r.uinfo
  | 0x014 => r.ustat
  | 0x020 => boolWord s.th.det
  | 0x021 => r.phase.setWidth 64
  | 0x030 => r.dgov.setWidth 64
  | 0x050 => s.cv.cycle
  | 0x051 => r.cvret
  | 0x060 => r.preempted.setWidth 64
  | 0x800 => p.sstatus
  | 0x801 => p.sepc
  | 0x802 => p.scause.setWidth 64
  | 0x803 => p.sinfo
  | 0x804 => (s.cv.maxlane.getD p.maxlane).setWidth 64
  | 0x805 => p.asid.setWidth 64
  | 0x806 => p.ptroot
  | 0x807 => p.dbudget.setWidth 64
  | 0x808 => p.sth
  | 0x809 => boolWord s.sevent
  | _ => 0

/-- The value of a control register as a word that changes it finds it (R82): cycle as it counts now. -/
def State.csrNow (s : State) (c : Nat) : Word := if c = 0x050 then (s.die (dieOf s.th.core)).cycle else s.csrValue c

/-- Change the current thread's privileged registers. -/
def State.onPriv (s : State) (f : Priv → Priv) : State := s.onTh (fun t => { t with priv := f t.priv })

/-- A write of a control register, masked to its fields, with the further effects of R83 and R113. A dbudget
counts from the next window; the whole value written is held against 1,024 (R113, R210, log 48). -/
def State.csrWrite (s : State) (c : Nat) (v : Word) : State :=
  match c with
  | 0x001 => s.setType (v.setWidth 6)
  | 0x002 => (s.onCsr (fun r => { r with vstart := v.setWidth 15 })).onCv (fun k => { k with vstartSet := true })
  | 0x004 => s.onCsr (fun r => { r with frm := if 5 ≤ v.toNat % 8 then 0 else v.setWidth 3 })
  | 0x005 => s.onCsr (fun r => { r with fflags := v.setWidth 6 })
  | 0x006 => s.onCsr (fun r => { r with hwbase := v.setWidth 63 })
  | 0x007 => s.onCsr (fun r => { r with hwscope := v.setWidth 4 })
  | 0x010 => s.onCsr (fun r => { r with uth := v &&& ~~~(15#64) })
  | 0x011 => s.onCsr (fun r => { r with uepc := v &&& ~~~(15#64) })
  | 0x012 => s.onCsr (fun r => { r with ucause := v.setWidth 8 })
  | 0x013 => s.onCsr (fun r => { r with uinfo := v })
  | 0x014 => s.onCsr (fun r => { r with ustat := v &&& 0x7FFF0007#64 })
  | 0x021 => if s.th.det then s.raiseHere 0x0E 3 else s.onCsr (fun r => { r with phase := v.setWidth 32 })
  | 0x050 => s.onDie (dieOf s.th.core) (fun d => { d with cycle := v })
  | 0x060 => s.onCsr (fun r => { r with preempted := v.setWidth 2 })
  | 0x800 => s.onPriv (fun p => { p with sstatus := v &&& 0x7FFF000F#64 })
  | 0x801 => s.onPriv (fun p => { p with sepc := v &&& ~~~(15#64) })
  | 0x802 => s.onPriv (fun p => { p with scause := v.setWidth 8 })
  | 0x803 => s.onPriv (fun p => { p with sinfo := v })
  | 0x804 => s.onCv (fun k => { k with maxlane := some (v.setWidth 2) })
  | 0x805 => s.onPriv (fun p => { p with asid := v.setWidth 16 })
  | 0x806 => s.onPriv (fun p => { p with ptroot := v &&& ~~~(0xFFFF#64) })
  | 0x807 => (s.putCore (s.govern s.th.core)).onPriv (fun p => { p with dbudget := budgetOf v })
  | 0x808 => s.onPriv (fun p => { p with sth := v &&& ~~~(15#64) })
  | _ => s

/-- A control core's maxlane takes a value between convoys: vl shrinks, and slices that lose power lose their contents (R113,
log 34). -/
def State.applyMaxlane (s : State) (code : BitVec 2) : State :=
  let old := s.lanes
  let keep : BitVec 32768 := BitVec.ofNat 32768 (2 ^ (4096 * lanesOf code) - 1)
  let s := s.onTh (fun t => { t with
    priv := { t.priv with maxlane := code }
    vregs := t.vregs.map (· &&& keep)
    csr := { t.csr with vl := BitVec.ofNat 15 (min t.csr.vl.toNat (vlmaxOf t.csr.vtype (lanesOf code))) } })
  s.loseSlices s.th.core old (lanesOf code)

/-- A word that reads or writes fflags waits for the thread's diagonal words (R84, R199). -/
def State.settleFlags (s : State) (c : Nat) : State := if c = 0x005 then s.settleDiag else s

/-- CSRR (R82). -/
def execCsrr (d : BitVec 5) (c : BitVec 12) (s : State) : Result :=
  let s := s.checkCsr c.toNat false
  .next (if s.goes then
    let s := s.settleFlags c.toNat
    s.setReg d (s.csrValue c.toNat)
  else s)

/-- CSRW (R82). -/
def execCsrw (a : BitVec 5) (c : BitVec 12) (s : State) : Result :=
  let s := s.checkCsr c.toNat true
  .next (if s.goes then
    let s := s.settleFlags c.toNat
    s.csrWrite c.toNat (s.reg a)
  else s)

/-- CSRS (R82). -/
def execCsrs (a : BitVec 5) (c : BitVec 12) (s : State) : Result :=
  let s := s.checkCsr c.toNat true
  .next (if s.goes then
    let s := s.settleFlags c.toNat
    s.csrWrite c.toNat (s.csrNow c.toNat ||| s.reg a)
  else s)

/-- CSRC (R82). -/
def execCsrc (a : BitVec 5) (c : BitVec 12) (s : State) : Result :=
  let s := s.checkCsr c.toNat true
  .next (if s.goes then
    let s := s.settleFlags c.toNat
    s.csrWrite c.toNat (s.csrNow c.toNat &&& ~~~s.reg a)
  else s)

/-! ## User traps and YIELD (R86 to R88) -/

/-- A trap that a word takes once its convoy's earlier words are complete: it is delivered at C + 16 (R86, R402). -/
def State.trapAfter (s : State) (cause : Nat) (info : Word) : State :=
  s.onCv (fun c => { c with trap := some ⟨cause, c.vstart0, c.word, info⟩ })

/-- TRAPU (R86). -/
def execTrapu (n : BitVec 12) (s : State) : Result := .next (s.trapAfter 0x10 (n.setWidth 64))

/-- TRET (R87, R398). -/
def execTret (s : State) : Result :=
  let s := s.transfer s.th.csr.uepc
  .next (if s.goes then (s.onTh Thread.userReturn).holdNeeds.onCv (fun c => { c with vstartSet := true }) else s)

/-- YIELD (R88). -/
def execYield (s : State) : Result := .next (s.onCv (fun c => { c with yield := true }))

/-! ## TRAP, ERET, HALT, IDLE (R402 to R405) -/

/-- TRAP (R402). -/
def execTrap (a : BitVec 5) (s : State) : Result := .next (s.trapAfter 0x11 (s.reg a))

/-- ERET (R398, R403). -/
def execEret (s : State) : Result :=
  let s := s.needPrivilege
  let s := if s.goes then s.transfer s.th.priv.sepc else s
  .next (if s.goes then (s.onTh Thread.controlReturn).holdNeeds.onCv (fun c => { c with vstartSet := true }) else s)

/-- HALT: the thread retires with its convoy (R404). -/
def execHalt (s : State) : Result := .next (s.onCv (fun c => { c with halt := true }))

/-- IDLE waits until the ring holds a record (R405). -/
def execIdle (s : State) : Result :=
  let s := s.needPrivilege
  .next (if !s.goes || s.sevent then s else s.waitFor .idle .nothing)

end Sys2Proof.Machine
end

