-- ==== Sys2Proof/Machine/Vmem.lean ====
section
/-! DEFINITION. Vector memory instructions (R128 to R136), the stream instructions (R137 to R147) and DECBIND (R353). -/

namespace Sys2Proof.Machine

open Sys2Proof

/-! ## Formats and addresses (R129, R130, R135) -/

/-- The address form of an instruction: unit stride, strided, indexed, lane-sliced, or a bit string. -/
inductive VmForm where
  | unit | strided | indexed | lane | bits
  deriving DecidableEq, Repr

/-- The form accepts the format (R130). -/
def VmForm.accepts (f : VmForm) (fmt : Nat) : Bool :=
  match f with
  | .unit => fmt < 14
  | .bits => !byteFmt fmt && fmt < 14
  | _ => byteFmt fmt

/-- The form reads an index group. -/
def VmForm.hasIndex (f : VmForm) : Bool := f == .indexed || f == .lane

/-- A scratchpad virtual address (R15). -/
def scratchVa (off : Nat) : Word := BitVec.ofNat 64 (2 ^ 63 + off)

/-- The effective address of a byte-format element, its size `n` (R129), or the fault that forming it raises: for the
lane-sliced forms the slice, the alignment and the window, all in 64-bit wrapping arithmetic (R135). DESIGN CHOICE (log 20): the detail
of a lane-sliced fault is S[a] where the base is refused, and else the scratchpad address of the offset modulo 2^17, since R135 names
no address. -/
def State.vmAddr (s : State) (form : VmForm) (a b : BitVec 5) (n e kind : Nat) : Except (Nat × Word) Word :=
  let base := s.reg a
  let addr : Except (Nat × Word) Word := match form with
    | .strided => .ok (base + BitVec.ofNat 64 e * s.reg b)
    | .indexed => .ok (base + BitVec.ofNat 64 (s.elem b.toNat e s.sew))
    | .lane =>
      let g := s.lanes
      let o := base.toNat % 2 ^ 17
      if !isScratchAddr base || o % (64 * g) ≠ 0 then .error (0x06, addrInfo base kind)
      else
        let j := (o / g + s.elem b.toNat e s.sew) % 2 ^ 64
        let x := (j / 64 * 64 * g + 64 * (e / 64 % g) + j % 64) % 2 ^ 64
        if j % n ≠ 0 then .error (0x03, addrInfo (scratchVa (x % 2 ^ 17)) kind)
        else if 2 ^ 17 ≤ x then .error (0x06, addrInfo (scratchVa (x % 2 ^ 17)) kind)
        else .ok (base - BitVec.ofNat 64 o + BitVec.ofNat 64 x)
    | _ => .ok (base + s.reg b + BitVec.ofNat 64 (n * e))
  match addr with
  | .ok x => if x.toNat % n ≠ 0 then .error (0x03, addrInfo x kind) else .ok x
  | .error f => .error f

/-- The issue checks of a vector memory word (R63, R97, R130). -/
def State.checkVm (s : State) (form : VmForm) (v b : BitVec 5) (f : BitVec 4) (load : Bool) : State × List Grp :=
  let gv := s.grp v (if load then .dest else .source)
  let gi := if form.hasIndex then [s.grp b .source] else []
  let bad := !form.accepts f.toNat || !fmtLegal f.toNat s.sew || (load && gi.any gv.overlaps)
  (s.checkWord (gv :: gi) [] bad, gv :: gi)

/-! ## Loads (R131, R136) -/

/-- Element `e` of a vector load: its register value, or a fault. -/
def State.vmLoadElem (s : State) (form : VmForm) (a b : BitVec 5) (c f : BitVec 4) (e : Nat) : Option (Nat × BitVec 6) × State :=
  let fmt := f.toNat
  let widen (r : Option (Nat × Nat) × State) : Option (Nat × BitVec 6) × State :=
    (r.1.map (fun x => (widenElem fmt s.sew x.1 x.2, 0)), r.2)
  if byteFmt fmt then
    let n := fmtBits fmt s.sew / 8
    match s.vmAddr form a b n e 0 with
    | .error (cause, i) => (none, s.raise cause e i)
    | .ok x =>
      let (r, s') := s.load x n c.toNat e false
      widen (r.map (·, 0), s')
  else
    let (base, o) := if form = .bits then (s.reg a, (s.reg b).toNat % 8) else (s.reg a + s.reg b, 0)
    widen (s.loadCode base fmt s.sew e o c.toNat e)

/-- VLDB's offset check at element vstart: above 7, or not 0 for fmt 11 (R136). DEDUCED (log 20): an offset above 7 of fmt 11, which
is also one other than 0, takes cause 0x03, R136's first sentence; the detail of an offset above 7 is the
byte in which R100 with o = S[b] places the element's first bit, and for fmt 11 the element's nibble byte. -/
def State.checkBitOffset (s : State) (form : VmForm) (a b : BitVec 5) (f : BitVec 4) : State :=
  if form ≠ .bits then s
  else
    let o := (s.reg b).toNat
    let base := s.reg a
    if 7 < o then
      s.raise 0x03 s.vstart (addrInfo (base + (if f = 11#4 then BitVec.ofNat 64 (5 * (s.vstart / 8) + s.vstart % 8 / 2)
        else BitVec.ofNat 64 ((fmtBits f.toNat 16 * s.vstart + o) / 8))) 0)
    else if f = 11#4 && o ≠ 0 then s.raise 0x04 s.vstart (addrInfo (blockAddr base s.vstart) 0)
    else s

/-- A vector load (R131). -/
def State.vmLoad (s : State) (form : VmForm) (v a b : BitVec 5) (k : BitVec 3) (c f : BitVec 4) : State :=
  let (s, gs) := s.checkVm form v b f true
  if !s.goes then s
  else
    let s := s.checkBitOffset form a b f
    s.elementwise (.vec v.toNat s.sew s.lmul) gs none k 0 (fun s e => s.vmLoadElem form a b c f e)

/-- VLD (R129, R131). -/
def execVld (v a b : BitVec 5) (k : BitVec 3) (c f : BitVec 4) (s : State) : Result := .next (s.vmLoad .unit v a b k c f)
/-- VLDS (R129, R131). -/
def execVlds (v a b : BitVec 5) (k : BitVec 3) (c f : BitVec 4) (s : State) : Result := .next (s.vmLoad .strided v a b k c f)
/-- VLDX (R129, R131). -/
def execVldx (v a b : BitVec 5) (k : BitVec 3) (c f : BitVec 4) (s : State) : Result := .next (s.vmLoad .indexed v a b k c f)
/-- VLDL (R131, R135). -/
def execVldl (v a b : BitVec 5) (k : BitVec 3) (c f : BitVec 4) (s : State) : Result := .next (s.vmLoad .lane v a b k c f)
/-- VLDB (R131, R136). -/
def execVldb (v a b : BitVec 5) (k : BitVec 3) (c f : BitVec 4) (s : State) : Result := .next (s.vmLoad .bits v a b k c f)

/-! ## Stores (R132, R104) -/

/-- Element `e` of a vector store: narrowed by frm and stored. -/
def State.vmStoreElem (s : State) (form : VmForm) (v a b : BitVec 5) (c f : BitVec 4) (e : Nat) : Option (Nat × BitVec 6) × State :=
  let fmt := f.toNat
  let (code, fl) := narrowElem fmt s.sew s.frm (s.elem v.toNat e s.sew)
  let s' := if byteFmt fmt then
      match s.vmAddr form a b (fmtBits fmt s.sew / 8) e 1 with
      | .error (cause, i) => s.raise cause e i
      | .ok x => s.storeCode x fmt s.sew 0 code c.toNat e
    else s.storeCode (s.reg a + s.reg b) fmt s.sew e code c.toNat e
  (if s'.stopsAt e then none else some (0, fl), s')

/-- The block that begins at element `b0` of a blocked store: checked, its bytes probed, its elements consumed, and written
whole. DESIGN CHOICE (log 20): where the block holds vstart, the element of its faults is vstart, since the block's first element (R104)
lies below the elements that the word handles (R114, R133). What it writes belongs to its last element, so that a faulting convoy keeps whole blocks only (R104, R396). -/
def State.vmStoreBlock (s : State) (regs : List Nat) (v a b : BitVec 5) (k : BitVec 3) (c : BitVec 4) (b0 : Nat) : State :=
  let lanes := span b0 (b0 + 8)
  let first := max b0 s.vstart
  let addr := blockAddr (s.reg a + s.reg b) b0
  let act (e : Nat) : Bool := e < s.vl && s.th.active k.toNat e
  let wholly := lanes.all act
  if s.stopsAt first then s
  else if lanes.any act && !wholly then s.raise 0x04 first (addrInfo addr 1)
  else
    let s := if wholly then s.probeStore addr first (byteAddrs addr 5) else s
    let s := (span first (min (b0 + 8) s.vl)).foldl (fun s e => if s.stopsAt e then s else s.consume regs none e) s
    if !wholly || s.stopsAt (b0 + 7) then s
    else
      let (ns, sc, fl) := encodeBlock s.frm (lanes.map (fun e => (fmtOfSew s.sew).decode (s.elem v.toNat e s.sew)))
      let bytes := blockBytes ns sc
      let s := s.noted (b0 + 7) (fun s => (List.range 5).foldl (fun s i =>
        s.store (addr + BitVec.ofNat 64 i) 1 (BitVec.ofNat 64 (bytes / 256 ^ i % 256)) (fullMask 1) c.toNat first false) s)
      s.noteFlags (b0 + 7) fl

/-- A vector store (R132); fmt 11 goes block by block (R104). -/
def State.vmStore (s : State) (form : VmForm) (v a b : BitVec 5) (k : BitVec 3) (c f : BitVec 4) : State :=
  let (s, gs) := s.checkVm form v b f false
  if !s.goes then s
  else if f = 11#4 then
    let regs := s.boundSources gs
    if s.vl ≤ s.vstart then s
    else (span (s.vstart / 8) ((s.vl + 7) / 8)).foldl (fun s i => s.vmStoreBlock regs v a b k c (8 * i)) s
  else s.elementwise .nowhere gs none k 0 (fun s e => s.vmStoreElem form v a b c f e)

/-- VST (R129, R132). -/
def execVst (v a b : BitVec 5) (k : BitVec 3) (c f : BitVec 4) (s : State) : Result := .next (s.vmStore .unit v a b k c f)
/-- VSTS (R129, R132). -/
def execVsts (v a b : BitVec 5) (k : BitVec 3) (c f : BitVec 4) (s : State) : Result := .next (s.vmStore .strided v a b k c f)
/-- VSTX (R129, R132). -/
def execVstx (v a b : BitVec 5) (k : BitVec 3) (c f : BitVec 4) (s : State) : Result := .next (s.vmStore .indexed v a b k c f)
/-- VSTL (R132, R135). -/
def execVstl (v a b : BitVec 5) (k : BitVec 3) (c f : BitVec 4) (s : State) : Result := .next (s.vmStore .lane v a b k c f)

/-! ## Stream instructions (R147) and DECBIND (R353) -/

/-- The allocation check of a register that a stream word names; no alignment is checked (R147). -/
def State.checkStreamReg (s : State) (v : BitVec 5) : State := if s.th.nregs ≤ v.toNat then s.allocFault 0 v.toNat else s

/-- A position-setting word acts: its convoy issued with vstart 0 (R114). -/
def State.setsPosition (s : State) : Bool := s.cv.vstart0 = 0

/-- Doublewords as one number, lowest first. -/
def joinWords (ws : List Word) : Nat := ws.foldr (fun w n => w.toNat + 2 ^ 64 * n) 0

/-- A WINDOW shape record, read byte by byte where it is not aligned to 8. -/
def State.loadShape (s : State) (a : Word) : Option (BitVec 256) × State :=
  if a.toNat % 8 = 0 then
    let (r, s) := s.loadDwords a 4
    (r.map (fun ws => BitVec.ofNat 256 (joinWords ws)), s)
  else
    let (r, s) := s.loadBytes 0 s.cv.vstart0 (byteAddrs a 32)
    (r.map (BitVec.ofNat 256), s)

/-- SBIND (R138, R140, R147): the descriptor is checked before the shape record of a WINDOW stream is read. DESIGN CHOICE (log 69): the
check of a ninth binding comes after that of the address and before the read. -/
def execSbind (v a : BitVec 5) (s : State) : Result :=
  let s := s.checkStreamReg v
  .next (if !s.goes || !s.setsPosition then s
    else
      let addr := s.reg a
      if addr.toNat % 64 ≠ 0 then s.raiseHere 0x03 (addrInfo addr 0)
      else if (s.th.bind v.toNat).isNone && 8 ≤ s.th.binds.length then s.illegal 7 0
      else
        match s.loadDwords addr 8 with
        | (none, s) => s
        | (some ws, s) =>
          let d : BitVec 512 := BitVec.ofNat 512 (joinWords ws)
          if !descHead d then s.illegal 7 0
          else match (if descKind d = 1 then s.loadShape (descShape d) else (some 0, s)) with
          | (none, s) => s
          | (some shape, s) =>
            if !descOk d shape then s.illegal 7 0
            else
              let b : Binding := ⟨v.toNat, d, 0, shape, false, 0, none, [], true⟩
              (s.onTh (fun t => { t with binds := b :: t.binds.filter (·.reg != v.toNat) })).keepStanding (.bind b))

/-- SUNBIND (R147). -/
def execSunbind (v : BitVec 5) (s : State) : Result :=
  let s := s.checkStreamReg v
  .next (if s.goes then s.onTh (fun t => { t with binds := t.binds.filter (·.reg != v.toNat) }) else s)

/-- SEND: the positions that remain (R147). -/
def execSend (d v : BitVec 5) (s : State) : Result :=
  let s := s.checkStreamReg v
  .next (if s.goes then
    s.setReg d (match s.th.bind v.toNat with
      | some b => BitVec.ofNat 64 (streamTotal b.desc b.shape - b.pos)
      | none => 0)
  else s)

/-- A binding moved to a position by SSEEK: the prefetch is discarded, and the strainer walks from the base again (R354). -/
def Binding.seek (b : Binding) (p : Nat) : Binding := { b with pos := min p (streamTotal b.desc b.shape), place := none, ahead := [], fresh := true }

/-- SSEEK (R147). -/
def execSseek (v a : BitVec 5) (s : State) : Result :=
  let s := s.checkStreamReg v
  let p := (s.reg a).toNat
  .next (if s.goes && s.setsPosition then (s.onBind v.toNat (·.seek p)).keepStanding (.seek v.toNat p) else s)

/-- SPOS (R147). -/
def execSpos (d v : BitVec 5) (s : State) : Result :=
  let s := s.checkStreamReg v
  .next (if s.goes then
    s.setReg d (match s.th.bind v.toNat with
      | some b => BitVec.ofNat 64 b.pos
      | none => 0)
  else s)

/-- Attachments that the strainer of a cluster holds (R353). -/
def State.attachments (s : State) (cl : Nat) : Nat :=
  ((s.threads.filter (fun t => clusterOf t.core == cl && !t.parked)).map (fun t => (t.binds.filter (·.attached)).length)).sum

/-- DECBIND (R353). -/
def execDecbind (v a : BitVec 5) (s : State) : Result :=
  let s := s.checkStreamReg v
  .next (if !s.goes then s
    else match s.th.bind v.toNat with
      | none => s.illegal 7 0
      | some b =>
        if descKind b.desc ≠ 2 || descWrite b.desc then s.illegal 7 0
        else if !b.attached && 64 ≤ s.attachments (clusterOf s.th.core) then s.waitFor .attachment .nothing
        else s.onBind v.toNat (fun b => { b with attached := true, limit := (s.reg a).toNat, place := none, ahead := [] }))

end Sys2Proof.Machine
end

