-- ==== Sys2Proof/Machine/Sync.lean ====
section
/-! DEFINITION. Scalar and vector atomics and reductions at memory (R294 to R304), fences (R305, R278), the scope-table
instructions (R307 to R309), barriers (R310, R311, R182), semaphores (R312 to R314), chain cells (R117, R118, R315) and WAIT
(R316). -/

namespace Sys2Proof.Machine

open Sys2Proof

/-! ## Where an atomic executes (R271, R277, R296, R369) -/

/-- Where an atomic's access goes: memory or scratchpad, or, for LDA, STL and the read of SETVLHW, a device register or a
window. -/
inductive AtomicPlace where
  | mem (t : Target)
  | device (off : Nat)
  | window (port : Bool) (off : Nat)
  deriving DecidableEq, Repr

/-- The place of an aligned atomic access of `n` bytes for element `elem`, `kind` 0 a load, 1 a store, 2 both; nothing where it
faults or waits. For one at the home the cluster cache has given the sector up (R271). -/
def State.atomicAt (s : State) (sc : Nat) (va : Word) (n kind elem : Nat) : Option AtomicPlace × State :=
  if va.toNat % n ≠ 0 then (none, s.raise 0x03 elem (addrInfo va kind))
  else match s.resolve va n kind elem with
    | (.fault c i, s) => (none, s.raise c elem i)
    | (.stall, s) => (none, s.waitFor (.page va kind) .nothing)
    | (.at_ t attr, s) =>
      match t with
      | .device off =>
        if kind < 2 && deviceLegal off n (kind == 1) then (some (.device off), s) else (none, s.raise 0x06 elem (addrInfo va kind))
      | .window port off => if kind < 2 then (some (.window port off), s) else (none, s.raise 0x0F elem (addrInfo va 2))
      | t =>
        let place := s.atomicPlace sc t attr (kind != 0)
        let s := match place with
          | .through cl a => s.evictSector cl a
          | _ => s
        match s.damageAt place with
        | some src => (none, s.raise 0x07 elem (dataInfo va kind src))
        | none => (some (.mem place), s)

/-- One indivisible step at a place in memory: the old value, and the new one if the operation stores (R295). At the home the line is
taken by the home's own-read (R271). -/
def State.atomicStep (s : State) (t : Target) (n : Nat) (new : Nat → Option Nat) : Nat × State :=
  match t with
  | .through cl a =>
    let s := s.evictSector cl a
    let old := s.homeRead a n
    (old, match new old with
      | some v => (((s.roEarly cl a).evictSector cl a).ownRead (s.homeAgent a) a).homeWrite a v (2 ^ (8 * n) - 1) n
      | none => s.ownRead (s.homeAgent a) a)
  | t =>
    let (old, s) := s.readAt t n
    match new old with
    | some v => (old, (s.roBefore t).writeAt t v (2 ^ (8 * n) - 1) n)
    | none => (old, s)

/-- What comes before the store of an atomic at an element: the cleaning of its own release, and of each fence that covers it (R256,
R259, R268). -/
def State.releaseFor (s : State) (own : Option Nat) (va : Word) (kind elem : Nat) : State :=
  let s := match own with
    | some i => s.releaseAt (s.scopeOf s.th i) (some va) kind elem
    | none => s
  s.releaseFences none va kind elem

/-! ## AMO (R294 to R297) -/

/-- An AMO other than LDA and STL: `new` of the old value, x and the comparand; bit 0 of the order is acquire, bit 1 release
(R30). -/
def State.amo (s : State) (d a b : BitVec 5) (sc : BitVec 4) (o : BitVec 2) (n : Nat) (new : Nat → Nat → Nat → Option Nat) :
    Option Nat × State :=
  let s := s.checkScope sc.toNat
  if !s.goes then (none, s)
  else match s.atomicAt sc.toNat (s.reg a) n 2 s.cv.vstart0 with
    | (some (.mem t), s) =>
      let s := s.releaseFor (if o.getLsbD 1 then some sc.toNat else none) (s.reg a) 2 s.cv.vstart0
      if !s.goes then (none, s)
      else
        let (old, s) := s.atomicStep t n (fun old => new old ((s.reg b).toNat % 2 ^ (8 * n)) ((s.reg d).toNat % 2 ^ (8 * n)))
        (some old, if o.getLsbD 0 then s.acquire sc.toNat else s)
    | (_, s) => (none, s)

/-- The width in bytes that the w bit names (R56). -/
def amoBytes (w : BitVec 1) : Nat := if w = 1 then 8 else 4

/-- An AMO that returns its old value sign-extended. -/
def State.amoInt (s : State) (d a b : BitVec 5) (sc : BitVec 4) (o : BitVec 2) (w : BitVec 1)
    (new : Nat → Nat → Nat → Nat → Option Nat) : Result :=
  let n := amoBytes w
  match s.amo d a b sc o n (new (8 * n)) with
  | (some old, s) => .next (s.setReg d (sextBits (8 * n) (BitVec.ofNat 64 old)))
  | (none, s) => .next s

/-- The lesser or greater of two numbers of a width, signed. -/
def pickSigned (n : Nat) (greater : Bool) (x y : Nat) : Nat :=
  if toSigned n x < toSigned n y then (if greater then y else x) else (if greater then x else y)

/-- AMOADD (R295). -/
def execAmoadd (d a b : BitVec 5) (sc : BitVec 4) (o : BitVec 2) (w : BitVec 1) (s : State) : Result :=
  s.amoInt d a b sc o w (fun n old x _ => some ((old + x) % 2 ^ n))

/-- AMOMIN (R295). -/
def execAmomin (d a b : BitVec 5) (sc : BitVec 4) (o : BitVec 2) (w : BitVec 1) (s : State) : Result :=
  s.amoInt d a b sc o w (fun n old x _ => some (pickSigned n false old x))

/-- AMOMAX (R295). -/
def execAmomax (d a b : BitVec 5) (sc : BitVec 4) (o : BitVec 2) (w : BitVec 1) (s : State) : Result :=
  s.amoInt d a b sc o w (fun n old x _ => some (pickSigned n true old x))

/-- AMOMINU (R295). -/
def execAmominu (d a b : BitVec 5) (sc : BitVec 4) (o : BitVec 2) (w : BitVec 1) (s : State) : Result :=
  s.amoInt d a b sc o w (fun _ old x _ => some (min old x))

/-- AMOMAXU (R295). -/
def execAmomaxu (d a b : BitVec 5) (sc : BitVec 4) (o : BitVec 2) (w : BitVec 1) (s : State) : Result :=
  s.amoInt d a b sc o w (fun _ old x _ => some (max old x))

/-- AMOAND (R295). -/
def execAmoand (d a b : BitVec 5) (sc : BitVec 4) (o : BitVec 2) (w : BitVec 1) (s : State) : Result :=
  s.amoInt d a b sc o w (fun _ old x _ => some (old &&& x))

/-- AMOOR (R295). -/
def execAmoor (d a b : BitVec 5) (sc : BitVec 4) (o : BitVec 2) (w : BitVec 1) (s : State) : Result :=
  s.amoInt d a b sc o w (fun _ old x _ => some (old ||| x))

/-- AMOXOR (R295). -/
def execAmoxor (d a b : BitVec 5) (sc : BitVec 4) (o : BitVec 2) (w : BitVec 1) (s : State) : Result :=
  s.amoInt d a b sc o w (fun _ old x _ => some (old ^^^ x))

/-- AMOSWP (R295). -/
def execAmoswp (d a b : BitVec 5) (sc : BitVec 4) (o : BitVec 2) (w : BitVec 1) (s : State) : Result :=
  s.amoInt d a b sc o w (fun _ _ x _ => some x)

/-- AMOCAS (R295, R296): it stores iff the old value equals the comparand. -/
def execAmocas (d a b : BitVec 5) (sc : BitVec 4) (o : BitVec 2) (w : BitVec 1) (s : State) : Result :=
  s.amoInt d a b sc o w (fun _ old x c => if old = c then some x else none)

/-- A floating-point accumulation at memory is refused in deterministic mode (R180, reason 2). -/
def State.refuseInDet (s : State) : State := if s.th.det then s.raiseHere 0x0E 2 else s

/-- AMOFADD (R297). -/
def execAmofadd (d a b : BitVec 5) (sc : BitVec 4) (o : BitVec 2) (s : State) : Result :=
  let s := s.refuseInDet
  if !s.goes then .next s
  else
    let x := (s.reg b).toNat % 2 ^ 32
    match s.amo d a b sc o 4 (fun old x _ => some (fpAdd fmtF32 0 old x).1) with
    | (some old, s) => .next ((s.setReg d (BitVec.ofNat 64 old)).orFlags (fpAdd fmtF32 0 old x).2)
    | (none, s) => .next s

/-- An acquiring or plain load as LDA makes it, at memory, a device register or a window (R269, R296). -/
def State.atomicLoad (s : State) (sc : Nat) (va : Word) (n : Nat) : Option Nat × State :=
  match s.atomicAt sc va n 0 s.cv.vstart0 with
  | (some (.mem t), s) => let (v, s) := s.atomicStep t n (fun _ => none); (some v, s)
  | (some (.device off), s) => (some (s.deviceRead off n).toNat, s)
  | (some (.window port off), s) => s.windowRead port off n s.cv.vstart0
  | (none, s) => (none, s)

/-- LDA (R295, R296). -/
def execLda (d a : BitVec 5) (sc : BitVec 4) (o w : BitVec 1) (s : State) : Result :=
  let n := amoBytes w
  let s := s.checkScope sc.toNat
  .next (if !s.goes then s
    else match s.atomicLoad sc.toNat (s.reg a) n with
      | (some v, s) => (if o = 1 then s.acquire sc.toNat else s).setReg d (sextBits (8 * n) (BitVec.ofNat 64 v))
      | (none, s) => s)

/-- STL (R295, R296). -/
def execStl (a b : BitVec 5) (sc : BitVec 4) (o w : BitVec 1) (s : State) : Result :=
  let n := amoBytes w
  let v := (s.reg b).toNat % 2 ^ (8 * n)
  let s := s.checkScope sc.toNat
  .next (if !s.goes then s
    else match s.atomicAt sc.toNat (s.reg a) n 1 s.cv.vstart0 with
      | (none, s) => s
      | (some p, s) =>
        let s := s.releaseFor (if o = 1 then some sc.toNat else none) (s.reg a) 1 s.cv.vstart0
        if !s.goes then s
        else match p with
          | .mem t => (s.atomicStep t n (fun _ => some v)).2
          | .device off => s.deviceWrite off n (BitVec.ofNat 64 v)
          | .window port off => s.sendStore s.th.uid port off n v)

/-! ## VAMO (R298 to R300) -/

/-- The issue checks of a VAMO word (R63, R298): `fetch` says that v is a destination as well. -/
def State.checkVamo (s : State) (v b : BitVec 5) (sews : List Nat) (fetch : Bool) : State × List Grp :=
  let gv := s.grp v .source
  let gb := s.grp b .source
  let gs := [gv] ++ (if fetch then [s.grp v .dest] else []) ++ [gb]
  (s.checkWord gs [] (!(sews.contains s.sew) || gv.overlaps gb), gs)

/-- EA(e) of a VAMO (R298). -/
def State.vamoAddr (s : State) (a b : BitVec 5) (e : Nat) : Word := s.reg a + BitVec.ofNat 64 (s.elem b.toNat e s.sew)

/-- One element's indivisible step; the effect belongs to the element. -/
def State.vamoStep (s : State) (sc : Nat) (va : Word) (n e : Nat) (new : Nat → Nat) : Option Nat × State :=
  match s.atomicAt sc va n 2 e with
  | (some (.mem t), s) =>
    let s := s.releaseFor none va 2 e
    if s.stopsAt e then (none, s)
    else
      let (old, s) := s.atomicStep t n (fun old => some (new old))
      (some old, s.keep e (.amo t (BitVec.ofNat 64 (new old)) n))
  | (_, s) => (none, s)

/-- A fetch-and-operate VAMO (R299): `op` gives the new value and its flags. DESIGN CHOICE (log 67): the deterministic mode's check (R180)
comes after the allocation's and before that of the scope. -/
def State.vamoFetch (s : State) (v a b : BitVec 5) (k : BitVec 3) (sc : BitVec 4) (sews : List Nat) (float : Bool)
    (op : Nat → Nat → Nat → Nat × BitVec 6) : State :=
  let (s, gs) := s.checkVamo v b sews true
  let s := if s.goes && float then s.refuseInDet else s
  let s := if s.goes then s.checkScope sc.toNat else s
  if !s.goes then s
  else s.elementwise (.vec v.toNat s.sew s.lmul) gs none k 0 (fun s e =>
    let x := s.elem v.toNat e s.sew
    match s.vamoStep sc.toNat (s.vamoAddr a b e) (s.sew / 8) e (fun old => (op s.sew old x).1) with
    | (some old, s) => (some (old, (op s.sew old x).2), s)
    | (none, s) => (none, s))

/-- VAMOADD (R299). -/
def execVamoadd (v a b : BitVec 5) (k : BitVec 3) (sc : BitVec 4) (s : State) : Result :=
  .next (s.vamoFetch v a b k sc [32, 64] false (fun n old x => ((old + x) % 2 ^ n, 0)))

/-- VAMOMIN (R299). -/
def execVamomin (v a b : BitVec 5) (k : BitVec 3) (sc : BitVec 4) (s : State) : Result :=
  .next (s.vamoFetch v a b k sc [32, 64] false (fun n old x => (pickSigned n false old x, 0)))

/-- VAMOMAX (R299). -/
def execVamomax (v a b : BitVec 5) (k : BitVec 3) (sc : BitVec 4) (s : State) : Result :=
  .next (s.vamoFetch v a b k sc [32, 64] false (fun n old x => (pickSigned n true old x, 0)))

/-- VAMOFADD (R299). -/
def execVamofadd (v a b : BitVec 5) (k : BitVec 3) (sc : BitVec 4) (s : State) : Result :=
  .next (s.vamoFetch v a b k sc [32] true (fun _ old x => fpAdd fmtF32 0 old x))

/-- An element of VSCADD or VACC as an FP32 code (R300). -/
def State.addend (s : State) (v : BitVec 5) (e : Nat) : Nat :=
  let x := s.elem v.toNat e s.sew
  if s.sew = 16 then x * 65536 else x

/-- A free bracketing of a free ordering of the items (R300, log 16): two of them, freely chosen, are added until one is
left; `c` numbers the choices. -/
def bracketSum : Nat → Nat → List Nat → BitVec 6 → Nat × BitVec 6
  | 0, _, items, f => (items.headD 0, f)
  | fuel + 1, c, items, f =>
    if items.length < 2 then (items.headD 0, f)
    else
      let i := Config.place c items.length % items.length
      let rest := items.eraseIdx i
      let j := Config.place (c + 1) rest.length % rest.length
      let (r, f') := fpAdd fmtF32 0 (items.getD i 0) (rest.getD j 0)
      bracketSum fuel (c + 2) (r :: rest.eraseIdx j) (f ||| f')

/-- What a VSCADD has made of each target: its old value with the contributions so far, and the flags of the bracketing that its value
comes from. -/
abbrev Scatter := List (Target × List Nat × BitVec 6)

/-- One element of VSCADD: its target holds a bracketing of the old value and all of the word's contributions so far. -/
def State.scatterElem (s : State) (sc : Nat) (va : Word) (x e : Nat) (c : Scatter) : Option (Nat × BitVec 6) × State × Scatter :=
  match s.atomicAt sc va 4 2 e with
  | (some (.mem t), s) =>
    let s := s.releaseFor none va 2 e
    if s.stopsAt e then (none, s, c)
    else
      let (before, s) := match c.find? (fun y => y.1 == t) with
        | some y => (y.2.1, s)
        | none => let (old, s) := s.atomicStep t 4 (fun _ => none); ([old], s)
      let items := before ++ [x]
      let (r, f) := bracketSum items.length s.free items 0
      let s := (({ s with free := s.free + 2 * items.length }).atomicStep t 4 (fun _ => some r)).2
      (some (0, 0), s.keep e (.scatter s.cv.word t (BitVec.ofNat 64 r) f), (t, items, f) :: c.filter (fun y => y.1 != t))
  | (_, s) => (none, s, c)

/-- The elements of a VSCADD, and the targets that they reached. -/
def State.scatterElems (s : State) (gs : List Grp) (v a b : BitVec 5) (k : BitVec 3) (sc : Nat) : State × Scatter :=
  let regs := s.boundSources gs
  (span s.vstart s.vl).foldl (fun ((s, c) : State × Scatter) e =>
    if s.stopsAt e then (s, c)
    else
      let s := s.consume regs none e
      if s.stopsAt e || !s.th.active k.toNat e then (s, c)
      else
        let r := s.scatterElem sc (s.vamoAddr a b e) (s.addend v e) e c
        (r.2.1, r.2.2)) (s, [])

/-- VSCADD (R300): the flags are those of each target's last bracketing. DESIGN CHOICE (log 67): the deterministic mode's check (R180)
comes after the allocation's and before that of the scope. -/
def execVscadd (v a b : BitVec 5) (k : BitVec 3) (sc : BitVec 4) (s : State) : Result :=
  let (s, gs) := s.checkVamo v b [16, 32] false
  let s := if s.goes then s.refuseInDet else s
  let s := if s.goes then s.checkScope sc.toNat else s
  .next (if !s.goes then s
    else
      let (s, c) := s.scatterElems gs v a b k sc.toNat
      c.foldl (fun s y => s.orFlags y.2.2) s)

/-! ## Accumulation windows (R301 to R304) -/

/-- A fence makes later stores of its classes releases at its entry (R259); one whose entry is cluster-local asks nothing of them. -/
def Thread.addFence (t : Thread) (e : ScopeEntry) (mask : BitVec 16) : Thread :=
  if e.clusterLocal t then t
  else
    let old := ((t.relStores.find? (·.1 == e)).map (·.2)).getD 0
    { t with relStores := (e, old ||| mask) :: t.relStores.filter (·.1 != e) }

/-- A FENCE at a scope, with its release and acquire sides (R259, R268, R269). It takes no fault (R305). -/
def State.fenceAt (s : State) (sc : Nat) (mask : BitVec 16) (rel acq : Bool) : State :=
  let e := s.scopeOf s.th sc
  let s := if rel then (s.fenceClean e).onTh (·.addFence e mask) else s
  if acq then s.acquireAt e else s

/-- The windows that the thread's launch holds open. -/
def State.windows (s : State) : List (Word × Nat) :=
  match s.launch s.th.launch with
  | some l => l.windows
  | none => []

/-- Two address ranges share a byte. -/
def rangesMeet (a : Word) (n : Nat) (b : Word) (m : Nat) : Bool := a.toNat < b.toNat + m && b.toNat < a.toNat + n

/-- The first address of each 64 KiB page of a range. -/
def pagesOf (a : Word) (n : Nat) : List Word :=
  (List.range ((a.toNat % 65536 + n + 65535) / 65536)).map (fun i => if i = 0 then a else a - BitVec.ofNat 64 (a.toNat % 65536) + BitVec.ofNat 64 (65536 * i))

/-- ACCW's translation of its pages (R301). -/
def State.probePages (s : State) : List Word → State
  | [] => s
  | va :: rest =>
    if isScratchAddr va then s.raiseHere 0x06 (addrInfo va 2)
    else match s.xlate va 2 s.cv.vstart0 with
      | (.fault c i, s) => s.raiseHere c i
      | (.stall, s) => s.waitFor (.page va 2) .nothing
      | (.ok attr _, s) => if attr < 2 then s.probePages rest else s.raiseHere 0x0F (addrInfo va 2)

/-- ACCW (R301). -/
def execAccw (a b : BitVec 5) (sc : BitVec 4) (s : State) : Result :=
  let s := s.checkScope sc.toNat
  let base := s.reg a
  let n := (s.reg b).toNat
  .next (if !s.goes then s
    else if base.toNat % 4 ≠ 0 || n % 4 ≠ 0 || n = 0 || 2 ^ 32 < n || 8 ≤ s.windows.length ||
        s.windows.any (fun w => rangesMeet base n w.1 w.2) then s.illegal 7 0
    else
      let s := s.probePages (pagesOf base n)
      if !s.goes then s
      else
        let s := s.fenceAt sc.toNat 0xFFFF#16 true true
        (s.onLaunch s.th.launch (fun l => { l with windows := (base, n) :: l.windows })).fenceAt sc.toNat 0xFFFF#16 true true)

/-- −0.0 in FP32. -/
def negZero32 : Nat := 0x80000000

/-- The physical address of a memory place. -/
def Target.phys : Target → Option Nat
  | .cluster _ a => some a
  | .home a => some a
  | .through _ a => some a
  | _ => none

/-- One contribution reaches its home (R302, R304): nothing where no window holds the word or the slice is full. -/
def State.contribute (s : State) (va : Word) (phys x e : Nat) : Option (Nat × BitVec 6) × State :=
  match s.launch s.th.launch with
  | none => (none, s.raise 0x06 e (addrInfo va 2))
  | some l =>
    if !(l.windows.any (fun w => w.1.toNat ≤ va.toNat && va.toNat + 4 ≤ w.1.toNat + w.2)) then (none, s.raise 0x06 e (addrInfo va 2))
    else
      let rank := s.th.threadNo.toNat
      let word := va.toNat / 4
      let home := phys / 4
      let old := l.partials.find? (fun p => p.word == word && p.rank == rank)
      if !(l.partials.any (fun p => p.home / 32 = home / 32 && p.rank = rank)) && 16384 ≤ l.tagLines (sliceOf home) then
        (none, s.raise 0x0E e (BitVec.ofNat 64 (word * 4 + 1)))
      else
        let p := old.getD ⟨word, home, rank, BitVec.ofNat 32 negZero32, 0⟩
        let (r, f) := fpAdd fmtF32 0 p.val.toNat x
        let p' : Partial := { p with val := BitVec.ofNat 32 r, flags := p.flags ||| f }
        let s := s.onLaunch l.id (fun l => { l with
          partials := p' :: l.partials.filter (fun q => !(q.word == word && q.rank == rank)) })
        (some (0, 0), s.keep e (.part l.id p'))

/-- An element of VACC at its word's place: an atomic as R271 routes it, whose contribution the word's home keeps (R298, R302). -/
def State.vaccElem (s : State) (sc : Nat) (va : Word) (x e : Nat) : Option (Nat × BitVec 6) × State :=
  match s.atomicAt sc va 4 2 e with
  | (some (.mem t), s) =>
    match t.phys with
    | none => (none, s.raise 0x06 e (addrInfo va 2))
    | some a =>
      let s := s.releaseFor none va 2 e
      if s.stopsAt e then (none, s)
      else
        let (r, s) := s.contribute va a x e
        (r, match t, r with
          | .through _ _, some _ => s.ownRead (s.homeAgent a) a
          | _, _ => s)
  | (_, s) => (none, s)

/-- VACC (R302). -/
def execVacc (v a b : BitVec 5) (k : BitVec 3) (sc : BitVec 4) (s : State) : Result :=
  let (s, gs) := s.checkVamo v b [16, 32] false
  let s := if s.goes then s.checkScope sc.toNat else s
  .next (if !s.goes then s
    else s.elementwise .nowhere gs none k 0 (fun s e => s.vaccElem sc.toNat (s.vamoAddr a b e) (s.addend v e) e))

/-- Insert a number into a rising list. -/
def insertRising (x : Nat) : List Nat → List Nat
  | [] => [x]
  | y :: t => if x < y then x :: y :: t else if x = y then y :: t else y :: insertRising x t

/-- The numbers of a list in rising order, each once. -/
def risingOf (l : List Nat) : List Nat := l.foldr insertRising []

/-- The issuer's cluster cache is cleaned of a window's dirty bits (R303): of the sectors that share a byte with it. -/
def State.cleanWindow (s : State) (w : Word × Nat) : State :=
  let frames := (pagesOf w.1 w.2).filterMap (fun va => match s.walk none (s.rootOf s.th) va 2 (!isControl s.th.core) with
    | .leaf pte level _ => some (va - BitVec.ofNat 64 (va.toNat % 65536), leafPhys pte level va / 65536 * 65536)
    | _ => none)
  s.cleanWhere (fun x => x.cluster == clusterOf s.th.core && frames.any (fun f =>
    decide (f.2 ≤ x.addr * 32) && decide (x.addr * 32 < f.2 + 65536) && rangesMeet (f.1 + BitVec.ofNat 64 (x.addr * 32 - f.2)) 32 w.1 w.2))

/-- The merged value of a word: its partials enter in rising thread number, with the flags of all additions (R303). -/
def mergedValue (m : Nat) (mine : List Partial) : Nat × BitVec 6 :=
  (risingOf (mine.map (·.rank))).foldl (fun ((m, f) : Nat × BitVec 6) rank =>
    match mine.find? (fun p => p.rank == rank) with
    | some p => let (r, g) := fpAdd fmtF32 0 m p.val.toNat; (r, f ||| g ||| p.flags)
    | none => (m, f)) (m, 0)

/-- A word of the window is merged at its home. The merged value is a store of the thread, which in deterministic mode the home checks
against the word's tag (R178, R303, log 38). -/
def State.mergeWord (s : State) (sc : Nat) (ps : List Partial) (word : Nat) : State :=
  if !s.goes then s
  else
    let va : Word := BitVec.ofNat 64 (4 * word)
    match s.atomicAt sc va 4 2 s.cv.vstart0 with
    | (some (.mem t), s) =>
      let t : Target := match t with
        | .cluster cl a => .through cl a
        | t => t
      let rank := s.th.threadNo.toNat
      match (match t, s.th.det with
        | .through _ a, true => s.tagFault s.th.launch rank a 4 (fullMask 4)
        | _, _ => none) with
      | some r => s.raiseHere 0x0E (BitVec.ofNat 64 (4 * word + r))
      | none =>
        let s := s.releaseFor none va 2 s.cv.vstart0
        if !s.goes then s
        else
          let (m, s) := s.atomicStep t 4 (fun _ => none)
          let (r, f) := mergedValue m (ps.filter (fun p => p.word == word))
          (if s.th.det then (s.roBefore t).performStore t (BitVec.ofNat 64 r) (fullMask 4) 4 (some (s.th.launch, rank))
            else (s.atomicStep t 4 (fun _ => some r)).2).orFlags f
    | (_, s) => s

/-- MERGE (R303). -/
def execMerge (a : BitVec 5) (sc : BitVec 4) (s : State) : Result :=
  let s := s.checkScope sc.toNat
  .next (if !s.goes then s
    else match s.launch s.th.launch with
      | none => s.illegal 7 0
      | some l =>
        match l.windows.find? (fun w => w.1 == s.reg a) with
        | none => s.illegal 7 0
        | some w =>
          let s := (s.fenceAt sc.toNat 0xFFFF#16 true true).cleanWindow w
          let inside := fun (p : Partial) => w.1.toNat ≤ 4 * p.word && 4 * p.word < w.1.toNat + w.2
          let ps := l.partials.filter inside
          let s := (risingOf (ps.map (·.word))).foldl (fun s x => s.mergeWord sc.toNat ps x) s
          if !s.goes then s
          else (s.onLaunch l.id (fun l => { l with
              windows := l.windows.filter (· != w)
              partials := l.partials.filter (fun p => !inside p) })).fenceAt sc.toNat 0xFFFF#16 true true)

/-! ## Fences (R305, R278) -/

/-- FENCE (R259, R305). -/
def execFence (m : BitVec 16) (sc : BitVec 4) (s : State) : Result :=
  let s := s.checkScope sc.toNat
  .next (if s.goes then s.fenceAt sc.toNat m true true else s)

/-- FENCE.REL (R259, R305). -/
def execFenceRel (m : BitVec 16) (sc : BitVec 4) (s : State) : Result :=
  let s := s.checkScope sc.toNat
  .next (if s.goes then s.fenceAt sc.toNat m true false else s)

/-- FENCE.ACQ (R259, R305): the mask says which earlier loads become acquires; the discarding is the scope's. -/
def execFenceAcq (m : BitVec 16) (sc : BitVec 4) (s : State) : Result :=
  let s := s.checkScope sc.toNat
  .next (if s.goes then s.fenceAt sc.toNat m false true else s)

/-- INVRO (R278). -/
def execInvro (sc : BitVec 4) (s : State) : Result :=
  let s := s.checkScope sc.toNat
  .next (if s.goes then (s.fenceAt sc.toNat 0xFFFF#16 false true).dropRo s.th.core else s)

/-- CCLEAN (R305): cleaned whether or not the scope is cluster-local, and without a fault; what a home out of reach cannot take stays
dirty (log 51). -/
def execCclean (sc : BitVec 4) (s : State) : Result :=
  let s := s.checkScope sc.toNat
  .next (if s.goes then s.cleanWhere (fun x => s.inSummary s.th sc.toNat x.cluster) else s)

/-- CINVAL (R305): discarded whether or not the scope is cluster-local. -/
def execCinval (sc : BitVec 4) (s : State) : Result :=
  let s := s.checkScope sc.toNat
  .next (if s.goes then s.discardWhere (fun x => s.inSummary s.th sc.toNat x.cluster) else s)

/-! ## Barriers (R310, R311, R182) -/

/-- The participants of a BAR at an entry by the current thread: the started threads of its launch that are members (R310). -/
def State.participants (s : State) (i : Nat) : List Nat :=
  (s.threads.filter (fun t => t.uid == s.th.uid ||
    (t.launch != 0 && t.launch == s.th.launch && s.memberCore s.th i t.core))).map (·.uid)

/-- The participants lie in more than one gang of a launch that is not co-resident, the retired ones included (R310). -/
def State.spansGangs (s : State) (i : Nat) (members : List Nat) : Bool :=
  match s.launch s.th.launch with
  | none => false
  | some l => !l.coResident && (s.threads.any (fun t => members.contains t.uid && t.gang != s.th.gang) ||
      l.past.any (fun x => x.2 != s.th.gang && s.memberCore s.th i x.1))

/-- The participants of an instance that have not retired. -/
def State.barLive (s : State) (b : Bar) : List Nat := b.members.filter (fun u => s.threads.any (fun t => t.uid == u))

/-- Every participant has arrived, a retired one counting as arrived (R310). -/
def State.barDone (s : State) (b : Bar) : Bool := b.complete || (s.barLive b).all (fun u => b.arrivals.contains u)

/-- The instance in which a thread has arrived and from which it has not departed. -/
def State.barOf (s : State) (u : Nat) : Option Bar := s.bars.find? (fun b => b.arrivals.contains u && !b.left.contains u)

/-- Replace an instance. -/
def State.putBar (s : State) (old new : Bar) : State := { s with bars := s.bars.map (fun b => if b = old then new else b) }

/-- The arrival of thread `u` at an instance: a release at the entry; the thread joins an open instance with the same identity or
opens one (R310, R311). -/
def State.arrive (s : State) (u : Nat) (b : Bar) : State :=
  let s := s.releaseAt b.scope none 1 s.cv.vstart0
  if !s.goes then s
  else
    let same := fun (x : Bar) => x.launch == b.launch && x.entry == b.entry && x.scope.serial == b.scope.serial && !s.barDone x &&
      (s.barLive x).all (b.members.contains ·) && b.members.all ((s.barLive x).contains ·)
    match s.bars.find? same with
    | some x => s.putBar x { x with arrivals := x.arrivals ++ [u] }
    | none => { s with bars := { b with arrivals := [u] } :: s.bars }

/-- An entry includes every thread of a launch: those of this device, the retired ones too, and the devices of its other parts, of which
the launch record gives the number alone (R182, R275, R322). -/
def State.includesAll (s : State) (b : Bar) (l : Launch) : Bool :=
  (s.threads.filter (·.launch == l.id)).all (fun t => b.members.contains t.uid) && l.past.all (fun x => s.entryCore s.th b.scope x.1) &&
  l.devices ≤ ((s.entryDevices l.ctx b.scope).eraseDups.filter (· != s.ident)).length + 1

/-- A complete barrier of a deterministic launch whose entry includes all of its threads ends the phase: tags go, phases rise (R182). -/
def State.endPhase (s : State) (b : Bar) : State :=
  match s.launch b.launch with
  | none => s
  | some l =>
    let mine := fun (t : Thread) => t.launch == l.id
    if l.det && s.includesAll b l then
      (s.onLaunch l.id (fun l => { l with tags := [] })).onThreads mine (fun t => { t with csr := { t.csr with phase := t.csr.phase + 1 } })
    else s

/-- The departure of the current thread from a complete instance: an acquire at the entry as it stood at the check, and its place in
the order of arrival (R291, R311). -/
def State.depart (s : State) (d : BitVec 5) (b : Bar) : State :=
  let s := if b.complete then s else s.endPhase b
  let gone := s.th.uid :: b.left
  let s := if gone.length = b.arrivals.length then { s with bars := s.bars.filter (· != b) }
    else s.putBar b { b with complete := true, left := gone }
  (s.acquireAt b.scope).setReg d (BitVec.ofNat 64 (b.arrivals.findIdx (· == s.th.uid)))

/-- BAR (R310, R311). A thread that waits in an instance executes the word again when its convoy is tried again (log 2). -/
def execBar (d : BitVec 5) (sc : BitVec 4) (s : State) : Result :=
  let u := s.th.uid
  .next (match s.barOf u with
    | some b => if s.barDone b then s.depart d b else s.waitFor .barrier .nothing
    | none =>
      let s := s.checkScope sc.toNat
      if !s.goes then s
      else
        let members := s.participants sc.toNat
        if s.spansGangs sc.toNat members then s.illegal 7 0
        else
          let b : Bar := ⟨s.th.launch, sc.toNat, s.scopeOf s.th sc.toNat, members, [], false, []⟩
          let s' := s.arrive u b
          if !s'.goes then s'
          else match s'.barOf u with
            | some x => if s'.barDone x then s'.depart d x else s.waitFor .barrier (.arrive b)
            | none => s')

/-! ## Scope-table instructions (R307 to R309, R287 to R293) -/

/-- The thread waits at a scope-table entry: in a SEMWAIT whose place still counts (R292 step 4). -/
def Thread.waitsAt (t : Thread) (slot i : Nat) : Bool :=
  t.ctx == slot && (match t.wait with
    | .sem _ entry => entry == i
    | _ => false)

/-- The device's entries of a thread's table. -/
def State.table (s : State) (t : Thread) : List ScopeEntry := (List.range 16).map (s.scopeOf t)

/-- A new entry is installed: waits at its old serial are withdrawn, and every barrier that a thread has not departed from is dissolved
(R292 steps 3 and 4). -/
def State.installScope (s : State) (i : Nat) (e : ScopeEntry) : State :=
  let slot := s.th.ctx
  let table := (s.table s.th).set i e
  let c : Ctx := match s.ctxs.find? (·.slot == slot) with
    | some c => { c with scopes := table }
    | none => ⟨slot, 0, table, []⟩
  let waiting := (s.threads.filter (·.waitsAt slot i)).map (·.uid)
  let mine := fun (b : Bar) => b.entry == i && (match s.launch b.launch with
    | some l => l.ctx == slot
    | none => slot == 64)
  let s := { s with ctxs := c :: s.ctxs.filter (·.slot != slot), bars := s.bars.filter (fun b => !mine b) }
  s.withdrawSems waiting

/-- The thread's pin for an entry is set. -/
def Thread.setPin (t : Thread) (i : Nat) (v : Word) : Thread := { t with pins := vput t.pins i v }

/-- The address of an entry's memory image (R289); a control core's table has none (log 12). -/
def State.scopeImage (s : State) (i : Nat) : Option Word :=
  if s.th.ctx = 64 then none else some ((s.ctxRec s.th.ctx).extractLsb' 384 64 + BitVec.ofNat 64 (576 * i))

/-- SCOPEPUT (R292, R293, R307). -/
def execScopeput (d a : BitVec 5) (sc : BitVec 4) (s : State) : Result :=
  let i := sc.toNat
  let addr := s.reg a
  .next (if addr.toNat % 8 ≠ 0 then s.raiseHere 0x03 (addrInfo addr 0)
    else if (s.scopeOf s.th i).draining then s.waitFor (.drain i) .nothing
    else
      let s := s.fenceAt 0 0xFFFF#16 true true
      match s.loadDwords addr 72 with
        | (none, s) => s
        | (some ws, s) =>
          let image : BitVec 4608 := BitVec.ofNat 4608 (joinWords ws)
          match s.scopeFault s.th.ctx image with
          | some r => s.raiseHere 0x09 (BitVec.ofNat 64 (i + 16 * r))
          | none =>
            let serial := (s.scopeOf s.th i).serial + 1
            let image := withGeneration image serial
            let s := (s.installScope i ⟨image, serial, false⟩).onTh (fun t => t.setPin i serial)
            let s := match s.scopeImage i with
              | some at_ => s.storeDwords at_ (dwords 72 image.toNat)
              | none => s
            if s.goes then (s.fenceAt 0 0xFFFF#16 true true).setReg d (BitVec.ofNat 64 (serial.toNat % 64)) else s)

/-- SCOPEGET (R308). -/
def execScopeget (d a : BitVec 5) (sc : BitVec 4) (s : State) : Result :=
  let addr := s.reg a
  let e := s.scopeOf s.th sc.toNat
  .next (if addr.toNat % 8 ≠ 0 then s.raiseHere 0x03 (addrInfo addr 1)
    else
      let s := s.storeDwords addr (dwords 72 e.image.toNat)
      if s.goes then s.setReg d e.serial else s)

/-- SCOPEPIN (R309). -/
def execScopepin (a : BitVec 5) (sc : BitVec 4) (s : State) : Result :=
  let mask := s.reg a
  .next ((List.range 16).foldl (fun s j =>
    if j = sc.toNat || mask.getLsbD j then s.onTh (fun t => t.setPin j (s.scopeOf t j).serial) else s) s)

/-! ## Semaphores (R312 to R314) -/

/-- The checks of a semaphore word (R291, R312, R313): the scope, the range, and the bits of S[b] that must be zero. -/
def State.checkSem (s : State) (a b : BitVec 5) (sc : BitVec 4) (zeros : Word) : State :=
  let s := s.checkScope sc.toNat
  if !s.goes then s
  else if !s.ctxHasSem s.th.ctx (s.reg a).toNat then s.raiseHere 0x06 (numberInfo (s.reg a).toNat)
  else if s.reg b &&& zeros ≠ 0 then s.illegal 7 0
  else s

/-- The count that S[b] names: 1 where it is 0 (R313). -/
def semCount (v : Word) : BitVec 32 := if v.extractLsb' 0 32 = 0 then 1 else v.extractLsb' 0 32

/-- SEMWAIT (R313, R314). A served waiter departs whatever has become of the entry, with an acquire at the entry as it stood at the check
(R291). -/
def execSemwait (d a b : BitVec 5) (sc : BitVec 4) (s : State) : Result :=
  let k := (s.reg a).toNat
  let p : SemPlace := ⟨s.th.uid, semCount (s.reg b), s.scopeOf s.th sc.toNat⟩
  let s := if (s.sem k).served.any (·.uid == p.uid) then s else s.checkSem a b sc 0xFFFFFFFF00000000#64
  .next (if !s.goes then s
    else match (s.sem k).tryWait p with
      | some (v, e, x) => ((s.putSem x).acquireAt e).setReg d v
      | none => s.waitFor (.sem k sc.toNat) (.sem k p))

/-- SEMTRY (R313, R314). -/
def execSemtry (d a b : BitVec 5) (sc : BitVec 4) (s : State) : Result :=
  let k := (s.reg a).toNat
  let s := s.checkSem a b sc 0xFFFFFFFF00000000#64
  .next (if !s.goes then s
    else
      let x := s.sem k
      let n := semCount (s.reg b)
      if x.err then s.setReg d semErrorValue
      else if x.queue.isEmpty && n ≤ x.count then
        ((s.putSem { x with count := x.count - n }).acquire sc.toNat).setReg d ((x.count - n).setWidth 64)
      else s.setReg d semRefused)

/-- SEMPOST (R313). -/
def execSempost (d a b : BitVec 5) (sc : BitVec 4) (s : State) : Result :=
  let s := s.checkSem a b sc 0x3FFFFFFF00000000#64
  .next (if !s.goes then s
    else
      let v := s.reg b
      let reset := v.getLsbD 62
      let s := s.release sc.toNat
      if !s.goes then s
      else
        let (c, s) := s.semPost (s.reg a).toNat (if reset then v.extractLsb' 0 32 else semCount v) reset (v.getLsbD 63)
        s.setReg d c)

/-! ## Chain cells (R117, R118, R315, R336) -/

/-- The error cell (R117). -/
def errorCell : Nat := 2 ^ 64 - 1

/-- The high-water index and final flag after PUBHW of y over old (R315). -/
def pubhwCell (old y : Nat) : Option Nat :=
  if old = errorCell then none
  else some (max (old % 2 ^ 63) (y % 2 ^ 63) + (if 2 ^ 63 ≤ old || 2 ^ 63 ≤ y then 2 ^ 63 else 0))

/-- The launch's list has no room for a cell's line (R336). -/
def State.cellListFull (s : State) (t : Target) : Bool :=
  match t.phys, s.launch s.th.launch with
  | some a, some l => !(l.cells.any (fun c => c.1 == a / 128)) && 1024 ≤ l.cells.length
  | _, _ => false

/-- The launch's list notes that PUBHW wrote a cell (R336). -/
def State.noteCell (s : State) (t : Target) : State :=
  match t.phys with
  | some a => s.onLaunch s.th.launch (fun l =>
      let bit : BitVec 16 := 1#16 <<< (a / 8 % 16)
      if l.cells.any (fun c => c.1 == a / 128) then
        { l with cells := l.cells.map (fun c => if c.1 = a / 128 then (c.1, c.2 ||| bit) else c) }
      else { l with cells := l.cells ++ [(a / 128, bit)] })
  | none => s

/-- PUBHW (R315). -/
def execPubhw (d a b : BitVec 5) (sc : BitVec 4) (s : State) : Result :=
  let s := s.checkScope sc.toNat
  let va := s.reg a
  let y := (s.reg b).toNat
  .next (if !s.goes then s
    else if va.toNat % 8 ≠ 0 then s.raiseHere 0x03 (addrInfo va 2)
    else if y % 2 ^ 63 = 2 ^ 63 - 1 then s.illegal 7 0
    else match s.atomicAt sc.toNat va 8 2 s.cv.vstart0 with
      | (some (.mem t), s) =>
        if s.cellListFull t then s.raiseHere 0x06 (addrInfo va 2)
        else
          let s := s.releaseFor (some sc.toNat) va 2 s.cv.vstart0
          if !s.goes then s
          else
            let (old, s) := s.atomicStep t 8 (fun old => pubhwCell old y)
            let s := if old = errorCell then s else s.noteCell t
            s.setReg d (BitVec.ofNat 64 old)
      | (_, s) => s)

/-- The line of a place as the next attempt of a waiting SETVLHW would read it, lowest byte first: the home with what the cluster cache has
written, or the cluster cache's own (R118). A window's is not known before it is asked. -/
def State.cellLine (s : State) (t : Target) : Option Nat :=
  let sectors (f : Nat → BitVec 256) (a : Nat) : Option Nat :=
    some ((List.range 4).foldr (fun i acc => (f (a / 128 * 128 + 32 * i)).toNat + 2 ^ 256 * acc) 0)
  match t with
  | .through cl a => sectors (fun x =>
      let home : BitVec 256 := BitVec.ofNat 256 (s.homeRead x 32)
      match s.sector cl x with
      | some y => (y.data &&& y.written) ||| (home &&& ~~~y.written)
      | none => home) a
  | .cluster cl a => sectors (fun x => (s.filledSector cl x).data) a
  | .scratch core off => some (cellsReadNat s.scratch (core * 131072 + off / 128 * 128) 128)
  | .device off => some (s.deviceRead off 8).toNat
  | _ => none

/-- The place of a waiting SETVLHW's cell, and its line, by which a write wakes its waiters (R118). -/
def State.cellPlace (s : State) (sc : Nat) (va : Word) : Target × Nat :=
  match (s.resolve va 8 0 s.cv.vstart0).1 with
  | .at_ t attr => let p := s.atomicPlace sc t attr false; (p, p.phys.getD va.toNat / 128)
  | _ => (.window false 0, va.toNat / 128)

/-- A configuration word's vl, hwbase and scalar result, and its acquire, stand under R114. -/
def State.standGrant (s : State) (d : BitVec 5) (e : ScopeEntry) : State :=
  ((s.keepStanding (.setBase s.th.csr.hwbase)).standVl d).keepStanding (.acquire e)

/-- SETVLHW (R117, R118): a position-setting word; while it waits it has no effect. -/
def execSetvlhw (d a b : BitVec 5) (s : State) : Result :=
  let sc := s.th.csr.hwscope.toNat
  .next (if s.cv.vstart0 ≠ 0 then s
    else
      let s := s.checkScope sc
      let e := s.scopeOf s.th sc
      if !s.goes then s
      else match s.atomicLoad sc (s.reg a) 8 with
        | (none, s) => s
        | (some c, s) =>
          let r := if s.reg b = 0 then s.vlmax else min (s.reg b).toNat s.vlmax
          if c = errorCell then
            (((s.onCsr (fun k => { k with vl := 0 })).setReg d (BitVec.allOnes 64)).acquireAt e).standGrant d e
          else
            let avail := c % 2 ^ 63 - s.th.csr.hwbase.toNat
            if avail = 0 && c < 2 ^ 63 then
              let (t, line) := s.cellPlace sc (s.reg a)
              s.waitFor (.cell line t ((s.cellLine t).getD 0)) .nothing
            else
              let g := min r avail
              let s := s.onCsr (fun k => { k with vl := BitVec.ofNat 15 g, hwbase := k.hwbase + BitVec.ofNat 63 g })
              ((s.setReg d (BitVec.ofNat 64 g)).acquireAt e).standGrant d e)

/-! ## WAIT (R316) -/

/-- The thread's copy and media commands that are not complete. -/
def State.commandsOut (s : State) : Nat := (s.queues.filter (fun c => c.uid == s.th.uid && c.queue < 48)).length

/-- The thread's diagonal words that are not complete, those of its convoy's earlier words included (R199). -/
def State.diagOut (s : State) : Nat := ((s.coreRec s.th.core).diag.filter (fun w => w.uid == s.th.uid)).length + s.cv.diags.length

/-- WAIT (R316): its loads and stores have performed (log 9), and what it waits for completes now if it can (log 15). DESIGN CHOICE (log
15): commands that earlier words of its own convoy have asked for are not counted, since they reach their engine only once the convoy
retires (R341). -/
def execWait (_l _s c t : BitVec 5) (s : State) : Result :=
  let late (n : BitVec 5) (out : Nat) : Bool := n ≠ 31#5 && n.toNat < out
  let s := if late c s.commandsOut then s.drainThread s.th.uid (fun q => q < 48) else s
  let s := if late t s.diagOut then s.settleDiag else s
  .next (if late c s.commandsOut then s.waitFor (.commands c.toNat) .nothing else s)

end Sys2Proof.Machine
end

