-- ==== Sys2Proof/Machine/Command.lean ====
section
/-! DEFINITION. Engine words: COPY, COPY2D and QCOPY (R340 to R347), MCMD (R358), QFENCE (R283, R349), LAUNCH (R325), TSPAWN
and TJOIN (R337, R338). -/

namespace Sys2Proof.Machine

open Sys2Proof

/-! ## Command words (R340, R341) -/

/-- The queue is assigned to the thread's context (R340). -/
def State.checkQueue (s : State) (q : Nat) : State :=
  if s.ctxHasQueue s.th.ctx q then s else s.raiseHere 0x06 (numberInfo q)

/-- A scratchpad range of a command lies in the issuer's window (R345); an empty range needs none. -/
def State.checkRange (s : State) (va : Word) (n kind : Nat) : State :=
  if n = 0 || !isScratchAddr va then s
  else match scratchPlace s.th.core s.th.winBase s.winBytes va n kind with
    | .fault c i => s.raiseHere c i
    | _ => s

/-- Ranges checked one after another. -/
def State.checkRanges (s : State) (l : List (Word × Nat × Nat)) : State :=
  l.foldl (fun s r => if s.goes then s.checkRange r.1 r.2.1 r.2.2 else s) s

/-- Commands that a queue holds (R340). -/
def queueCapacity (q : Nat) : Nat := if q < 32 then 64 else 16

/-- The commands that convoys held at a waiting word have for a queue, that of a thread at an address left out: they have their places in
it (R340, log 2). -/
def State.heldCmds (s : State) (q uid : Nat) (addr : Word) : Nat :=
  (s.threads.map (fun t => match t.held with
    | some h => if t.uid == uid && h.addr = addr then 0 else (h.cmds.filter (·.queue == q)).length
    | none => 0)).sum

/-- The commands that a queue holds beside those of a thread's convoy at an address (R340, R341). -/
def State.queued (s : State) (q uid : Nat) (addr : Word) : Nat := (s.queues.filter (·.queue == q)).length + s.heldCmds q uid addr

/-- The convoy holds a command that its retirement hands to a queue; a full queue makes it wait (R341). The token's number is
taken from the machine's counter. -/
def State.holdCommand (s : State) (d : BitVec 5) (q : Nat) (kind : CmdKind) : State :=
  let own := (s.cv.cmds.filter (·.queue == q)).length
  if queueCapacity q ≤ s.queued q s.th.uid s.cv.addr + own then s.waitFor (.queue q own) .nothing
  else
    let c : Cmd := ⟨q, kind, s.th.uid, s.nextUid, s.th.ctx, s.th.core, s.th.winBase, s.th.winSize, none, 0, 0, 0, false, false, [], [],
      none⟩
    { s with nextUid := s.nextUid + 1 }.onCv (fun v => { v with
      cmds := v.cmds ++ [c]
      tokenRegs := if d = 0 then v.tokenRegs else (d.toNat, c.token) :: v.tokenRegs })

/-- A descriptor of `n` doublewords at S[a], aligned to `align` bytes (R341, R346, R347, R358). -/
def State.readDescriptor (s : State) (a : BitVec 5) (align n : Nat) : Option Nat × State :=
  let va := s.reg a
  if va.toNat % align ≠ 0 then (none, s.raiseHere 0x03 (addrInfo va 0))
  else
    let (r, s) := s.loadDwords va n
    (r.map joinWords, s)

/-- COPY (R340, R341, R345). -/
def execCopy (d a b : BitVec 5) (q : BitVec 6) (s : State) : Result :=
  let n := (s.reg d).toNat
  .next (if 2 ^ 40 < n || 32 ≤ q.toNat then s.illegal 7 0
    else
      let s := s.checkQueue q.toNat
      let s := if s.goes then s.checkRanges [(s.reg a, n, 0), (s.reg b, n, 1)] else s
      if s.goes then s.holdCommand d q.toNat (.copy (s.reg a) (s.reg b) n) else s)

/-- The scratchpad ranges of a COPY2D, row by row. -/
def copy2dRanges (d : BitVec 256) : List (Word × Nat × Nat) :=
  ((List.range (bits d 160 32)).map (fun i =>
    let row (base : Word) (pitch : BitVec 32) := base + BitVec.ofNat 64 i * pitch.signExtend 64
    [(row (d.extractLsb' 0 64) (d.extractLsb' 192 32), bits d 128 32, 0),
     (row (d.extractLsb' 64 64) (d.extractLsb' 224 32), bits d 128 32, 1)])).flatten

/-- COPY2D (R346). -/
def execCopy2d (d a : BitVec 5) (q : BitVec 6) (s : State) : Result :=
  .next (match s.readDescriptor a 8 4 with
    | (none, s) => s
    | (some v, s) =>
      let x : BitVec 256 := BitVec.ofNat 256 v
      if bits x 128 32 = 0 || bits x 160 32 = 0 || 2 ^ 40 < bits x 128 32 * bits x 160 32 || 32 ≤ q.toNat then s.illegal 7 0
      else
        let s := s.checkQueue q.toNat
        let s := if s.goes then s.checkRanges (copy2dRanges x) else s
        if s.goes then s.holdCommand d q.toNat (.copy2d x) else s)

/-- The limits of a QCOPY descriptor (R347). -/
def qcopyOk (x : BitVec 512) : Bool :=
  let fmt := bits x 192 8
  let size := if fmt = 0 then 4 else 2
  let side (n : Nat) : Bool := n % 32 = 0 && 32 ≤ n && n ≤ 2 ^ 20
  (fmt = 0 || fmt = 13) && bits x 200 56 = 0 && bits x 0 64 % size = 0 && side (bits x 64 32) && side (bits x 96 32) &&
  bits x 96 32 * size ≤ bits x 128 64 && bits x 320 64 % 2 = 0 && bits x 448 64 % 2 = 0

/-- The ranges of a QCOPY: its source and four outputs (R107, R347). -/
def qcopyRanges (x : BitVec 512) : List (Word × Nat × Nat) :=
  let m := bits x 64 32
  let n := bits x 96 32
  let size := if bits x 192 8 = 0 then 4 else 2
  [(x.extractLsb' 0 64, (m - 1) * bits x 128 64 + n * size, 0),
   (x.extractLsb' 256 64, m * n / 8 * 5, 1), (x.extractLsb' 320 64, (m + 63) / 64 * 2, 1),
   (x.extractLsb' 384 64, m * n / 8 * 5, 1), (x.extractLsb' 448 64, (n + 63) / 64 * 2, 1)]

/-- QCOPY (R347). -/
def execQcopy (d a : BitVec 5) (q : BitVec 6) (s : State) : Result :=
  .next (match s.readDescriptor a 8 8 with
    | (none, s) => s
    | (some v, s) =>
      let x : BitVec 512 := BitVec.ofNat 512 v
      if !qcopyOk x || 32 ≤ q.toNat then s.illegal 7 0
      else
        let s := s.checkQueue q.toNat
        let s := if s.goes then s.checkRanges (qcopyRanges x) else s
        if s.goes then s.holdCommand d q.toNat (.qcopy x) else s)

/-! ## MCMD (R358) -/

/-- The limits of a command block that the spec's table states; those of the standards are `Config.codecLimits` (log 22). -/
def blockOk (b : BitVec 2048) : Bool :=
  let byte (i : Nat) : Nat := bits b (8 * i) 8
  let encode := byte 0 = 2
  (byte 0 = 1 || encode) && (byte 1 = 1 || byte 1 = 2) && byte 2 < 2 && byte 3 ≤ (if byte 1 = 1 then 19 else 102) &&
  byte 4 < 3 && (byte 4 ≠ 2 || encode) && byte 5 < 16 && bits b 48 16 = 0 &&
  bits b 192 64 % 8 = 0 && bits b 256 64 % 65536 = 0 && (byte 4 ≠ 0 || bits b 320 64 = 0) &&
  (byte 4 ≠ 2 || bits b 384 64 % 8 = 0) && bits b 448 64 = 0 && bits b 640 1344 = 0 &&
  (if encode then
    (byte 68 = 8 || byte 68 = 10) && (byte 69 = 0 || (byte 69 = 3 && byte 2 = 1)) && (byte 70 = 64 || byte 70 = 128) &&
    bits b 576 32 ≠ 0 && Config.codecLimits b
   else bits b 512 128 = 0)

/-- The semaphore numbers of a block: both fields are such numbers except in mode 0 (R358). -/
def blockSems (b : BitVec 2048) : List Nat :=
  if bits b 32 8 = 0 then [] else [bits b 320 32, bits b 352 32]

/-- MCMD (R340, R341, R358). -/
def execMcmd (d a : BitVec 5) (q : BitVec 6) (s : State) : Result :=
  .next (match s.readDescriptor a 64 32 with
    | (none, s) => s
    | (some v, s) =>
      let b : BitVec 2048 := BitVec.ofNat 2048 v
      if !blockOk b || q.toNat < 32 || 48 ≤ q.toNat then s.illegal 7 0
      else match (blockSems b).find? (fun n => !s.ctxHasSem s.th.ctx n) with
        | some n => s.raiseHere 0x06 (numberInfo n)
        | none =>
          let s := s.checkQueue q.toNat
          if s.goes then s.holdCommand d q.toNat (.media b) else s)

/-! ## QFENCE (R283, R349) -/

/-- The issuer's cluster cache is cleaned (R268 step 2); a home out of reach answers with an error (R417). -/
def State.cleanOwn (s : State) : State :=
  s.cleanFor (· == clusterOf s.th.core) none 1 s.cv.vstart0

/-- QFENCE (R283, R349): the commands of earlier convoys complete now if they can (log 15). While it waits for one, what comes before in its
convoy has performed and the cluster cache is clean (R283 steps 1 and 2, log 2). -/
def execQfence (a : BitVec 5) (s : State) : Result :=
  let m := s.reg a
  .next (if 2 ^ 48 ≤ m.toNat then s.illegal 7 0
    else match (List.range 48).find? (fun q => m.getLsbD q && !s.ctxHasQueue s.th.ctx q) with
      | some q => s.raiseHere 0x06 (numberInfo q)
      | none =>
        let s := s.cleanOwn
        if !s.goes then s
        else
          let s := s.drainThread s.th.uid (fun q => m.getLsbD q)
          if s.queues.any (fun c => c.uid == s.th.uid && m.getLsbD c.queue) then s.waitFor (.fence m) .clean
          else s.discardCluster (clusterOf s.th.core))

/-! ## LAUNCH (R325) -/

/-- What a LAUNCH waits for: room in the urns, or the page of P and L (R325, R374). -/
def State.urnWait (s : State) (image : BitVec 1024) : Wait :=
  let arg := image.extractLsb' 64 64
  if !s.urnRoom image then .urn (maskDies image) else if s.ctxStalls s.th.ctx arg 1 then .page arg 1 else .page (arg + 8) 1

/-- LAUNCH (R325). From here on d is outstanding, for later words of the convoy too (log 39). -/
def execLaunch (d a : BitVec 5) (s : State) : Result :=
  let va := s.reg a
  .next (if va.toNat % 128 ≠ 0 then s.raiseHere 0x03 (addrInfo va 0)
    else if !canonical va || isScratchAddr va then s.raiseHere 0x06 (addrInfo va 0)
    else
      let s := s.cleanOwn
      if !s.goes then s
      else match s.loadDwords va 16 with
        | (none, s) => s
        | (some ws, s) =>
          let image : BitVec 1024 := BitVec.ofNat 1024 (joinWords ws)
          if s.urnWaits s.th.ctx image then (s.urnWake s.th.ctx image).waitFor (s.urnWait image) .nothing
          else
            let token := s.nextUid
            let s := { s with nextUid := s.nextUid + 1 }
            if d = 0 then s.urnAccept s.th.ctx image .nowhere
            else (s.onTh (fun t => { t with tokens := (d.toNat, token) :: t.tokens })).urnAccept s.th.ctx image
              (.reg s.th.uid token))

/-! ## TSPAWN and TJOIN (R337, R338) -/

/-- TSPAWN (R337). -/
def execTspawn (d a b : BitVec 5) (s : State) : Result :=
  let entry := s.reg a
  let cl := clusterOf s.th.core
  .next (if entry.toNat % 16 ≠ 0 then s.raiseHere 0x03 (addrInfo entry 3)
    else if !canonical entry || isScratchAddr entry then s.raiseHere 0x06 (addrInfo entry 3)
    else if 4096 ≤ s.tasksAt cl then s.waitFor .spawn .nothing
    else
      let s := { s with tasks := s.tasks ++ [(⟨cl, s.th.launch, s.th.gang, s.th.uid, entry, s.reg b⟩ : Task)] }
      let s := s.onTh (fun t => { t with join := t.join + 1 })
      s.setReg d (s.th.join.setWidth 64))

/-- TJOIN (R338). A TSPAWN before it in its convoy has taken effect while it waits (log 2). -/
def execTjoin (d : BitVec 5) (s : State) : Result :=
  .next (if s.th.join ≠ 0 then s.waitFor .join .hold
    else (s.setReg d (s.th.retired.setWidth 64)).onTh (fun t => { t with retired := 0 }))

end Sys2Proof.Machine
end

