-- ==== Sys2Proof/Machine/System.lean ====
section
/-! DEFINITION. The privileged system words: TLBINV (R377), CTXSAVE and CTXLOAD (R412, R413), ENGRST (R418) and MIGRATE (R375). -/

namespace Sys2Proof.Machine

open Sys2Proof

/-! ## TLBINV (R377) -/

/-- A translation matches what TLBINV selects: it covers the address, or every address, in the ASID, or in every ASID. -/
def TlbEntry.matches (x : TlbEntry) (va sel : Word) : Bool :=
  (sel.getLsbD 17 || x.asid == sel.extractLsb' 0 16) &&
  (sel.getLsbD 16 || x.page * 65536 / 2 ^ leafBits x.level == va.toNat % 2 ^ 57 / 2 ^ leafBits x.level)

/-- TLBINV (R377). It waits for a resumed convoy that holds a translation it matches (R398). Instruction-cache lines are held by physical address, so all of them go (log 11). -/
def execTlbinv (a b : BitVec 5) (s : State) : Result :=
  let va := s.reg a
  let sel := s.reg b
  let s := s.needPrivilege
  .next (if !s.goes then s
    else if 2 ^ 18 ≤ sel.toNat then s.illegal 7 0
    else
      let s := s.cleanOwn
      if !s.goes then s
      else if { s with th := { s.th with needs := [] } }.needed (fun x => x.matches va sel) then s.waitFor (.translation va sel) .nothing
      else { s.dropTlb (fun x => x.matches va sel) with icache := [] })

/-! ## CTXSAVE and CTXLOAD (R412, R413) -/

/-- The checks of CTXSAVE and CTXLOAD: privilege, alignment, the selector. -/
def State.checkImageWord (s : State) (va sel : Word) (kind : Nat) : State :=
  let s := s.needPrivilege
  if !s.goes then s
  else if va.toNat % 128 ≠ 0 then s.raiseHere 0x03 (addrInfo va kind)
  else if !sel.getLsbD 48 || sel.extractLsb' 49 15 ≠ 0 then s.illegal 7 0
  else s

/-- The failure code of CTXSAVE and CTXLOAD (R412). -/
def imageError (reason : Nat) : Word := BitVec.ofNat 64 (2 ^ 63 + reason)

/-- The thread that a selector names (R392, R412). -/
def State.selected (s : State) (sel : Word) : Option Thread := s.stoppedThread (sel.extractLsb' 0 16) (sel.extractLsb' 16 32)

/-- The diagonal words that a stopped thread has issued complete before its image is read (R196, R413). -/
def State.settleThread (s : State) (t : Thread) : State := if t.parked then s else s.drainDiag t.core

/-- A line of a parked thread's image that cannot be read. -/
def State.badImageLine (s : State) (t : Thread) : Option Nat :=
  t.parkAt.bind (fun a => ((span (a / 128) ((a + t.imageBytes + 127) / 128)).map (· * 128)).find? s.lineBad)

/-- CTXSAVE consumes every unit of the image: an uncorrectable one is a data error (R415). The spec gives a register and a line of a park
region no address in the issuer's space, so that it is free (log 47). -/
def State.checkImage (s : State) (t : Thread) : State :=
  match s.damage.find? t.holdsDamage, s.badImageLine t with
  | some (.scratch _ w), _ => s.raiseHere 0x07 (dataInfo (scratchVa (8 * w)) 0 5)
  | some _, _ => { s with free := s.free + 2 }.raiseHere 0x07 s.registerInfo
  | none, some a =>
    { s with free := s.free + 1 }.raiseHere 0x07 (dataInfo (BitVec.ofNat 64 (Config.number s.free)) 0 (s.sourceOf a))
  | none, none => s

/-- CTXSAVE (R412, R413). -/
def execCtxsave (d a b : BitVec 5) (s : State) : Result :=
  let va := s.reg a
  let sel := s.reg b
  let s := s.checkImageWord va sel 1
  .next (if !s.goes then s
    else
      let s := s.fenceAt 0 0xFFFF#16 true true
      match s.selected sel with
        | none => s.setReg d (imageError 1)
        | some t =>
          let s := (s.settleThread t).checkImage t
          let s := if s.goes then s.storeDwords va (s.imageOf ((s.threads.find? (·.uid == t.uid)).getD t)) else s
          if s.goes then (s.fenceAt 0 0xFFFF#16 true true).setReg d (BitVec.ofNat 64 t.imageBytes) else s)

/-- CTXLOAD (R412, R413). -/
def execCtxload (d a b : BitVec 5) (s : State) : Result :=
  let va := s.reg a
  let sel := s.reg b
  let s := s.checkImageWord va sel 0
  .next (if !s.goes then s
    else
      let s := s.fenceAt 0 0xFFFF#16 true true
      match s.selected sel with
        | none => s.setReg d (imageError 1)
        | some t =>
          match s.loadDwords va (t.imageBytes / 8) with
          | (none, s) => s
          | (some ws, s) =>
            let v := t.viewImage ws
            match s.imageFault t v with
            | some r => s.setReg d (imageError r)
            | none => ((s.putImage t.uid v).fenceAt 0 0xFFFF#16 true true).setReg d (BitVec.ofNat 64 t.imageBytes))

/-! ## ENGRST (R418) -/

/-- An engine is reset: its current command, the first without a result, stops, a media engine's semaphores receive the error flag, and
every command queued to it ends with reason 5, in order; one that was done before ends with its own token. The engine holds no semaphore
place any more. -/
def State.resetEngine (s : State) (q : Nat) : State :=
  let cmds := s.queues.filter (·.queue == q)
  let current := cmds.find? (·.result.isNone)
  let tag : Nat := match current with
    | some c => (match c.kind with
      | .media block => bits block 1984 64
      | _ => 0)
    | none => 0
  let s := match current with
    | some c => (match c.kind with
      | .media block => s.failSems c block
      | _ => s)
    | none => s.forgetSems [engineWaiter q]
  let s := cmds.foldl (fun s c => s.writeToken c.uid c.token (c.result.getD (errorToken 5)) (some c.wrote)) s
  let s := { s with queues := s.queues.filter (·.queue != q) }
  s.blackBox (if q < 32 then q / 4 else if q < 48 then 8 else q - 48) 0x04 ((current.map (fun c => s.asidOfSlot c.ctx)).getD 0)
    (BitVec.ofNat 64 tag)

/-- ENGRST (R418). -/
def execEngrst (a : BitVec 5) (s : State) : Result :=
  let n := (s.reg a).toNat
  let s := s.needPrivilege
  .next (if !s.goes then s else if 55 < n then s.illegal 7 0 else s.resetEngine n)

/-! ## MIGRATE (R375) -/

/-- The limits of a MIGRATE descriptor; those of a move depend on whether the page is compressed as the word executes (R375, log 25). -/
def State.migrateOk (s : State) (d : BitVec 256) : Bool :=
  let op := bits d 80 8
  let target := bits d 128 64
  let off := target % 2 ^ 43
  bits d 0 16 = 0 && s.ctxs.any (fun c => c.image.getLsbD 16 && c.image.extractLsb' 0 16 == d.extractLsb' 64 16) &&
  op < 3 && bits d 88 40 = 0 && bits d 192 64 = 0 && target / 2 ^ 43 = s.ident && off < 7 * 2 ^ 40 &&
  (match op with
    | 0 => (match (s.pageEntry (d.extractLsb' 64 16) (d.extractLsb' 0 64)).1 with
      | .ok (pte, _) =>
        if pte.getLsbD 11 then target % 4096 = 0 && 2 ^ 40 ≤ off && target / 4096 % 16 + (s.pageContent pte).2 ≤ 16 else target % 65536 = 0
      | _ => target % 4096 = 0)
    | 1 => target % 65536 = 0 && 2 ^ 40 ≤ off
    | _ => target % 65536 = 0)

/-- The die whose migration engine takes a command: the page's home die, or die 0 where the page has no frame. -/
def State.migrationDie (s : State) (d : BitVec 256) : Nat :=
  match (s.pageEntry (d.extractLsb' 64 16) (d.extractLsb' 0 64)).1 with
  | .ok (pte, _) => homeDie (pte.toNat % 2 ^ 56 / 2 ^ 16 * 2 ^ 16 % 2 ^ 43)
  | _ => 0

/-- MIGRATE (R341, R375). -/
def execMigrate (d a : BitVec 5) (s : State) : Result :=
  let s := s.needPrivilege
  .next (if !s.goes then s
    else match s.readDescriptor a 8 4 with
      | (none, s) => s
      | (some v, s) =>
        let x : BitVec 256 := BitVec.ofNat 256 v
        if !s.migrateOk x then s.illegal 7 0 else s.holdCommand d (48 + s.migrationDie x) (.migrate x))

end Sys2Proof.Machine
end

