-- ==== Sys2Proof/Machine/Coherence.lean ====
section
/-! DEFINITION. The requests and messages of agents as events (R250 to R252), the invalidation of an agent's copy (R228, R251),
cluster-cache eviction (R244) and the scrub (R414). The copies themselves hold no value of their own: the current value of a line
stands in memory and in the cluster caches (log 9). -/

namespace Sys2Proof.Machine

open Sys2Proof

/-! ## Requests (R250) -/

/-- SHARED_READ: the home serves a shared read by an agent, of one of the line's sectors (R250). A line of another device is granted
there. -/
def execSharedRead (line agent : Nat) (s : State) : Result :=
  .next (if !isAgent agent || !(s.ownLine line || s.localAgent agent) then s
    else { s with free := s.free + 1 }.sharedRead (some agent) (line * 128 + Config.number s.free % 4 * 32))

/-- OWN_READ: the home serves an own-read by an agent, with one of the line's sectors: every other copy goes, a multicast is counted on
the home die, and the requester owns the line (R250, R251). -/
def execOwnRead (line agent : Nat) (s : State) : Result :=
  .next (if !isAgent agent || !(s.ownLine line || s.localAgent agent) then s
    else { s with free := s.free + 1 }.ownRead (some agent) (line * 128 + Config.number s.free % 4 * 32))

/-- WRITE_BACK: an owner in M or O writes its dirty data back and gives its copy up (R249, R250); at a home that cannot read the line it
is lost (R253). -/
def execWriteBack (line agent : Nat) (s : State) : Result :=
  .next (if !isAgent agent || !s.hasCopy line agent then s
    else if !s.ownLine line then s.dropCopy line agent
    else match s.homeMeta line with
      | (none, s) => s.dropCopy line agent
      | (some x, s) => if x.ptr = agent && (x.coh = .m || x.coh = .o) then s.evictCopy line agent else s)

/-- CLEAN_EVICT: an agent discards a clean copy; the owner in E tells the home, a sharer does not (R249, R250). -/
def execCleanEvict (line agent : Nat) (s : State) : Result :=
  .next (if !isAgent agent || !s.hasCopy line agent then s
    else match (if s.ownLine line then Meta.ofBits (s.metaBits line) else none) with
      | some x => if x.ptr = agent && (x.coh = .m || x.coh = .o) then s else s.evictCopy line agent
      | none => s.evictCopy line agent)

/-- FORWARD: an agent that owns a line receives a forward; for an own-read it discards its copy, for a shared read it keeps it,
and one that no longer holds the line answers so (R250, R252). -/
def execForward (line agent : Nat) (own : Bool) (s : State) : Result :=
  .next (if own && isAgent agent then (if s.ownsBad line agent then s.loseLine line else s).dropCopy line agent else s)

/-- INVALIDATION: an agent discards its copy, if it holds one, and acknowledges (R228, R251). -/
def execInvalidation (line agent : Nat) (s : State) : Result :=
  .next (if isAgent agent then s.dropCopy line agent else s)

/-! ## Cluster caches and the scrub -/

/-- CLUSTER_CACHE_EVICTION: a cluster cache gives up one sector (R244). Its home must be within reach. -/
def execClusterCacheEviction (cluster sector : Nat) (s : State) : Result :=
  .next (if s.pathDown (sector * 32) then s else s.evictSector cluster (sector * 32))

/-- The home die of a line of this device. -/
def State.homeOf (s : State) (line : Nat) : Option Nat := if s.ownLine line then some (homeDie (line * 128 % 2 ^ 43)) else none

/-- The entry is a soft error in a line of the die's memory. -/
def State.softOn (s : State) (d : Nat) (x : Damage) : Bool :=
  match x with
  | .soft n => s.homeOf n == some d
  | _ => false

/-- MEMORY_SCRUB: a home die reads every line of its memory and writes back those it corrects (R414); a line that it finds
uncorrectable is lost, its metadata included (R253, R416). -/
def execMemoryScrub (die : Nat) (s : State) : Result :=
  .next (if 8 ≤ die then s
    else
      let bad := (s.damage.filterMap (fun x => match x with
        | .line n => if s.homeOf n == some die then some n else none
        | _ => none)) ++ (s.metas.filter (fun x => s.homeOf x.1 == some die && (Meta.ofBits x.2).isNone)).map (·.1)
      let n := (s.damage.filter (s.softOn die)).length
      let s := { s with damage := s.damage.filter (fun x => !s.softOn die x) }.onDie die (fun x => { x with scrubbed := x.scrubbed + 1 })
      (bad.foldl State.loseLine s).countCorrected die n)

end Sys2Proof.Machine
end

