-- ==== Sys2Proof/Machine/Events.lean ====
section
/-! DEFINITION. What the device does by itself or for the world outside: issue selection and waking (R23, R118, R331, R338, R405),
urns and schedulers (R324 to R339, R407, R409), engines, streams and migration (R145, R281, R342, R355, R359, R360, R374), the
device registers as an agent outside a convoy writes them (R113, R242, R364, R365, R416, R419), the management masters (R379 to R389,
R421), fabric links (R383, R414, R417) and wear (R422). Operands that name nothing have no effect (log 33). -/

namespace Sys2Proof.Machine

open Sys2Proof

/-! ## Selection and waking (R23, R24, R331) -/

/-- The thread's walk of an address no longer meets a page that moves or is compressed (R374); for a strainer's read the page is present
too (R354). -/
def State.pageSettled (s : State) (t : Thread) (va : Word) (kind : Nat) (present : Bool) : Bool :=
  match s.walkFrom none va kind walkLevels (s.rootOf t) with
  | .stall _ _ => false
  | .fault 0x05 _ => !present
  | _ => true

/-- What the thread waits for has come about: its convoy is worth another try (R24, R331). What the model completes in line as a word
asks for it counts as come about where it can be completed now (log 15). A chain cell's wait ends as its line changes or its scope
entry does (R118, R292); a write that leaves the line as it was is the event SETVLHW_WAKE. -/
def State.awake (s : State) (t : Thread) : Bool :=
  match t.wait with
  | .none => true
  | .cell _ p seen => t.pin t.csr.hwscope.toNat ≠ (s.scopeOf t t.csr.hwscope.toNat).serial || (s.cellLine p).any (· ≠ seen)
  | .sem n _ => (s.sem n).err || (s.sem n).served.any (·.uid == t.uid) || !((s.sem n).queue.any (·.uid == t.uid))
  | .barrier => (s.barOf t.uid).all s.barDone
  | .join => t.join = 0
  | .spawn => s.tasksAt (clusterOf t.core) < 4096
  | .idle => s.sevent
  | .token k =>
    let s := match s.queues.find? (·.token == k) with
      | some c => s.drainQueue c.queue (s.queues.length + 1)
      | none => s
    !s.threads.any (fun x => x.uid == t.uid && x.tokens.any (·.2 == k))
  | .queue q own => s.queued q t.uid t.pc + own < queueCapacity q
  | .urn dies => dies.all (fun d => (s.die d).urn.length < 256)
  | .page va kind => s.pageSettled t va kind false
  | .governor => s.admits t.core
  | .commands limit => ((s.drainThread t.uid (· < 48)).queues.filter (fun c => c.uid == t.uid && c.queue < 48)).length ≤ limit
  | .fence queues => !(s.drainThread t.uid (fun q => queues.getLsbD q)).queues.any (fun c => c.uid == t.uid && queues.getLsbD c.queue)
  | .network port off size => s.netIn.any (fun x => x.uid == t.uid && x.port == port && x.off == off && x.size == size)
  | .drain entry => !(s.scopeOf t entry).draining
  | .strainer va => s.pageSettled t va 0 true
  | .attached reg => (t.bind reg).all (·.attached)
  | .attachment => s.attachments (clusterOf t.core) < 64
  | .translation va sel => !(s.others ++ [s.th]).any (fun x => x.uid ≠ t.uid && x.needs.any (fun y => y.pte.getLsbD 0 && y.matches va sel))
  | .creation slot => !s.creationStalls slot

/-- A thread is ready: resident, not stopped, and waiting for nothing that has not come about (R24, R331). -/
def State.isReady (s : State) (t : Thread) : Bool := t.run == .ready && !t.parked && s.awake t

/-- The ready threads of a core. -/
def State.readyAt (s : State) (core : Nat) : List Thread := s.threads.filter (fun t => t.core == core && s.isReady t)

/-- The thread has yielded, and no selection of its core has yet offered the other ready threads their opportunity (R88). -/
def Thread.owes (t : Thread) (ready : List Thread) : Bool := ready.any (fun x => t.yieldTo.contains x.uid)

/-- A thread's place in the order of selection, least first: issue priority, then round-robin (R23). DESIGN CHOICE (log 61): one pointer per
core serves all priorities, the turn passes to the slot after the one selected last, and after reset slot 1 comes first. -/
def State.turnOf (s : State) (t : Thread) : Nat := (3 - t.curPrio) * 4 + (t.slot + 7 - (s.coreRec t.core).turn) % 4

/-- The thread a core selects (R23, R88). -/
def State.pick (s : State) (core : Nat) : Option Thread :=
  let ready := s.readyAt core
  (ready.filter (fun t => !t.owes ready)).foldl (fun best t => match best with
    | none => some t
    | some b => if s.turnOf t < s.turnOf b then some t else some b) none

/-- A thread is passed over: at each multiple of 64 its issue priority rises one step, up to 3 (R331). -/
def Thread.passOver (t : Thread) : Thread :=
  { t with passed := t.passed + 1, curPrio := if (t.passed + 1) % 64 = 0 then min 3 (t.curPrio + 1) else t.curPrio }

/-- A core's selection of a thread: the other ready threads are passed over, and every ready thread has been offered its opportunity, so that
no YIELD of the core holds its thread back any longer (R88, R331, log 62). The selected thread is the one whose convoy the next step runs. -/
def State.select (s : State) (t : Thread) : State :=
  let others := (s.readyAt t.core).filter (·.uid != t.uid)
  let s := s.onThreads (fun x => others.any (·.uid == x.uid)) Thread.passOver
  let s := s.onThreads (fun x => x.core == t.core) (fun x => { x with yieldTo := [] })
  (s.switchTo t.uid).putCore { s.coreRec t.core with turn := t.slot }

/-- CONVOY_ISSUE: a core selects a ready thread; the next step runs its convoy (R23, log 1, 2). -/
def execConvoyIssue (core : Nat) (s : State) : Result :=
  .next (match s.pick core with
    | some t => s.switchTo t.uid
    | none => s)

/-- ISSUE_AGEING: a ready thread is passed over in an opportunity of its core (R331). -/
def execIssueAgeing (core slot : Nat) (s : State) : Result :=
  .next (s.onThreads (fun t => t.core == core && t.slot == slot && s.isReady t) Thread.passOver)

/-- Waits that meet a condition end. -/
def State.wake (s : State) (p : Thread → Bool) : State := s.onThreads p (fun t => { t with wait := .none })

/-- TJOIN_RELEASE: a thread whose join counter has reached 0 need not wait (R338). -/
def execTjoinRelease (core slot : Nat) (s : State) : Result :=
  .next (s.wake (fun t => t.core == core && t.slot == slot && t.wait == .join && t.join == 0))

/-- SETVLHW_WAKE: a write to a chain cell's line wakes the words that wait there (R118). -/
def execSetvlhwWake (line : Nat) (s : State) : Result := .next (s.wake (fun t => match t.wait with
  | .cell l _ _ => l == line
  | _ => false))

/-- IDLE_WAKE: a control core's IDLE ends once sevent reads 1 (R405). -/
def execIdleWake (core : Nat) (s : State) : Result :=
  .next (s.wake (fun t => t.core == core && t.wait == .idle && s.sevent))

/-! ## Traps and scope entries -/

/-- TRAP_RECORD_WRITE: the oldest waiting record enters the ring if it has room (R392). -/
def execTrapRecordWrite (s : State) : Result := .next s.writeTrapRecord

/-- THREAD_RESUME: a write of the thread-resume register (R392). -/
def execThreadResume (value : BitVec 64) (s : State) : Result := .next (s.resumeThread value)

/-- SCOPEPUT_DRAIN_COMPLETE: the last operation in flight at an entry's old serial is complete (R292 step 5). -/
def execScopeputDrainComplete (slot entry : Nat) (s : State) : Result :=
  let settle := fun (x : ScopeEntry × Nat) => if x.2 = entry then { x.1 with draining := false } else x.1
  .next { s with ctxs := updWhere (fun (c : Ctx) => c.slot == slot) (fun (c : Ctx) => { c with scopes := c.scopes.zipIdx.map settle }) s.ctxs }

/-! ## Urns and schedulers -/

/-- DOORBELL: a write of the doorbell (R324). -/
def execDoorbell (value : BitVec 64) (s : State) : Result := .next (s.ringDoorbell value)

/-- HOST_QUEUE_ENABLE: system software enables a host queue (R324). -/
def execHostQueueEnable (queue slot : Nat) (base : BitVec 64) (k : Nat) (s : State) : Result := .next (s.enableQueue queue slot base k)

/-- DEPENDENCE_CELL_READ: an urn reads a launch's dependence cells again (R329). -/
def execDependenceCellRead (launch : Nat) (s : State) : Result := .next (s.readCells launch).dispatchAll

/-- GANG_PLACEMENT: the urn of a die tries a cluster, counted within the die, for its head's next gang (R326 to R328). -/
def execGangPlacement (die cluster : Nat) (s : State) : Result :=
  .next (if die < 8 && cluster < 16 then (s.placeHead die cluster).dispatchAll else s)

/-- Park-region bytes that a gang's images take (R406, R408). -/
def State.gangBytes (s : State) (l : Launch) (g : Gang) : Nat := ((s.gangThreads l.id g.num).map Thread.imageBytes).sum

/-- The places of the images of gangs that are parked together, each in the region of its die, or nothing where one is full (R407,
R408). -/
def State.parkPlaces (s : State) (l : Launch) (gs : List Gang) : Option (List (Nat × Nat)) :=
  (List.range 8).foldl (fun acc d => acc.bind (fun p =>
    (s.parkPlan d ((gs.filter (·.die == d)).map (fun g => s.gangThreads l.id g.num)).flatten (s.parkedImages d)).map (p ++ ·))) (some [])

/-- The threads of a gang stop: accepted diagonal words complete, and copies are drained as far as they go (R211, R344, R407
step 2). -/
def State.settleGang (s : State) (l : Launch) (g : Gang) : State :=
  (s.gangThreads l.id g.num).foldl (fun s t => (s.drainDiag t.core).drainThread t.uid (· < 32)) s

/-- Nothing that a gang's threads have begun is on its way: no copy that could still be performed, and no load at a network window
(R407 step 2). -/
def State.gangQuiet (s : State) (l : Launch) (g : Gang) : Bool :=
  s.gangCommandsDone l g && !(s.netOut.any (fun a => !a.store && (s.gangThreads l.id g.num).any (·.uid == a.uid)))

/-- PARK: the urn of a die whose head cannot be placed parks the gang that gives way first, and with it the rest of a co-resident
launch; a full region is logged, and copies that stall or a load on its way hold the park up (R333, R407, R408). -/
def execPark (die launch gang : Nat) (s : State) : Result :=
  .next (match s.urnHead die with
    | none => s
    | some h =>
      if s.headFits die h then s
      else match s.victim die h.prio with
        | none => s
        | some (l, g) =>
          if l.id ≠ launch || g.num ≠ gang then s
          else
            let gs := l.parkSet g
            match s.parkPlaces l gs with
            | none => s.blackBox die 0x0B (s.asidOfSlot l.ctx) (BitVec.ofNat 64 (s.gangBytes l g))
            | some plan =>
              let s := gs.foldl (fun s g => s.settleGang l g) s
              if gs.all (s.gangQuiet l) then gs.foldl (fun s g => s.parkGang l g g.die plan) s else s)

/-- RESUME: the urn of a die resumes the parked gang at its head on a cluster, counted within the die (R326, R333, R409). -/
def execResume (die cluster : Nat) (s : State) : Result :=
  .next (if die < 8 && cluster < 16 then s.resumeHead die cluster else s)

/-- TASK_START: a free slot of a gang takes the gang's oldest queued task (R337). -/
def execTaskStart (core slot : Nat) (s : State) : Result := .next (s.startTask core slot)

/-- TASK_DEADLOCK: the scheduler terminates the context of a gang that cannot go on (R339). -/
def execTaskDeadlock (launch gang : Nat) (s : State) : Result :=
  .next (match s.launch launch with
    | none => s
    | some l =>
      match l.gangs.find? (·.num == gang) with
      | none => s
      | some g => if s.deadlocked l g then (s.terminate l.ctx (some l.id)).dispatchAll else s)

/-- LAUNCH_COMPLETION: a launch whose gangs have all retired and been cleaned completes (R335). -/
def execLaunchCompletion (launch : Nat) (s : State) : Result := .next (s.completeLaunch launch).dispatchAll

/-! ## Engines, streams and migration -/

/-- ENGINE_COMMAND_EXECUTE: an engine performs the next command of its queue (R281). -/
def execEngineCommandExecute (queue : Nat) (s : State) : Result := .next (s.runQueue queue)

/-- COMMAND_COMPLETION: an engine writes the token of its oldest command (R342). -/
def execCommandCompletion (queue : Nat) (s : State) : Result := .next (s.completeQueue queue)

/-- MEDIA_PARAMETER_READ: a media engine in mode 2 takes its parameter semaphore and reads a slot (R359). -/
def execMediaParameterRead (queue : Nat) (s : State) : Result := .next (s.mediaParams queue)

/-- A media command can end with a failure of the engine's own: reason 3 is a decode's, 4 an encode's (R343). -/
def mediaReason (c : Cmd) (reason : Nat) : Bool :=
  match c.kind with
  | .media block => reason = 1 || reason = 2 || (reason = 3 && decodes block) || (reason = 4 && !decodes block)
  | _ => false

/-- MEDIA_ENGINE_FAILURE: a media engine's current command fails with a reason from 1 to 4 (R343, R360). -/
def execMediaEngineFailure (queue reason : Nat) (s : State) : Result :=
  .next (match (if 32 ≤ queue && queue < 48 then s.working queue else none) with
    | some c => if mediaReason c reason then s.failCmd c reason else s
    | none => s)

/-- PAGE_EXPAND: the migration engine of a compressed page's home die, which an access has woken, expands the page into a reserved frame
(R374); which frame is the event's to say (log 25). -/
def execPageExpand (asid : BitVec 16) (va target : BitVec 64) (s : State) : Result :=
  let done := fun (s : State) => { s with woken := s.woken.erase (asid, pageOf va) }
  .next (if !s.woken.contains (asid, pageOf va) then s
    else match s.pageEntry asid va with
      | (.ok (pte, a), s1) =>
        if pte.getLsbD 10 then s
        else if !pte.getLsbD 11 then done s1
        else match s1.movePage asid va pte a 2 target.toNat with
          | (.fail 7, _) => s
          | (.stall, s1) => s.woke s1
          | (_, s1) => done s1
      | (_, s1) => done s1)

/-- An operation on the thread of a slot, which is current while it lasts. -/
def State.asSlot (s : State) (core slot : Nat) (f : State → State) : State :=
  match s.threads.find? (fun t => t.core == core && t.slot == slot && !t.parked) with
  | some t => (f (s.switchTo t.uid)).switchTo s.th.uid
  | none => s

/-- STRAINER_DECODE: a strainer decodes one block into a chunk for an attached binding (R353 to R355). -/
def execStrainerDecode (core slot reg : Nat) (s : State) : Result := .next (s.asSlot core slot (fun s => s.strainAhead reg s.sew s.vl))

/-- STREAM_PREFETCH: a read stream fetches an element ahead (R145). -/
def execStreamPrefetch (core slot reg : Nat) (s : State) : Result := .next (s.asSlot core slot (fun s => s.prefetch reg s.sew s.vl))

/-! ## Device registers written from outside a convoy -/

/-- CONTEXT_CREATE: valid is written to 1 (R365). -/
def execContextCreate (slot : Nat) (s : State) : Result :=
  .next (if slot < 64 && !s.creationStalls slot then s.createContext slot else s)

/-- CONTEXT_TERMINATE: valid is written to 0 (R365). -/
def execContextTerminate (slot : Nat) (s : State) : Result :=
  .next (if slot < 64 then (s.terminate slot none).dispatchAll else s)

/-- MAXLANE: a compute core's maxlane is written (R113). -/
def execMaxlane (core : Nat) (value : BitVec 64) (s : State) : Result := .next (if core < 4096 then s.setMaxlane core value else s)

/-- DBUDGET: a compute core's dbudget is written (R113). -/
def execDbudget (core : Nat) (value : BitVec 64) (s : State) : Result := .next (if core < 4096 then s.setBudget core value else s)

/-- LOST_LINE_CLEAR: a line's entry is cleared (R416). -/
def execLostLineClear (value : BitVec 64) (s : State) : Result := .next (s.clearLost value)

/-- A device reset is asked for; it follows the event (R419). -/
def State.askReset (s : State) : State := s.onCv (fun c => { c with reset := true })

/-- DEVICE_RESET_WRITE: the reset register is written; only a write of 1 resets (R419). -/
def execDeviceResetWrite (value : BitVec 64) (s : State) : Result := .next (if value = 1 then s.askReset else s)

/-- A device register whose write has an event of its own: the reset register, the doorbell, the thread-resume register, the lost-line
clear register and the pairs of R113. -/
def ownEvent (offset : Nat) : Bool :=
  let o := offset - deviceStart
  [0x10, 0x100, 0x3020, 0x5000].contains o || (0x10000 ≤ o && o < 0x20000)

/-- DEVICE_REGISTER_WRITE: a write from outside a convoy of a device register without an event of its own; one that no register takes is
ignored, and takes no fault (R242). A reset comes by DEVICE_RESET_WRITE, a control core's, or from the holder (R379, R419). -/
def execDeviceRegisterWrite (offset size : Nat) (value : BitVec 64) (s : State) : Result :=
  .next (if deviceLegal offset size true && deviceStart ≤ offset && !ownEvent offset then s.deviceWrite offset size value else s)

/-! ## The management masters -/

/-- MGMT_SEMAPHORE_CAS: a master's compare-and-swap (R381). -/
def execMgmtSemaphoreCas (port : Bool) (expected new : BitVec 64) (s : State) : Result := .next (s.mgmtCas port expected new)

/-- HOLDER_LINK_DOWN: the link of a port goes down (R381). -/
def execHolderLinkDown (port : Bool) (s : State) : Result := .next (s.linkLost port)

/-- An operation that needs the semaphore: refused with "not holder" where the port does not hold it (R379). -/
def State.asHolder (s : State) (port : Bool) (f : State → State) : State := if s.holds port then f s else s.reply (.notHolder port)

/-- STAGE_IMAGE: a firmware image is written to flash for the next boot (R379). -/
def execStageImage (port : Bool) (image : List (BitVec 8)) (s : State) : Result :=
  .next (s.asHolder port (fun s => { s with flash := s.flash ++ [image] }.reply (.done port)))

/-- A stage's rollback counter rises to the security version of its running image (R387). -/
def State.commit (s : State) (stage : Nat) : State :=
  if 1 ≤ stage && stage ≤ s.stage then
    { s with rollback := vput s.rollback (stage - 1) (max (vget s.rollback (stage - 1) 0) (vget s.versions (stage - 1) 0)) }
  else s

/-- COMMIT_VERSION: a stage's rollback counter is raised (R379, R387). -/
def execCommitVersion (port : Bool) (stage : Nat) (s : State) : Result :=
  .next (s.asHolder port (fun s => (s.commit stage).reply (.done port)))

/-- SET_IDENTITY: the identity is set once per reset (R379, R382). -/
def execSetIdentity (port : Bool) (value : BitVec 64) (s : State) : Result :=
  .next (s.asHolder port (fun s =>
    if 4608 ≤ value.toNat || s.identity.getLsbD 15 then s.reply (.refused port)
    else (s.setIdent (value ||| 0x8000#64)).reply (.done port)))

/-- MGMT_DEVICE_RESET: the holder resets the device (R379, R419). -/
def execMgmtDeviceReset (port : Bool) (s : State) : Result := .next (s.asHolder port (fun s => s.askReset.reply (.done port)))

/-- ATTESTATION_REQUEST: a master asks for a report (R388). -/
def execAttestationRequest (port : Bool) (nonce : BitVec 256) (s : State) : Result := .next (s.attest port nonce)

/-- BLACK_BOX_READ: a master reads the rings and their flash copies (R379, R421). -/
def execBlackBoxRead (port : Bool) (s : State) : Result := .next (s.reply (.blackBox port (s.dies.toList.map (·.bb)) s.bbFlash))

/-! ## Links, power-on and wear -/

/-- LINK_TRAINING: a fabric port exchanges identities with its peer (R383). -/
def execLinkTraining (port : Nat) (peer : BitVec 16) (s : State) : Result := .next (if port < 18 then s.trainLink port peer else s)

/-- FLIT_REPLAY: a flit is replayed; after 8 replays the link goes to training (R414). -/
def execFlitReplay (port : Nat) (good : Bool) (s : State) : Result := .next (if port < 18 then s.replayFlit port good else s)

/-- FABRIC_LINK_DOWN: a fabric port goes down (R417). -/
def execFabricLinkDown (port : Nat) (s : State) : Result :=
  .next (if port < 18 && s.fabric.getLsbD port then s.dropLink port else s)

/-- COLD_BOOT: power-on (R384 to R389). -/
def execColdBoot (s : State) : Result := .next s.coldStart

/-- WEAR_UPDATE: a die's figure changes (R422). -/
def execWearUpdate (die : Nat) (value : BitVec 16) (firmware : Bool) (s : State) : Result :=
  .next (if die < 9 then s.setWear die value firmware else s)

/-- NETWORK_WINDOW_RESPONSE: a response arrives for a load that waits at a network window (R241, log 31). -/
def execNetworkWindowResponse (port : Bool) (offset : Nat) (value : BitVec 512) (s : State) : Result :=
  .next (match s.netOut.find? (fun a => a.port == port && a.off == offset && !a.store) with
    | some a => { s with netOut := s.netOut.erase a, netIn := s.netIn ++ [{ a with data := value &&& BitVec.ofNat 512 (2 ^ (8 * a.size) - 1) }] }
    | none => s)

end Sys2Proof.Machine
end

