-- ==== Sys2Proof/Machine/Tree.lean ====
section
/-! DEFINITION. Token trees (R217 to R226), the caddy (R227 to R230) and the radix walker (R231 to R236). -/

namespace Sys2Proof.Machine

open Sys2Proof

/-! ## Trees (R217, R218) -/

/-- Node `i` and its ancestors, deepest first; `fuel` bounds the path (R218). -/
def Tree.up (t : Tree) : Nat → Nat → List Nat
  | 0, _ => []
  | fuel + 1, i => i :: (match (t.nodes[i]?).bind (·.parent) with
    | some p => t.up fuel p
    | none => [])

/-- anc(i) in ascending depth. -/
def Tree.path (t : Tree) (i : Nat) : List Nat := (t.up (t.nodes.length) i).reverse

/-- The length of the chain 0, 1, ... from the root (R223). -/
def Tree.chain (t : Tree) : Nat :=
  (t.nodes.zipIdx.takeWhile (fun (x, i) => match x.parent with
    | none => i = 0
    | some p => p + 1 = i)).length

/-- The checks of a TREE word: alignment, the other TREE words of the convoy, of which the second fails where any changes its tree (R220),
then allocation in field order; `pre` is a written group in vd, `post` a group read through vb, `masks` what it writes. -/
def State.checkTree (s : State) (t : BitVec 5) (changing : Bool) (pre post : List Grp) (masks : List Nat) : State :=
  let gs := pre ++ post
  match gs.find? (fun g => g.reg % g.align ≠ 0) with
  | some g => s.illegal 4 g.reg
  | none =>
    let clash := 0 < s.cv.trees.1 && (changing || s.cv.trees.2)
    if clash || gs.any s.badChunk || gs.any s.badBound || s.breaksWhole gs masks then s.illegal 7 0
    else
      let s := s.onCv (fun c => { c with trees := (c.trees.1 + 1, c.trees.2 || changing) })
      match (pre.flatMap Grp.list).find? (fun r => s.th.nregs ≤ r) with
      | some r => s.allocFault 0 r
      | none =>
        if t.toNat ≠ s.th.slot then s.allocFault 2 t.toNat
        else match (post.flatMap Grp.list).find? (fun r => s.th.nregs ≤ r) with
          | some r => s.allocFault 0 r
          | none => s

/-- A changing word acts: its convoy issued with vstart 0 (R220). -/
def State.changesTree (s : State) : Bool := s.cv.vstart0 = 0

/-- A changing word's effect: the tree and, with a scalar destination, its result; both stand under R220. -/
def State.setTree (s : State) (t : Tree) (d : Option (BitVec 5 × Nat)) : State :=
  let s := (s.onTh (fun x => { x with tree := t })).keepStanding (.tree t)
  match d with
  | some (r, v) =>
    let s := s.setReg r (BitVec.ofNat 64 v)
    s.keepStanding (.sreg r.toNat (s.reg r))
  | none => s

/-- TTCLR (R221). -/
def execTtclr (t b : BitVec 5) (s : State) : Result :=
  let s := s.checkTree t true [] [] []
  .next (if s.goes && s.changesTree then s.setTree ⟨(s.reg b).setWidth 40, []⟩ none else s)

/-- TTADD's loop over elements (R221): the nodes so far and the count added. -/
def addNodes (n0 : Nat) : List (Nat × Int) → List TreeNode → Nat → List TreeNode × Nat
  | [], nodes, m => (nodes, m)
  | (e, q) :: rest, nodes, m =>
    if nodes.length = 64 || !(q == -1 || (0 ≤ q && q < (n0 + e : Nat))) then (nodes, m)
    else addNodes n0 rest (nodes ++ [⟨if q = -1 then none else some q.toNat, nodes.length⟩]) (m + 1)

/-- TTADD (R221). A resumed word consumes what is left of its chunk and changes nothing (R169, R220, log 42). -/
def execTtadd (d t b : BitVec 5) (s : State) : Result :=
  let gb := s.grp b .source
  let s := s.checkTree t true [] [gb] []
  let s := if s.goes then (s.consumeWhole [gb]).noteWhole [gb] [] else s
  .next (if !s.goes || !s.changesTree then s
      else
        let tr := s.th.tree
        let qs := (List.range s.vl).map (fun e => (e, toSigned s.sew (s.elem b.toNat e s.sew)))
        let (nodes, m) := addNodes tr.nodes.length qs tr.nodes 0
        s.setTree { tr with nodes := nodes } (some (d, m)))

/-- TTPRUNE (R222). -/
def execTtprune (d t b : BitVec 5) (s : State) : Result :=
  let s := s.checkTree t true [] [] []
  .next (if !s.goes || !s.changesTree then s
      else
        let tr := s.th.tree
        let x := (s.reg b).toNat
        if tr.nodes.length ≤ x then s.setTree { tr with nodes := [] } (some (d, 0))
        else
          let path := tr.path x
          let nodes := path.zipIdx.map (fun (a, j) =>
            (⟨if j = 0 then none else some (j - 1), ((tr.nodes[a]?).map (·.origin)).getD 0⟩ : TreeNode))
          s.setTree { tr with nodes := nodes } (some (d, path.length)))

/-- TTCOMMIT (R223). -/
def execTtcommit (d t b : BitVec 5) (s : State) : Result :=
  let s := s.checkTree t true [] [] []
  .next (if !s.goes || !s.changesTree then s
      else
        let tr := s.th.tree
        let c := min (s.reg b).toNat tr.chain
        s.setTree ⟨BitVec.ofNat 40 (min (tr.base.toNat + c) (2 ^ 40 - 1)), []⟩ (some (d, c)))

/-- TTMASK: bits 0 to vl - 1, whatever vstart holds, then the tail (R224). -/
def execTtmask (d t b : BitVec 5) (s : State) : Result :=
  let s := s.checkTree t false [] [] [d.toNat]
  .next (if !s.goes || s.vl = 0 then s
    else
      let tr := s.th.tree
      let o := (s.reg b).toNat
      let s := (List.range s.vl).foldl (fun s i =>
        s.onTh (fun x => x.putMaskBit d.toNat i (i < tr.nodes.length && o ≤ i && (tr.path i).contains (i - o)))) s
      if s.ta then s.maskFrom d.toNat s.vl true else s)

/-- A vector result of a TREE word: values for the first elements, all-ones for the others below vl, then the tail (R225). -/
def State.treeVector (s : State) (d : BitVec 5) (vals : List Nat) : State :=
  if s.vl = 0 then s
  else
    let n := s.sew
    let s := (List.range s.vl).foldl (fun s e => s.putElem d.toNat e n ((vals[e]?).getD (2 ^ n - 1))) s
    let s := if s.ta then s.onesFrom d.toNat s.vl n s.lmul else s
    s.emitWhole d.toNat 0 true

/-- TTPOS (R225). -/
def execTtpos (d t : BitVec 5) (s : State) : Result :=
  let s := s.checkTree t false [s.grp d .dest] [] []
  let tr := s.th.tree
  .next (if s.goes then
    s.treeVector d ((List.range tr.nodes.length).map (fun i => tr.base.toNat + (tr.path i).length - 1))
  else s)

/-- TTPATH (R225). -/
def execTtpath (d t b : BitVec 5) (s : State) : Result :=
  let s := s.checkTree t false [s.grp d .dest] [] []
  let tr := s.th.tree
  let x := (s.reg b).toNat
  .next (if s.goes then
    s.treeVector d (if x < tr.nodes.length then (tr.path x).map (fun i => ((tr.nodes[i]?).map (·.origin)).getD 0) else [])
  else s)

/-- TTCOUNT (R225). -/
def execTtcount (d t : BitVec 5) (s : State) : Result :=
  let s := s.checkTree t false [] [] []
  .next (if s.goes then s.setReg d (BitVec.ofNat 64 (s.th.tree.base.toNat * 256 + s.th.tree.nodes.length)) else s)

/-! ## The caddy (R227, R229, R236) -/

/-- The block that gives way to a new one in its set: the oldest unprotected, else the oldest (R229). -/
def caddyVictim (l : List CaddyBlock) : Option CaddyBlock :=
  let oldest (xs : List CaddyBlock) : Option CaddyBlock := match xs with
    | [] => none
    | x :: t => some (t.foldl (fun b y => if y.age < b.age then y else b) x)
  (oldest (l.filter (fun b => !b.protect))).orElse (fun _ => oldest l)

/-- The set of 16 ways that a block falls in (R227); the hash is free (log 36). -/
def setOf (tag : Nat) : Nat := Config.caddySet tag % 4096

/-- A 16 KiB block becomes resident in a die's caddy, its protect bit set or cleared, or left as it is (R229). DESIGN CHOICE (log 73): a
block's age is renewed here, when KVWALK or KVHINT makes it resident or names it again, and not when it serves an access. -/
def State.touchCaddy (s : State) (d addr : Nat) (protect : Option Bool) : State :=
  s.onDie d (fun x =>
    let tag := addr / 16384
    let now := x.caddy.foldl (fun m b => max m (b.age + 1)) 0
    match x.caddy.find? (·.tag == tag) with
    | some b => { x with caddy := { b with protect := protect.getD b.protect, age := now } :: x.caddy.filter (·.tag != tag) }
    | none =>
      let ways := x.caddy.filter (fun b => setOf b.tag == setOf tag)
      let l := if ways.length < 16 then x.caddy else match caddyVictim ways with
        | some v => x.caddy.filter (·.tag != v.tag)
        | none => x.caddy
      { x with caddy := ⟨tag, 0, protect.getD false, now⟩ :: l })

/-- A resident block loses its protection and its copy (R236). DESIGN CHOICE (log 73): it stays resident, its tag kept, with no valid
sector. -/
def State.dropCaddy (s : State) (d addr : Nat) : State :=
  s.onDie d (fun x => { x with caddy := updWhere (fun b => b.tag == addr / 16384) (fun b => { b with protect := false, valid := 0 }) x.caddy })

/-- What KVWALK, KVHINT and KVDROP do to a block of a caddy (R229, R236). -/
def State.actCaddy (s : State) (d addr : Nat) : CaddyAct → State
  | .touch p => s.touchCaddy d addr p
  | .drop => s.dropCaddy d addr

/-- The memory of a device that an accessed place is, as a global physical address: HBM or the capacity tier (R227). -/
def memoryAt : Target → Option Nat
  | .cluster _ a => if a % 2 ^ 43 < 7 * 2 ^ 40 then some a else none
  | _ => none

/-- The block of a place acts in the caddy of the thread's die, for element `e`. -/
def State.caddyFor (s : State) (t : Target) (act : CaddyAct) (e : Nat) : State :=
  match memoryAt t with
  | some a => if dieOf s.th.core < 8 then (s.actCaddy (dieOf s.th.core) a act).keep e (.caddy (dieOf s.th.core) a act) else s
  | none => s

/-- KVWALK makes the block of an address resident where the address translates; nothing is read, and no fault is taken (R229). -/
def State.residentBlock (s : State) (va : Word) (protect : Bool) (e : Nat) : State :=
  if !canonical va || isScratchAddr va then s
  else match s.walk none (s.rootOf s.th) va 0 (!isControl s.th.core) with
    | .leaf pte level _ =>
      s.caddyFor (targetOf (clusterOf s.th.core) (pte.extractLsb' 6 2).toNat (leafPhys pte level va)) (.touch (some protect)) e
    | _ => s

/-! ## The radix walker (R231 to R235) -/

/-- Items that a KVWALK has read: address, size and value; each is read once (R235). -/
abbrev WalkItems := List (Word × Nat × Nat)

/-- Read the doublewords of a place, lowest first. -/
def State.readWide (s : State) (t : Nat → Target) : List Nat → Nat × State
  | [] => (0, s)
  | i :: rest =>
    let (lo, s) := s.readAt (t i) 8
    let (hi, s) := s.readWide t rest
    (lo + 2 ^ 64 * hi, s)

/-- An item that not every sector of holds in the cluster cache is fetched whole (R235); what is dirty stays. -/
def State.wholeItem (s : State) (cl a n : Nat) : State :=
  let p : Sector → Bool := fun x => x.cluster == cl && a / 32 ≤ x.addr && x.addr ≤ (a + n - 1) / 32
  if ((s.sectors.filter p).filter (·.filled)).length = (a + n - 1) / 32 - a / 32 + 1 then s else s.discardWhere p

/-- Read an item of `n` bytes in one access with one translation (R235, log 50): nothing where it faults or waits. At a network window it
is one request, charged to the element. -/
def State.loadItem (s : State) (va : Word) (n e : Nat) : Option Nat × State :=
  if n ≤ 8 then s.load va n 0 e false
  else match s.resolve va n 0 e with
    | (.fault c i, s) => (none, s.raise c e i)
    | (.stall, s) => (none, s.waitFor (.page va 0) .nothing)
    | (.at_ t _, s0) =>
      let steps := (List.range (n / 8)).map (8 * ·)
      let part (i : Nat) : Target := match t with
        | .cluster cl a => .cluster cl (a + i)
        | .scratch c o => .scratch c (o + i)
        | t => t
      match t with
      | .device _ => (none, s0.raise 0x06 e (addrInfo va 0))
      | .window port off => s0.windowRead port off n e
      | t =>
        match steps.findSome? (fun i => s0.damageAt (part i)) with
        | some src => (none, s0.raise 0x07 e (dataInfo va 0 src))
        | none =>
          let s := match t with
            | .cluster cl a => s0.wholeItem cl a n
            | _ => s0
          let (v, s) := s.readWide part steps
          (some v, s)

/-- Read an item, or use what the word has read of it. -/
def State.walkItem (s : State) (c : WalkItems) (a : Word) (n e : Nat) : Option Nat × State × WalkItems :=
  match c.find? (fun x => x.1 == a && x.2.1 == n) with
  | some x => (some x.2.2, s, c)
  | none =>
    match s.loadItem a n e with
    | (some v, s) => (some v, s, (a, n, v) :: c)
    | (none, s) => (none, s, c)

/-- A radix node's record is well-formed (R231). -/
def nodeOk (r : Nat) : Bool :=
  let len := r / 2 ^ 64 % 2 ^ 32
  let row := r / 2 ^ 160 % 2 ^ 32
  1 ≤ len && 4 ≤ row && row ≤ 1024 && row % 4 = 0 && r / 2 ^ 192 % 8 = 0

/-- The walk through the nodes of a path from index `j` for position `p`: the row's address, all-ones where no node or no
usable entry covers it, or nothing where a read faults (R234). -/
def State.walkNodes (s : State) (c : WalkItems) (desc base : Word) (p e : Nat) : Nat → Nat → Option Nat × State × WalkItems
  | 0, _ => (some (2 ^ 64 - 1), s, c)
  | fuel + 1, j =>
    match s.walkItem c (desc + 16 + BitVec.ofNat 64 (4 * j)) 4 e with
    | (none, s, c) => (none, s, c)
    | (some id, s, c) =>
      match s.walkItem c (base + BitVec.ofNat 64 (64 * id)) 64 e with
      | (none, s, c) => (none, s, c)
      | (some r, s, c) =>
        let start := r % 2 ^ 64
        let len := r / 2 ^ 64 % 2 ^ 32
        if nodeOk r && start ≤ p && p < start + len then
          let x := p - start
          match s.walkItem c (BitVec.ofNat 64 (r / 2 ^ 192 % 2 ^ 64) + BitVec.ofNat 64 (8 * (x / 16))) 8 e with
          | (none, s, c) => (none, s, c)
          | (some ent, s, c) =>
            if ent % 16384 ≠ 0 then (some (2 ^ 64 - 1), s, c)
            else
              let s := s.residentBlock (BitVec.ofNat 64 ent) (1 < r / 2 ^ 128 % 2 ^ 32) e
              (some ((ent + x % 16 * (r / 2 ^ 160 % 2 ^ 32)) % 2 ^ 64), s, c)
        else s.walkNodes c desc base p e fuel (j + 1)

/-- One element of a KVWALK: a malformed descriptor gives all-ones (R232, R234). -/
def State.walkElem (s : State) (desc : Word) (a : BitVec 5) (c : WalkItems) (e : Nat) :
    Option (Nat × BitVec 6) × State × WalkItems :=
  if desc.toNat % 16 ≠ 0 then (some (2 ^ 64 - 1, 0), s, c)
  else
    match s.walkItem c desc 16 e with
    | (none, s, c) => (none, s, c)
    | (some h, s, c) =>
      let n := h / 2 ^ 64 % 65536
      if h % 64 ≠ 0 || n = 0 || 64 < n || h / 2 ^ 80 ≠ 0 then (some (2 ^ 64 - 1, 0), s, c)
      else
        let (r, s, c) := s.walkNodes c desc (BitVec.ofNat 64 h) (s.elem a.toNat e 64) e n 0
        (r.map (·, 0), s, c)

/-- KVWALK (R233 to R235). -/
def execKvwalk (d a b : BitVec 5) (k : BitVec 3) (l : BitVec 1) (s : State) : Result :=
  let gd := s.grp d .dest
  let ga := s.grp a .source
  let s := s.checkWord [gd, ga] [] (s.sew ≠ 64 || gd.overlaps ga)
  let desc := s.reg b
  .next (if !s.goes then s
    else (s.markLast l ga).elementwiseWith (.vec d.toNat s.sew s.lmul) [gd, ga] (markOf l a) k 0 ([] : WalkItems)
      (fun s c e => s.walkElem desc a c e))

/-- Where KVHINT and KVDROP find an address: a walk with every check of a load that leaves no bit in memory, no leaf and no walk copy, for
R236 gives these words no other effect than their faults and those on replacement (log 50). -/
def State.resolveHint (s : State) (a : Word) (n e : Nat) : Place × State :=
  match s.resolve a n 0 e with
  | (.at_ t attr, s') =>
    (.at_ t attr, { s'.onCv (fun c => { c with kept := s.cv.kept }) with mem := s.mem, tlb := s.tlb, slices := s.slices, walks := s.walks })
  | r => r

/-- An element of KVHINT or KVDROP: the address is checked as an 8-byte load, unaligned and without data, and the block of the place
that it names acts in the caddy (R236). -/
def State.hintElem (s : State) (va : Word) (e : Nat) (act : CaddyAct) : Option (Nat × BitVec 6) × State :=
  let check (s : State) (a : Word) (n : Nat) : Option Target × State :=
    match s.resolveHint a n e with
    | (.fault c i, s) => (none, s.raise c e i)
    | (.stall, s) => (none, s.waitFor (.page a 0) .nothing)
    | (.at_ (.device _) _, s) => (none, s.raise 0x06 e (addrInfo va 0))
    | (.at_ t _, s) => (some t, s)
  let (t, s) := check s va 8
  let s := if s.stopsAt e || isScratchAddr va || va.toNat % 65536 ≤ 65528 then s
    else (check s (va + BitVec.ofNat 64 (65536 - va.toNat % 65536)) 1).2
  if s.stopsAt e then (none, s)
  else (some (0, 0), match t with
    | some t => s.caddyFor t act e
    | none => s)

/-- The common part of KVHINT and KVDROP (R233, R236). -/
def State.hintWord (s : State) (a : BitVec 5) (k : BitVec 3) (l : BitVec 1) (bad : Bool) (act : CaddyAct) : State :=
  let ga := s.grp a .source
  let s := s.checkWord [ga] [] (s.sew ≠ 64)
  if !s.goes then s
  else if bad then s.illegal 7 0
  else (s.markLast l ga).elementwise .nowhere [ga] (markOf l a) k 0 (fun s e => s.hintElem (BitVec.ofNat 64 (s.elem a.toNat e 64)) e act)

/-- KVHINT (R233, R236). -/
def execKvhint (a b : BitVec 5) (k : BitVec 3) (l : BitVec 1) (s : State) : Result :=
  let flags := (s.reg b).toNat
  .next (s.hintWord a k l (1 < flags) (.touch (if flags = 1 then some true else none)))

/-- KVDROP (R233, R236). -/
def execKvdrop (a : BitVec 5) (k : BitVec 3) (l : BitVec 1) (s : State) : Result :=
  .next (s.hintWord a k l false .drop)

end Sys2Proof.Machine
end

