-- ==== Sys2Proof/Machine/Whole.lean ====
section
/-! DEFINITION. Words that read their sources whole: the reductions VRED (R163 to R169) and the permutes VPERM (R170 to R175). -/

namespace Sys2Proof.Machine

open Sys2Proof

/-! ## Reductions (R163 to R168) -/

/-- A reduction's head: checks against its legal SEWs, the chunk, the registers read whole and the mark. -/
def State.beginReduce (s : State) (a : BitVec 5) (k : BitVec 3) (l : BitVec 1) (sews : List Nat) : State :=
  let g := s.grp a .source
  s.beginWhole [g] [] [k.toNat] (!sews.contains s.sew) (some (l, g))

/-- The active elements of a group below vl, with their indices, whatever vstart holds (R164). -/
def State.activeElems (s : State) (a : BitVec 5) (k : BitVec 3) : List (Nat × Nat) :=
  ((List.range s.vl).filter (fun e => s.th.active k.toNat e)).map (fun e => (e, s.elem a.toNat e s.sew))

/-- A floating-point element as an FP32 code, exact; a signalling NaN stays one (R164). -/
def widenRaw (sew x : Nat) : Nat := if sew = 16 then x * 65536 else x

/-- An integer reduction over sign-extended elements, from an initial 64-bit value (R163). -/
def State.reduceInt (s : State) (d a b : BitVec 5) (k : BitVec 3) (l : BitVec 1) (f : Word → Word → Word) : State :=
  let s := s.beginReduce a k l [16, 32, 64]
  if s.goes then
    s.setReg d ((s.activeElems a k).foldl (fun r x => f r (BitVec.ofInt 64 (toSigned s.sew x.2))) (s.reg b))
  else s

/-- VREDSUM (R163). -/
def execVredsum (d a b : BitVec 5) (k : BitVec 3) (l : BitVec 1) (s : State) : Result := .next (s.reduceInt d a b k l (· + ·))

/-- VREDMIN (R163). -/
def execVredmin (d a b : BitVec 5) (k : BitVec 3) (l : BitVec 1) (s : State) : Result :=
  .next (s.reduceInt d a b k l (fun r x => if x.slt r then x else r))

/-- VREDMAX (R163). -/
def execVredmax (d a b : BitVec 5) (k : BitVec 3) (l : BitVec 1) (s : State) : Result :=
  .next (s.reduceInt d a b k l (fun r x => if r.slt x then x else r))

/-- One addition of FP32 codes by RNE, with the flags so far. -/
def addNearest (x y : Nat × BitVec 6) : Nat × BitVec 6 :=
  let r := fpAdd fmtF32 0 x.1 y.1
  (r.1, x.2 ||| y.2 ||| r.2)

/-- One level of a sum tree: neighbours are added. -/
def pairSums : List (Nat × BitVec 6) → List (Nat × BitVec 6)
  | x :: y :: t => addNearest x y :: pairSums t
  | t => t

/-- The sum of 64 values by six levels of pairs (R165). -/
def groupSum (xs : List Nat) : Nat × BitVec 6 :=
  ((List.range 6).foldl (fun l _ => pairSums l) (xs.map (fun x => (x, (0 : BitVec 6))))).headD (0x80000000, 0)

/-- VFREDSUM: one partial per canonical group, combined in group order (R165). -/
def execVfredsum (d a b : BitVec 5) (k : BitVec 3) (l : BitVec 1) (s : State) : Result :=
  let s := s.beginReduce a k l [16, 32]
  .next (if s.goes then
    let x (e : Nat) : Nat := if e < s.vl && s.th.active k.toNat e then widenRaw s.sew (s.elem a.toNat e s.sew) else 0x80000000
    let r := (List.range ((s.vl + 63) / 64)).foldl
      (fun r g => addNearest r (groupSum ((List.range 64).map (fun i => x (64 * g + i))))) (s.fp b, 0)
    s.fpResult d r
  else s)

/-- VFREDOSUM: element order (R166). -/
def execVfredosum (d a b : BitVec 5) (k : BitVec 3) (l : BitVec 1) (s : State) : Result :=
  let s := s.beginReduce a k l [16, 32]
  .next (if s.goes then
    s.fpResult d ((s.activeElems a k).foldl (fun r x => addNearest r (widenRaw s.sew x.2, 0)) (s.fp b, 0))
  else s)

/-- The index that a selection keeps: the first element that no later one beats. -/
def selectBest (better : Nat → Nat → Bool) : List (Nat × Nat) → Option (Nat × Nat)
  | [] => none
  | x :: t => some (t.foldl (fun b y => if better y.2 b.2 then y else b) x)

/-- Value and index, or the identity with index 0xFFFF_FFFF (R167). -/
def selectResult (r : Option (Nat × Nat)) (value : Nat → Nat) (identity : Nat) : Nat :=
  match r with
  | some (i, x) => value x + i * 2 ^ 32
  | none => identity + 0xFFFFFFFF * 2 ^ 32

/-- VFREDMINI and VFREDMAXI: NaN elements are ignored, a signalling one raises NV (R167). -/
def State.reduceFpIndex (s : State) (d a : BitVec 5) (k : BitVec 3) (l : BitVec 1) (greater : Bool) : State :=
  let s := s.beginReduce a k l [16, 32]
  if s.goes then
    let f := fmtOfSew s.sew
    let xs := s.activeElems a k
    let better (x y : Nat) : Bool := if greater then Fp.below (f.decode y) (f.decode x) else Fp.below (f.decode x) (f.decode y)
    let best := selectBest better (xs.filter (fun x => !(f.decode x.2).isNan))
    s.fpResult d (selectResult best (widenRaw s.sew) (if greater then 0xFF800000 else 0x7F800000),
      flagIf (xs.any (fun x => (f.decode x.2).isSnan)) flagNV)
  else s

/-- VFREDMINI (R167). -/
def execVfredmini (d a : BitVec 5) (k : BitVec 3) (l : BitVec 1) (s : State) : Result := .next (s.reduceFpIndex d a k l false)

/-- VFREDMAXI (R167). -/
def execVfredmaxi (d a : BitVec 5) (k : BitVec 3) (l : BitVec 1) (s : State) : Result := .next (s.reduceFpIndex d a k l true)

/-- VREDMINUI: unsigned at SEW (R167). -/
def execVredminui (d a : BitVec 5) (k : BitVec 3) (l : BitVec 1) (s : State) : Result :=
  let s := s.beginReduce a k l [16, 32]
  .next (if s.goes then
    s.setReg d (BitVec.ofNat 64 (selectResult (selectBest (fun x y => x < y) (s.activeElems a k)) id (2 ^ s.sew - 1)))
  else s)

/-! ## Permutes (R170 to R175) -/

/-- A permute with one source group and an optional index group: checks (R171), then element `e` receives `op e`. -/
def State.permute (s : State) (d a : BitVec 5) (idx : Option (BitVec 5)) (k : BitVec 3) (l : BitVec 1)
    (op : State → Nat → Option Nat) : State :=
  let gd := s.grp d .dest
  let ga := s.grp a .source
  let srcs := ga :: (match idx with
    | some b => [s.grp b .source]
    | none => [])
  let s := s.beginWhole (gd :: srcs) [] [k.toNat] (srcs.any gd.overlaps) (some (l, ga))
  if !s.goes then s
  else
    let s' := s.writeWhole (.vec d.toNat s.sew s.lmul) k.toNat (op s)
    s'.emitWhole d.toNat k.toNat true

/-- VSLIDEUP: elements below the offset stay (R172). -/
def execVslideup (d a b : BitVec 5) (k : BitVec 3) (l : BitVec 1) (s : State) : Result :=
  let off := (s.reg b).toNat
  .next (s.permute d a none k l (fun s e => if off ≤ e then some (s.elem a.toNat (e - off) s.sew) else none))

/-- VSLIDEDN (R172). -/
def execVslidedn (d a b : BitVec 5) (k : BitVec 3) (l : BitVec 1) (s : State) : Result :=
  let off := (s.reg b).toNat
  .next (s.permute d a none k l (fun s e => some (if e + off < s.vlmax then s.elem a.toNat (e + off) s.sew else 0)))

/-- VPERMUTE (R172). -/
def execVpermute (d a b : BitVec 5) (k : BitVec 3) (l : BitVec 1) (s : State) : Result :=
  .next (s.permute d a (some b) k l (fun s e =>
    let i := s.elem b.toNat e s.sew
    some (if i < s.vlmax then s.elem a.toNat i s.sew else 0)))

/-- VREV (R172). -/
def execVrev (d a : BitVec 5) (k : BitVec 3) (l : BitVec 1) (s : State) : Result :=
  .next (s.permute d a none k l (fun s e => some (s.elem a.toNat (s.vl - 1 - e) s.sew)))

/-- VEXPAND: the inverse of VCOMPRESS (R172). -/
def execVexpand (d a : BitVec 5) (k : BitVec 3) (l : BitVec 1) (s : State) : Result :=
  .next (s.permute d a none k l (fun s e => some (s.elem a.toNat (s.maskCount k.toNat e) s.sew)))

/-- VSCAN: inclusive prefix sums of the active elements from 0 up (R173). -/
def execVscan (d a b : BitVec 5) (k : BitVec 3) (l : BitVec 1) (s : State) : Result :=
  let init := (s.reg b).toNat
  .next (s.permute d a none k l (fun s e =>
    some ((((List.range (e + 1)).filter (fun i => s.th.active k.toNat i)).foldl (fun r i => r + s.elem a.toNat i s.sew) init) % 2 ^ s.sew)))

/-- VCONFLICT: the first active element of each value; inactive bits are 0 (R174). -/
def execVconflict (d a : BitVec 5) (k : BitVec 3) (l : BitVec 1) (s : State) : Result :=
  let ga := s.grp a .source
  let s := s.beginWhole [ga] [d.toNat] [k.toNat] false (some (l, ga))
  .next (if !s.goes then s
    else
      let first (e : Nat) : Bool := s.th.active k.toNat e &&
        !((List.range e).any (fun i => s.th.active k.toNat i && s.elem a.toNat i s.sew == s.elem a.toNat e s.sew))
      s.writeWhole (.mask d.toNat) 0 (fun e => some (if first e then 1 else 0)))

/-- A candidate enters a list sorted by value descending, before equal values. -/
def rankInsert (f : Fmt) (x : Nat × Nat) : List (Nat × Nat) → List (Nat × Nat)
  | [] => [x]
  | y :: t => if Fp.below (f.decode x.2) (f.decode y.2) then y :: rankInsert f x t else x :: y :: t

/-- VTOPK: indices to vd, values to vd + LMUL, the tail from k up (R175). -/
def execVtopk (d a b : BitVec 5) (k : BitVec 3) (l : BitVec 1) (s : State) : Result :=
  let ga := s.grp a .source
  let gi : Grp := ⟨d.toNat, 2 * s.lmul, s.lmul, .dest⟩
  let gv : Grp := ⟨d.toNat + s.lmul, s.lmul, s.lmul, .dest⟩
  let s := s.beginWhole [gi, gv, ga] [] [k.toNat] (s.sew = 64 || gi.overlaps ga || gv.overlaps ga) (some (l, ga))
  .next (if !s.goes || s.vl = 0 then s
    else
      let n := s.sew
      let f := fmtOfSew n
      let xs := s.activeElems a k
      let ranked := (xs.filter (fun x => !(f.decode x.2).isNan)).foldr (rankInsert f) []
      let top := min (s.reg b).toNat s.vl
      let s := s.orFlags (flagIf (xs.any (fun x => (f.decode x.2).isSnan)) flagNV)
      let s := (List.range top).foldl (fun s i =>
        let (j, v) := (ranked[i]?).getD (2 ^ n - 1, f.signed true (f.inf.getD f.maxCode))
        (s.putElem gi.reg i n j).putElem gv.reg i n v) s
      let s := if s.ta then (s.onesFrom gi.reg top n s.lmul).onesFrom gv.reg top n s.lmul else s
      (s.emitWhole gi.reg k.toNat true).emitWhole gv.reg k.toNat true)

end Sys2Proof.Machine
end

