-- ==== Sys2Proof/Machine/Dispatch.lean ====
section
/-! DEFINITION. One arm per instruction and event: each calls its meaning. -/

namespace Sys2Proof.Machine

open Sys2Proof

/-- Execute one instruction word or one event. -/
def exec (i : Instr) (s : State) : Host.Outcome State Fault Refusal :=
  match i with
  | .add d a b => Sys2Proof.Machine.execAdd d a b s
  | .sub d a b => Sys2Proof.Machine.execSub d a b s
  | .and d a b => Sys2Proof.Machine.execAnd d a b s
  | .or d a b => Sys2Proof.Machine.execOr d a b s
  | .xor d a b => Sys2Proof.Machine.execXor d a b s
  | .sll d a b => Sys2Proof.Machine.execSll d a b s
  | .srl d a b => Sys2Proof.Machine.execSrl d a b s
  | .sra d a b => Sys2Proof.Machine.execSra d a b s
  | .slt d a b => Sys2Proof.Machine.execSlt d a b s
  | .sltu d a b => Sys2Proof.Machine.execSltu d a b s
  | .min d a b => Sys2Proof.Machine.execMin d a b s
  | .max d a b => Sys2Proof.Machine.execMax d a b s
  | .minu d a b => Sys2Proof.Machine.execMinu d a b s
  | .maxu d a b => Sys2Proof.Machine.execMaxu d a b s
  | .mul d a b => Sys2Proof.Machine.execMul d a b s
  | .mulh d a b => Sys2Proof.Machine.execMulh d a b s
  | .mulhu d a b => Sys2Proof.Machine.execMulhu d a b s
  | .div d a b => Sys2Proof.Machine.execDiv d a b s
  | .divu d a b => Sys2Proof.Machine.execDivu d a b s
  | .rem d a b => Sys2Proof.Machine.execRem d a b s
  | .remu d a b => Sys2Proof.Machine.execRemu d a b s
  | .popc d a => Sys2Proof.Machine.execPopc d a s
  | .clz d a => Sys2Proof.Machine.execClz d a s
  | .ctz d a => Sys2Proof.Machine.execCtz d a s
  | .addi d a im => Sys2Proof.Machine.execAddi d a im s
  | .andi d a im => Sys2Proof.Machine.execAndi d a im s
  | .ori d a im => Sys2Proof.Machine.execOri d a im s
  | .xori d a im => Sys2Proof.Machine.execXori d a im s
  | .slti d a im => Sys2Proof.Machine.execSlti d a im s
  | .slli d a n => Sys2Proof.Machine.execSlli d a n s
  | .srli d a n => Sys2Proof.Machine.execSrli d a n s
  | .srai d a n => Sys2Proof.Machine.execSrai d a n s
  | .lui d im => Sys2Proof.Machine.execLui d im s
  | .lqa d im => Sys2Proof.Machine.execLqa d im s
  | .ldb d a c o => Sys2Proof.Machine.execLdb d a c o s
  | .ldbu d a c o => Sys2Proof.Machine.execLdbu d a c o s
  | .ldh d a c o => Sys2Proof.Machine.execLdh d a c o s
  | .ldhu d a c o => Sys2Proof.Machine.execLdhu d a c o s
  | .ldw d a c o => Sys2Proof.Machine.execLdw d a c o s
  | .ldwu d a c o => Sys2Proof.Machine.execLdwu d a c o s
  | .ldd d a c o => Sys2Proof.Machine.execLdd d a c o s
  | .stb d a c o => Sys2Proof.Machine.execStb d a c o s
  | .sth d a c o => Sys2Proof.Machine.execSth d a c o s
  | .stw d a c o => Sys2Proof.Machine.execStw d a c o s
  | .std d a c o => Sys2Proof.Machine.execStd d a c o s
  | .beq a b o => Sys2Proof.Machine.execBeq a b o s
  | .bne a b o => Sys2Proof.Machine.execBne a b o s
  | .blt a b o => Sys2Proof.Machine.execBlt a b o s
  | .bge a b o => Sys2Proof.Machine.execBge a b o s
  | .bltu a b o => Sys2Proof.Machine.execBltu a b o s
  | .bgeu a b o => Sys2Proof.Machine.execBgeu a b o s
  | .j o => Sys2Proof.Machine.execJ o s
  | .jal o => Sys2Proof.Machine.execJal o s
  | .jalr d a im => Sys2Proof.Machine.execJalr d a im s
  | .fadd d a b => Sys2Proof.Machine.execFadd d a b s
  | .fsub d a b => Sys2Proof.Machine.execFsub d a b s
  | .fmul d a b => Sys2Proof.Machine.execFmul d a b s
  | .fdiv d a b => Sys2Proof.Machine.execFdiv d a b s
  | .fsqrt d a => Sys2Proof.Machine.execFsqrt d a s
  | .fmin d a b => Sys2Proof.Machine.execFmin d a b s
  | .fmax d a b => Sys2Proof.Machine.execFmax d a b s
  | .feq d a b => Sys2Proof.Machine.execFeq d a b s
  | .flt d a b => Sys2Proof.Machine.execFlt d a b s
  | .fle d a b => Sys2Proof.Machine.execFle d a b s
  | .fcvtfi d a => Sys2Proof.Machine.execFcvtfi d a s
  | .fcvtif d a => Sys2Proof.Machine.execFcvtif d a s
  | .vfceq d a b k e l sb => Sys2Proof.Machine.execVfceq d a b k e l sb s
  | .vfcne d a b k e l sb => Sys2Proof.Machine.execVfcne d a b k e l sb s
  | .vfclt d a b k e l sb => Sys2Proof.Machine.execVfclt d a b k e l sb s
  | .vfcle d a b k e l sb => Sys2Proof.Machine.execVfcle d a b k e l sb s
  | .vfcgt d a b k e l sb => Sys2Proof.Machine.execVfcgt d a b k e l sb s
  | .vfcge d a b k e l sb => Sys2Proof.Machine.execVfcge d a b k e l sb s
  | .vfcun d a b k e l sb => Sys2Proof.Machine.execVfcun d a b k e l sb s
  | .csrr d c => Sys2Proof.Machine.execCsrr d c s
  | .csrw a c => Sys2Proof.Machine.execCsrw a c s
  | .csrs a c => Sys2Proof.Machine.execCsrs a c s
  | .csrc a c => Sys2Proof.Machine.execCsrc a c s
  | .trapu n => Sys2Proof.Machine.execTrapu n s
  | .setvl d a => Sys2Proof.Machine.execSetvl d a s
  | .setvlhw d a b => Sys2Proof.Machine.execSetvlhw d a b s
  | .settype d a => Sys2Proof.Machine.execSettype d a s
  | .vadd d a b k l sb => Sys2Proof.Machine.execVadd d a b k l sb s
  | .vsub d a b k l sb => Sys2Proof.Machine.execVsub d a b k l sb s
  | .vmul d a b k l sb => Sys2Proof.Machine.execVmul d a b k l sb s
  | .vmulh d a b k l sb => Sys2Proof.Machine.execVmulh d a b k l sb s
  | .vmin d a b k l sb => Sys2Proof.Machine.execVmin d a b k l sb s
  | .vmax d a b k l sb => Sys2Proof.Machine.execVmax d a b k l sb s
  | .vminu d a b k l sb => Sys2Proof.Machine.execVminu d a b k l sb s
  | .vmaxu d a b k l sb => Sys2Proof.Machine.execVmaxu d a b k l sb s
  | .vand d a b k l sb => Sys2Proof.Machine.execVand d a b k l sb s
  | .vor d a b k l sb => Sys2Proof.Machine.execVor d a b k l sb s
  | .vxor d a b k l sb => Sys2Proof.Machine.execVxor d a b k l sb s
  | .vsll d a b k l sb => Sys2Proof.Machine.execVsll d a b k l sb s
  | .vsrl d a b k l sb => Sys2Proof.Machine.execVsrl d a b k l sb s
  | .vsra d a b k l sb => Sys2Proof.Machine.execVsra d a b k l sb s
  | .vpopc d a k l => Sys2Proof.Machine.execVpopc d a k l s
  | .vclz d a k l => Sys2Proof.Machine.execVclz d a k l s
  | .vfadd d a b k e l sb => Sys2Proof.Machine.execVfadd d a b k e l sb s
  | .vfsub d a b k e l sb => Sys2Proof.Machine.execVfsub d a b k e l sb s
  | .vfmul d a b k e l sb => Sys2Proof.Machine.execVfmul d a b k e l sb s
  | .vfdiv d a b k e l sb => Sys2Proof.Machine.execVfdiv d a b k e l sb s
  | .vfmin d a b k e l sb => Sys2Proof.Machine.execVfmin d a b k e l sb s
  | .vfmax d a b k e l sb => Sys2Proof.Machine.execVfmax d a b k e l sb s
  | .vfsqrt d a k e l => Sys2Proof.Machine.execVfsqrt d a k e l s
  | .vfrsq d a k e l => Sys2Proof.Machine.execVfrsq d a k e l s
  | .vfma d a b k e l sb => Sys2Proof.Machine.execVfma d a b k e l sb s
  | .vfms d a b k e l sb => Sys2Proof.Machine.execVfms d a b k e l sb s
  | .vfnma d a b k e l sb => Sys2Proof.Machine.execVfnma d a b k e l sb s
  | .vfnms d a b k e l sb => Sys2Proof.Machine.execVfnms d a b k e l sb s
  | .vfexp2 d a k e l => Sys2Proof.Machine.execVfexp2 d a k e l s
  | .vflog2 d a k e l => Sys2Proof.Machine.execVflog2 d a k e l s
  | .vfrcp d a k e l => Sys2Proof.Machine.execVfrcp d a k e l s
  | .vfclass d a k l => Sys2Proof.Machine.execVfclass d a k l s
  | .vceq d a b k l sb => Sys2Proof.Machine.execVceq d a b k l sb s
  | .vcne d a b k l sb => Sys2Proof.Machine.execVcne d a b k l sb s
  | .vclt d a b k l sb => Sys2Proof.Machine.execVclt d a b k l sb s
  | .vcle d a b k l sb => Sys2Proof.Machine.execVcle d a b k l sb s
  | .vcltu d a b k l sb => Sys2Proof.Machine.execVcltu d a b k l sb s
  | .vcleu d a b k l sb => Sys2Proof.Machine.execVcleu d a b k l sb s
  | .vcgt d a b k l sb => Sys2Proof.Machine.execVcgt d a b k l sb s
  | .vcgtu d a b k l sb => Sys2Proof.Machine.execVcgtu d a b k l sb s
  | .vcvtFBf d a k e l => Sys2Proof.Machine.execVcvtFBf d a k e l s
  | .vcvtBfF d a k e l => Sys2Proof.Machine.execVcvtBfF d a k e l s
  | .vcvtFI d a k e l => Sys2Proof.Machine.execVcvtFI d a k e l s
  | .vcvtIF d a k e l => Sys2Proof.Machine.execVcvtIF d a k e l s
  | .vwiden d a k l => Sys2Proof.Machine.execVwiden d a k l s
  | .vwidenu d a k l => Sys2Proof.Machine.execVwidenu d a k l s
  | .vnarrow d a k l => Sys2Proof.Machine.execVnarrow d a k l s
  | .vnarrowu d a k l => Sys2Proof.Machine.execVnarrowu d a k l s
  | .vmv d a k l => Sys2Proof.Machine.execVmv d a k l s
  | .vbcast d b k => Sys2Proof.Machine.execVbcast d b k s
  | .vmerge d a b k l sb => Sys2Proof.Machine.execVmerge d a b k l sb s
  | .vextr d a b => Sys2Proof.Machine.execVextr d a b s
  | .vins d a b => Sys2Proof.Machine.execVins d a b s
  | .vid d k => Sys2Proof.Machine.execVid d k s
  | .viota d a k => Sys2Proof.Machine.execViota d a k s
  | .vcompress d a k l => Sys2Proof.Machine.execVcompress d a k l s
  | .vslideup d a b k l => Sys2Proof.Machine.execVslideup d a b k l s
  | .vslidedn d a b k l => Sys2Proof.Machine.execVslidedn d a b k l s
  | .vpermute d a b k l => Sys2Proof.Machine.execVpermute d a b k l s
  | .vexpand d a k l => Sys2Proof.Machine.execVexpand d a k l s
  | .vconflict d a k l => Sys2Proof.Machine.execVconflict d a k l s
  | .vtopk d a b k l => Sys2Proof.Machine.execVtopk d a b k l s
  | .vrev d a k l => Sys2Proof.Machine.execVrev d a k l s
  | .vscan d a b k l => Sys2Proof.Machine.execVscan d a b k l s
  | .vredsum d a b k l => Sys2Proof.Machine.execVredsum d a b k l s
  | .vfredsum d a b k l => Sys2Proof.Machine.execVfredsum d a b k l s
  | .vfredosum d a b k l => Sys2Proof.Machine.execVfredosum d a b k l s
  | .vredmin d a b k l => Sys2Proof.Machine.execVredmin d a b k l s
  | .vredmax d a b k l => Sys2Proof.Machine.execVredmax d a b k l s
  | .vfredmini d a k l => Sys2Proof.Machine.execVfredmini d a k l s
  | .vfredmaxi d a k l => Sys2Proof.Machine.execVfredmaxi d a k l s
  | .vredminui d a k l => Sys2Proof.Machine.execVredminui d a k l s
  | .kand d a b => Sys2Proof.Machine.execKand d a b s
  | .kor d a b => Sys2Proof.Machine.execKor d a b s
  | .kxor d a b => Sys2Proof.Machine.execKxor d a b s
  | .kandn d a b => Sys2Proof.Machine.execKandn d a b s
  | .knot d a => Sys2Proof.Machine.execKnot d a s
  | .kloop d => Sys2Proof.Machine.execKloop d s
  | .kpopc d a => Sys2Proof.Machine.execKpopc d a s
  | .kfirst d a => Sys2Proof.Machine.execKfirst d a s
  | .vld v a b k c f => Sys2Proof.Machine.execVld v a b k c f s
  | .vlds v a b k c f => Sys2Proof.Machine.execVlds v a b k c f s
  | .vldx v a b k c f => Sys2Proof.Machine.execVldx v a b k c f s
  | .vldl v a b k c f => Sys2Proof.Machine.execVldl v a b k c f s
  | .vst v a b k c f => Sys2Proof.Machine.execVst v a b k c f s
  | .vsts v a b k c f => Sys2Proof.Machine.execVsts v a b k c f s
  | .vstx v a b k c f => Sys2Proof.Machine.execVstx v a b k c f s
  | .vstl v a b k c f => Sys2Proof.Machine.execVstl v a b k c f s
  | .vldb v a b k c f => Sys2Proof.Machine.execVldb v a b k c f s
  | .sbind v a => Sys2Proof.Machine.execSbind v a s
  | .sunbind v => Sys2Proof.Machine.execSunbind v s
  | .send d v => Sys2Proof.Machine.execSend d v s
  | .sseek v a => Sys2Proof.Machine.execSseek v a s
  | .spos d v => Sys2Proof.Machine.execSpos d v s
  | .dcfg x c => Sys2Proof.Machine.execDcfg x c s
  | .dzero x => Sys2Proof.Machine.execDzero x s
  | .dmac x k a b c => Sys2Proof.Machine.execDmac x k a b c s
  | .dmacs x k a b c => Sys2Proof.Machine.execDmacs x k a b c s
  | .dmact x k b c => Sys2Proof.Machine.execDmact x k b c s
  | .dmm x a b c => Sys2Proof.Machine.execDmm x a b c s
  | .drd x k a c => Sys2Proof.Machine.execDrd x k a c s
  | .dwr x k a c => Sys2Proof.Machine.execDwr x k a c s
  | .dwmark x c => Sys2Proof.Machine.execDwmark x c s
  | .ttclr t b => Sys2Proof.Machine.execTtclr t b s
  | .ttadd d t b => Sys2Proof.Machine.execTtadd d t b s
  | .ttmask d t b => Sys2Proof.Machine.execTtmask d t b s
  | .ttpos d t => Sys2Proof.Machine.execTtpos d t s
  | .ttpath d t b => Sys2Proof.Machine.execTtpath d t b s
  | .ttprune d t b => Sys2Proof.Machine.execTtprune d t b s
  | .ttcommit d t b => Sys2Proof.Machine.execTtcommit d t b s
  | .ttcount d t => Sys2Proof.Machine.execTtcount d t s
  | .kvwalk d a b k l => Sys2Proof.Machine.execKvwalk d a b k l s
  | .kvhint a b k l => Sys2Proof.Machine.execKvhint a b k l s
  | .kvdrop a k l => Sys2Proof.Machine.execKvdrop a k l s
  | .amoadd d a b sb o w => Sys2Proof.Machine.execAmoadd d a b sb o w s
  | .amomin d a b sb o w => Sys2Proof.Machine.execAmomin d a b sb o w s
  | .amomax d a b sb o w => Sys2Proof.Machine.execAmomax d a b sb o w s
  | .amominu d a b sb o w => Sys2Proof.Machine.execAmominu d a b sb o w s
  | .amomaxu d a b sb o w => Sys2Proof.Machine.execAmomaxu d a b sb o w s
  | .amoand d a b sb o w => Sys2Proof.Machine.execAmoand d a b sb o w s
  | .amoor d a b sb o w => Sys2Proof.Machine.execAmoor d a b sb o w s
  | .amoxor d a b sb o w => Sys2Proof.Machine.execAmoxor d a b sb o w s
  | .amoswp d a b sb o w => Sys2Proof.Machine.execAmoswp d a b sb o w s
  | .amocas d a b sb o w => Sys2Proof.Machine.execAmocas d a b sb o w s
  | .amofadd d a b sb o => Sys2Proof.Machine.execAmofadd d a b sb o s
  | .lda d a sb o w => Sys2Proof.Machine.execLda d a sb o w s
  | .stl a b sb o w => Sys2Proof.Machine.execStl a b sb o w s
  | .vamoadd v a b k sb => Sys2Proof.Machine.execVamoadd v a b k sb s
  | .vamomin v a b k sb => Sys2Proof.Machine.execVamomin v a b k sb s
  | .vamomax v a b k sb => Sys2Proof.Machine.execVamomax v a b k sb s
  | .vamofadd v a b k sb => Sys2Proof.Machine.execVamofadd v a b k sb s
  | .vscadd v a b k sb => Sys2Proof.Machine.execVscadd v a b k sb s
  | .accw a b sb => Sys2Proof.Machine.execAccw a b sb s
  | .vacc v a b k sb => Sys2Proof.Machine.execVacc v a b k sb s
  | .merge a sb => Sys2Proof.Machine.execMerge a sb s
  | .fence m sb => Sys2Proof.Machine.execFence m sb s
  | .fenceRel m sb => Sys2Proof.Machine.execFenceRel m sb s
  | .fenceAcq m sb => Sys2Proof.Machine.execFenceAcq m sb s
  | .invro sb => Sys2Proof.Machine.execInvro sb s
  | .cclean sb => Sys2Proof.Machine.execCclean sb s
  | .cinval sb => Sys2Proof.Machine.execCinval sb s
  | .scopeput d a sb => Sys2Proof.Machine.execScopeput d a sb s
  | .scopeget d a sb => Sys2Proof.Machine.execScopeget d a sb s
  | .scopepin a sb => Sys2Proof.Machine.execScopepin a sb s
  | .bar d sb => Sys2Proof.Machine.execBar d sb s
  | .semwait d a b sb => Sys2Proof.Machine.execSemwait d a b sb s
  | .semtry d a b sb => Sys2Proof.Machine.execSemtry d a b sb s
  | .sempost d a b sb => Sys2Proof.Machine.execSempost d a b sb s
  | .pubhw d a b sb => Sys2Proof.Machine.execPubhw d a b sb s
  | .wait l sb c t => Sys2Proof.Machine.execWait l sb c t s
  | .copy d a b q => Sys2Proof.Machine.execCopy d a b q s
  | .copy2d d a q => Sys2Proof.Machine.execCopy2d d a q s
  | .qcopy d a q => Sys2Proof.Machine.execQcopy d a q s
  | .decbind v a => Sys2Proof.Machine.execDecbind v a s
  | .mcmd d a q => Sys2Proof.Machine.execMcmd d a q s
  | .launch d a => Sys2Proof.Machine.execLaunch d a s
  | .tspawn d a b => Sys2Proof.Machine.execTspawn d a b s
  | .tjoin d => Sys2Proof.Machine.execTjoin d s
  | .qfence a => Sys2Proof.Machine.execQfence a s
  | .trap a => Sys2Proof.Machine.execTrap a s
  | .tlbinv a b => Sys2Proof.Machine.execTlbinv a b s
  | .ctxsave d a b => Sys2Proof.Machine.execCtxsave d a b s
  | .ctxload d a b => Sys2Proof.Machine.execCtxload d a b s
  | .engrst a => Sys2Proof.Machine.execEngrst a s
  | .migrate d a => Sys2Proof.Machine.execMigrate d a s
  | .tret => Sys2Proof.Machine.execTret s
  | .yield => Sys2Proof.Machine.execYield s
  | .eret => Sys2Proof.Machine.execEret s
  | .halt => Sys2Proof.Machine.execHalt s
  | .idle => Sys2Proof.Machine.execIdle s
  | .convoyIssue core => Sys2Proof.Machine.execConvoyIssue core s
  | .issueAgeing core slot => Sys2Proof.Machine.execIssueAgeing core slot s
  | .governorWindow core => Sys2Proof.Machine.execGovernorWindow core s
  | .trapRecordWrite => Sys2Proof.Machine.execTrapRecordWrite s
  | .threadResume value => Sys2Proof.Machine.execThreadResume value s
  | .doorbell value => Sys2Proof.Machine.execDoorbell value s
  | .dependenceCellRead launch => Sys2Proof.Machine.execDependenceCellRead launch s
  | .gangPlacement die cluster => Sys2Proof.Machine.execGangPlacement die cluster s
  | .park die launch gang => Sys2Proof.Machine.execPark die launch gang s
  | .resume die cluster => Sys2Proof.Machine.execResume die cluster s
  | .taskStart core slot => Sys2Proof.Machine.execTaskStart core slot s
  | .taskDeadlock launch gang => Sys2Proof.Machine.execTaskDeadlock launch gang s
  | .tjoinRelease core slot => Sys2Proof.Machine.execTjoinRelease core slot s
  | .launchCompletion launch => Sys2Proof.Machine.execLaunchCompletion launch s
  | .engineCommandExecute queue => Sys2Proof.Machine.execEngineCommandExecute queue s
  | .commandCompletion queue => Sys2Proof.Machine.execCommandCompletion queue s
  | .mediaParameterRead queue => Sys2Proof.Machine.execMediaParameterRead queue s
  | .mediaEngineFailure queue reason => Sys2Proof.Machine.execMediaEngineFailure queue reason s
  | .pageExpand asid va target => Sys2Proof.Machine.execPageExpand asid va target s
  | .strainerDecode core slot reg => Sys2Proof.Machine.execStrainerDecode core slot reg s
  | .streamPrefetch core slot reg => Sys2Proof.Machine.execStreamPrefetch core slot reg s
  | .diagWordCompletion core => Sys2Proof.Machine.execDiagWordCompletion core s
  | .setvlhwWake line => Sys2Proof.Machine.execSetvlhwWake line s
  | .scopeputDrainComplete slot entry => Sys2Proof.Machine.execScopeputDrainComplete slot entry s
  | .sharedRead line agent => Sys2Proof.Machine.execSharedRead line agent s
  | .ownRead line agent => Sys2Proof.Machine.execOwnRead line agent s
  | .writeBack line agent => Sys2Proof.Machine.execWriteBack line agent s
  | .cleanEvict line agent => Sys2Proof.Machine.execCleanEvict line agent s
  | .forward line agent own => Sys2Proof.Machine.execForward line agent own s
  | .invalidation line agent => Sys2Proof.Machine.execInvalidation line agent s
  | .clusterCacheEviction cluster sector => Sys2Proof.Machine.execClusterCacheEviction cluster sector s
  | .memoryScrub die => Sys2Proof.Machine.execMemoryScrub die s
  | .contextCreate slot => Sys2Proof.Machine.execContextCreate slot s
  | .contextTerminate slot => Sys2Proof.Machine.execContextTerminate slot s
  | .maxlane core value => Sys2Proof.Machine.execMaxlane core value s
  | .dbudget core value => Sys2Proof.Machine.execDbudget core value s
  | .lostLineClear value => Sys2Proof.Machine.execLostLineClear value s
  | .deviceResetWrite value => Sys2Proof.Machine.execDeviceResetWrite value s
  | .deviceRegisterWrite offset size value => Sys2Proof.Machine.execDeviceRegisterWrite offset size value s
  | .mgmtSemaphoreCas port expected new => Sys2Proof.Machine.execMgmtSemaphoreCas port expected new s
  | .holderLinkDown port => Sys2Proof.Machine.execHolderLinkDown port s
  | .stageImage port image => Sys2Proof.Machine.execStageImage port image s
  | .commitVersion port stage => Sys2Proof.Machine.execCommitVersion port stage s
  | .setIdentity port value => Sys2Proof.Machine.execSetIdentity port value s
  | .mgmtDeviceReset port => Sys2Proof.Machine.execMgmtDeviceReset port s
  | .attestationRequest port nonce => Sys2Proof.Machine.execAttestationRequest port nonce s
  | .blackBoxRead port => Sys2Proof.Machine.execBlackBoxRead port s
  | .linkTraining port peer => Sys2Proof.Machine.execLinkTraining port peer s
  | .flitReplay port good => Sys2Proof.Machine.execFlitReplay port good s
  | .coldBoot => Sys2Proof.Machine.execColdBoot s
  | .wearUpdate die value firmware => Sys2Proof.Machine.execWearUpdate die value firmware s
  | .idleWake core => Sys2Proof.Machine.execIdleWake core s
  | .fabricLinkDown port => Sys2Proof.Machine.execFabricLinkDown port s
  | .hostQueueEnable queue slot base k => Sys2Proof.Machine.execHostQueueEnable queue slot base k s
  | .networkWindowResponse port offset value => Sys2Proof.Machine.execNetworkWindowResponse port offset value s

end Sys2Proof.Machine
end

