-- ==== Sys2Proof/Machine/Convoy.lean ====
section
/-! DEFINITION. A convoy: its words decoded and checked (R32, R34, R54 to R64), executed in word order with what a faulting, waiting
or retiring convoy leaves behind (R24, R34, R121, R311, R313, R338, R395, R396, log 2, 17, 18). -/

namespace Sys2Proof.Machine

open Sys2Proof

/-- The next operation on a result, where there is a next state. -/
def andThen (r : Result) (f : State → Result) : Result :=
  match r with
  | .next s => f s
  | .fault e => .fault e
  | .refused e => .refused e

/-! ## Words (R28, R32 to R35) -/

/-- NOP is exactly this word (R35). -/
def nopWord : BitVec 32 := 0x08000000#32

/-- Word `i` of a convoy: the word at its address + 4 i (R4, R28). -/
def convoyWord (data : BitVec 128) (i : Nat) : BitVec 32 := data.extractLsb' (32 * i) 32

/-- What a word is, or the check of its encoding that it fails. -/
noncomputable def wordTraits (w : BitVec 32) : Except DecodeError Traits := (decodeWord w).map traits

/-- The same for Lean's compiler, which cannot build the two instructions that `decodeOther` leaves out. -/
def wordTraitsC (w : BitVec 32) : Except DecodeError Traits :=
  if isEngrstWord w then
    match engrstError w with
    | some e => .error e
    | none => .ok { reads := [field w 16 5], privileged := true }
  else if isMigrateWord w then
    match migrateError w with
    | some e => .error e
    | none => .ok { reads := [field w 16 5], writes := [field w 21 5], privileged := true, command := true }
  else (decodeOther w).map traits

@[csimp] theorem wordTraits_eq : @wordTraits = @wordTraitsC := by
  funext w
  unfold wordTraits wordTraitsC decodeWord
  split
  · cases engrstError w <;> rfl
  · split
    · cases migrateError w <;> rfl
    · rfl

/-- Execute a word: its instruction, or the illegal-instruction fault of its encoding (R64). -/
noncomputable def executeWord (w : BitVec 32) (s : State) : Result :=
  match decodeWord w with
  | .ok i => exec i s
  | .error e => .next (s.illegal e.sub e.reg)

/-- The same for Lean's compiler. -/
def executeWordC (w : BitVec 32) (s : State) : Result :=
  if isEngrstWord w then
    match engrstError w with
    | some e => .next (s.illegal e.sub e.reg)
    | none => execEngrst (field w 16 5) s
  else if isMigrateWord w then
    match migrateError w with
    | some e => .next (s.illegal e.sub e.reg)
    | none => execMigrate (field w 21 5) (field w 16 5) s
  else match decodeOther w with
    | .ok i => exec i s
    | .error e => .next (s.illegal e.sub e.reg)

@[csimp] theorem executeWord_eq : @executeWord = @executeWordC := by
  funext w s
  unfold executeWord executeWordC decodeWord
  by_cases h : isEngrstWord w = true
  · simp only [h, if_true]
    cases engrstError w <;> rfl
  · by_cases g : isMigrateWord w = true
    · simp only [h, g, if_true]
      cases migrateError w <;> rfl
    · simp only [h, g]
      rfl

/-! ## The checks that the words alone decide (R34, R60, R63, R341) -/

/-- The registers other than s0 that a word reads or writes. -/
def namedRegs (t : Traits) : List (BitVec 5) := (t.reads ++ t.writes).filter (· ≠ 0)

/-- The fault of a word's encoding, its place, its privilege and its registers, in R63's order. `after` says that an earlier word of the
convoy is a control transfer, `owed` names the registers that earlier command words of it will write (R341). -/
def wordFault (privileged after : Bool) (owed : List (BitVec 5)) (w : BitVec 32) : Option (Nat × Word) :=
  let misplaced := after && w ≠ nopWord
  match wordTraits w with
  | .error e =>
    if misplaced && 5 < e.sub then some (0x01, illegalInfo w 5 0 0) else some (0x01, illegalInfo w e.sub e.reg 0)
  | .ok t =>
    if misplaced then some (0x01, illegalInfo w 5 0 0)
    else if t.privileged && !privileged then some (0x02, illegalInfo w 0 0 0)
    else if t.unassigned then some (0x01, illegalInfo w 6 0 0)
    else if (namedRegs t).any owed.contains then some (0x01, illegalInfo w 7 0 0)
    else none

/-- A property of a word, false where the word has none. -/
def wordHas (p : Traits → Bool) (w : BitVec 32) : Bool :=
  match wordTraits w with
  | .ok t => p t
  | .error _ => false

/-- The word is a control transfer. -/
def isTransferWord (w : BitVec 32) : Bool := wordHas (·.transfer) w

/-- The word is an accumulating word. -/
def isAccumulatingWord (w : BitVec 32) : Bool := wordHas (·.accumulating) w

/-- The registers that a command word will write when it completes. -/
def commandRegs (w : BitVec 32) : List (BitVec 5) :=
  match wordTraits w with
  | .ok t => if t.command then t.writes.filter (· ≠ 0) else []
  | .error _ => []

/-- The first fault that the words alone decide, as word index, cause and detail. -/
def convoyFault (privileged : Bool) : List (Nat × BitVec 32) → Bool → List (BitVec 5) → Option (Nat × Nat × Word)
  | [], _, _ => none
  | (i, w) :: rest, after, owed =>
    match wordFault privileged after owed w with
    | some (c, x) => some (i, c, x)
    | none => convoyFault privileged rest (after || isTransferWord w) (owed ++ commandRegs w)

/-- The sub-code of an illegal-instruction detail (R64). -/
def faultSub (info : Word) : Nat := info.toNat / 2 ^ 32 % 256

/-- A fault of a word that R63 makes as its convoy issues, `s` the state that has it: of the encoding, the privilege, the alignment, a
reserved value of a word whose description checks it then, the deterministic mode and the allocation. -/
def State.issueFault (s : State) (w : BitVec 32) (f : FaultRec) : Bool :=
  f.cause = 0x12 || f.cause = 0x02 || (f.cause = 0x0E && f.info = 2) ||
  (f.cause = 0x01 && (faultSub f.info ≠ 7 || wordHas (·.issue) w || (wordHas (·.sewIssue) w && s.sew ≠ 64)))

/-! ## Outstanding tokens (R325, R341) and written ones (R284, R335) -/

/-- The token that a register waits for. -/
def Thread.outstanding (t : Thread) (d : BitVec 5) : Option Nat := (t.tokens.find? (fun x => x.1 == d.toNat)).map (·.2)

/-- A read or write of a register that waits for a token: the command completes now if it can, else the word waits (log 15). `old` is the
machine's counter as this convoy began: a token from there on is that of a LAUNCH of this convoy, which has taken effect (log 39). -/
def State.awaitToken (s : State) (old : Nat) (d : BitVec 5) : State :=
  if !s.goes || d = 0 then s
  else match s.th.outstanding d with
    | none => s
    | some k =>
      let s := match s.queues.find? (·.token == k) with
        | some c => s.drainQueue c.queue (s.queues.length + 1)
        | none => s
      if (s.th.outstanding d).isSome then s.waitFor (.token k) (if old ≤ k then .hold else .nothing) else s

/-- A read of a register that holds a written token acquires: the cluster cache discards its clean sectors, of a command's those that
the command wrote (R244, R284, R335). -/
def State.readToken (s : State) (d : BitVec 5) : State :=
  match s.th.landed.find? (·.1 == d.toNat) with
  | none => s
  | some (_, none) => s.discardCluster (clusterOf s.th.core)
  | some (_, some wrote) => s.discardWhere (fun x => x.cluster == clusterOf s.th.core && wrote.contains x.addr)

/-- A write of such a register ends its being a token. -/
def State.overwriteToken (s : State) (d : BitVec 5) : State :=
  if s.th.landed.any (·.1 == d.toNat) then s.onTh (fun t => { t with landed := t.landed.filter (·.1 != d.toNat) }) else s

/-- What a word's scalar registers ask before it executes. -/
def State.meetTokens (s : State) (old : Nat) (t : Traits) : State :=
  let s := (t.reads ++ t.writes).foldl (fun s d => s.awaitToken old d) s
  if s.goes then t.writes.foldl State.overwriteToken (t.reads.foldl State.readToken s) else s

/-! ## The words in order (R32, R395) -/

/-- The meaning of a word whose thread has damaged register words: a word that consumes one faults there, unless it has a fault of its
own that comes first (R395, R415), and one that writes one whole makes it good (R417). -/
def State.executeDamaged (s : State) (t : Traits) (w : BitVec 32) : Result :=
  let u := wordUse w
  match s.damagedElem t.elementWise t.reads u with
  | none => andThen (executeWord w s) (fun r => .next (r.mendRegisters t.writes u))
  | some e =>
    andThen (executeWord w s) (fun r =>
      match r.cv.fault with
      | some f =>
        if f.elem ≤ e then .next r
        else if s.cv.vstart0 < e then executeWord w (s.raiseRegister e) else .next (s.raiseRegister e)
      | none => if s.cv.vstart0 < e then executeWord w (s.raiseRegister e) else .next (s.raiseRegister e))

/-- The scratchpad bytes of the current core that the newest `n` noted effects have stored whole. -/
def State.storedBytes (s : State) (n : Nat) : List Nat :=
  ((s.cv.kept.take n).map (fun x => match x.2 with
    | .store (.scratch core off) _ mask k _ =>
      if core = s.th.core then (List.range k).filterMap (fun i => if mask.extractLsb' (8 * i) 8 = 255#8 then some (off + i) else none) else []
    | _ => [])).flatten

/-- An element-wise word has gone through: damaged scratchpad words that its elements have stored whole together are sound (R417). -/
def State.mendStored (s : State) (before : Nat) : State :=
  if s.damage.isEmpty || s.cv.limit.isSome || s.cv.wait.isSome then s
  else s.mendCovered s.th.core (s.storedBytes (s.cv.kept.length - before))

/-- One word of the convoy: what its registers ask, then its meaning. What an element-wise word does is noted for a fault; of another
word only what it notes itself is (R396). -/
def State.runWord (s : State) (old i : Nat) (w : BitVec 32) : Result :=
  let s := s.onCv (fun c => { c with word := i, raw := w, leaves := [] })
  match wordTraits w with
  | .error _ => executeWord w s
  | .ok t =>
    let s := (s.meetTokens old t).onCv (fun c => { c with noting := t.elementWise })
    if !s.goes then .next s
    else
      let before := s.cv.kept.length
      andThen (if s.badRegs.isEmpty then executeWord w s else s.executeDamaged t w) (fun s => .next (s.mendStored before))

/-- No later word of the convoy can change what it does: it waits, or a fault stands at its first element. -/
def State.ended (s : State) : Bool :=
  s.cv.wait.isSome || (match s.cv.fault with
    | some f => f.elem ≤ s.cv.vstart0
    | none => false)

/-- The word leaves the state as it stood before it, with the wait noted; the engines that it woke stay awake (R374). -/
def State.noteWait (s s' : State) (i : Nat) (w : BitVec 32) (x : Wait × Register) : State :=
  { s.onCv (fun c => { c with word := i, raw := w, wait := some x }) with free := s'.free, woken := s'.woken }

/-- The words in order. A word that waits has no effect; NOP does nothing. -/
def State.runWords (old : Nat) : List (Nat × BitVec 32) → State → Result
  | [], s => .next s
  | (i, w) :: rest, s =>
    if w = nopWord then s.runWords old rest
    else andThen (s.runWord old i w) (fun s' =>
      match s'.cv.wait with
      | some x => .next (s.noteWait s' i w x)
      | none => if s'.ended then .next s' else s'.runWords old rest)

/-! ## Behind a word that waits (R63, R395, log 18) -/

/-- What is not known behind a word that waits: registers that the words passed over will write or whose value others may change (`below`
are vector registers known for the elements below the one that waits), the vtype and the bindings, on which the issue checks of vector
words depend, and other state on which what they do depends. -/
structure Unknown where
  regs  : List (BitVec 5)
  vecs  : List Nat
  below : List Nat
  masks : List Nat
  type  : Bool
  other : Bool
  deriving DecidableEq, Repr

/-- What the look behind a waiting word has found: the state that the words lead to, the first fault at vstart with the state that has it,
whether a word fails a check of R63, and whether elements of a word were passed over. -/
structure Look where
  s     : State
  first : Option (FaultRec × State)
  check : Bool
  blind : Bool
  deriving DecidableEq, Repr

/-- The word sets what later words' issue checks depend on. -/
def configures (w : BitVec 32) : Bool :=
  match decodeOther w with
  | .ok (.settype _ _) | .ok (.sbind _ _) | .ok (.sunbind _) => true
  | .ok (.csrw _ c) | .ok (.csrs _ c) | .ok (.csrc _ c) => c = 0x001#12
  | _ => false

/-- The word sets state other than registers and memory on which what later words do depends. -/
def setsOther (w : BitVec 32) : Bool :=
  match decodeOther w with
  | .ok (.setvl _ _) | .ok (.setvlhw _ _ _) | .ok (.settype _ _) | .ok (.csrw _ _) | .ok (.csrs _ _) | .ok (.csrc _ _) | .ok (.sbind _ _)
  | .ok (.sunbind _) | .ok (.sseek _ _) | .ok (.decbind _ _) | .ok (.dcfg _ _) | .ok (.dzero _) | .ok (.dwr _ _ _ _) => true
  | _ => wordHas (fun t => t.changing || t.accumulating) w

/-- The registers of the group that a word names at `v`. -/
def State.groupAt (s : State) (v : BitVec 5) (wide : Bool) : List Nat := (List.range (if wide then 2 * s.lmul else s.lmul)).map (v.toNat + ·)

/-- The vector registers that a word writes: its destination, and what the chunks that it consumes fill. -/
def State.groupsWritten (s : State) (u : RegUse) : List Nat :=
  (match u.vdst with
    | some (v, wide) => s.groupAt v wide ++ (if u.pair then s.groupAt (v + BitVec.ofNat 5 s.lmul) wide else [])
    | none => []) ++ ((u.vsrc.filter (fun x => s.readBound x.1.toNat)).flatMap (fun x => s.groupAt x.1 x.2))

/-- A word reads what is not known. -/
def State.readsUnknown (s : State) (t : Traits) (u : RegUse) (x : Unknown) : Bool :=
  let groups := u.vsrc.flatMap (fun y => s.groupAt y.1 y.2)
  t.reads.any x.regs.contains || groups.any x.vecs.contains || (!t.elementWise && groups.any x.below.contains) ||
  ((u.k :: u.select.toList).any (fun k => x.masks.contains k.toNat)) || u.ksrc.any (fun k => x.masks.contains k.toNat) ||
  (x.other && (t.elementWise || t.issue || t.sewIssue))

/-- What a word passed over leaves unknown. -/
def State.passOver (s : State) (w : BitVec 32) (t : Traits) (u : RegUse) (x : Unknown) : Unknown :=
  { x with
    regs := x.regs ++ t.writes
    vecs := x.vecs ++ s.groupsWritten u
    masks := x.masks ++ u.kdst.map (·.toNat)
    type := x.type || configures w
    other := x.other || setsOther w }

/-- What a word that has been looked at leaves unknown: its result, where others may change it, or elements that depend on such. -/
def State.lookedAt (s : State) (w : BitVec 32) (t : Traits) (u : RegUse) (x : Unknown) : Unknown :=
  if t.varies || u.vsrc.any (fun y => s.readBound y.1.toNat) then s.passOver w t u x
  else
    { x with
      regs := x.regs.filter (fun d => !t.writes.contains d)
      below := if (u.vsrc.flatMap (fun y => s.groupAt y.1 y.2)).any x.below.contains then x.below ++ s.groupsWritten u else x.below }

/-- A TREE word passed over counts among those of the convoy (R220). -/
def Look.pass (k : Look) (t : Traits) : Look :=
  { k with
    s := if t.tree then k.s.onCv (fun c => { c with trees := (c.trees.1 + 1, c.trees.2) }) else k.s
    blind := k.blind || t.elementWise }

/-- The words behind one that waits, looked at without it: a word that reads what is not known, or waits itself, is looked at for the checks of
R63 alone and passed over, and so is one that faults at vstart. -/
def State.lookOn (old : Nat) : List (Nat × BitVec 32) → Unknown → Look → Look
  | [], _, k => k
  | (i, w) :: rest, x, k =>
    match wordTraits w with
    | .error _ => k
    | .ok t =>
      let u := wordUse w
      let past (k' : Look) : Look := State.lookOn old rest (k.s.passOver w t u x) (k'.pass t)
      match (if w = nopWord then .next k.s else k.s.runWord old i w) with
      | .next s' =>
        match (if s'.cv.fault = k.s.cv.fault then none else s'.cv.fault), s'.cv.wait.isSome || k.s.readsUnknown t u x with
        | some f, dim =>
          if s'.cv.vstart0 < f.elem then (if dim then past k else State.lookOn old rest (k.s.lookedAt w t u x) { k with s := s' })
          else if s'.issueFault w f && !(x.type && (t.issue || t.sewIssue)) then { k with first := k.first.orElse (fun _ => some (f, s')), check := true }
          else if dim then past k
          else past { k with first := k.first.orElse (fun _ => some (f, s')) }
        | none, dim => if dim then past k else State.lookOn old rest (k.s.lookedAt w t u x) { k with s := s' }
      | _ => k

/-- The look behind the waiting word of a convoy, `rest` the words after it. Where it is a load at a network window that has come to an
element, the words behind it are looked at below that element. -/
def State.beyond (s : State) (old : Nat) (r : Register) (rest : List (Nat × BitVec 32)) : Look :=
  let w := s.cv.raw
  let at_ := s.onCv (fun c => { c with wait := none })
  let nothing : Unknown := ⟨[], [], [], [], false, false⟩
  match wordTraits w with
  | .error _ => ⟨at_, none, false, false⟩
  | .ok t =>
    let u := wordUse w
    let start : Look := Look.pass ⟨at_, none, false, false⟩ { t with elementWise := false }
    match r, (at_.runWord old s.cv.word w) with
    | .request _ e, .next s' =>
      if t.elementWise && s.cv.vstart0 < e then
        State.lookOn old rest { nothing with below := s.groupsWritten u } { start with s := s'.onCv (fun c => { c with wait := none, limit := some e }) }
      else State.lookOn old rest (s.passOver w t u nothing) start
    | _, _ => State.lookOn old rest (s.passOver w t u nothing) start

/-- The raw word of an index. -/
def wordAt (words : List (Nat × BitVec 32)) (i : Nat) : BitVec 32 := ((words.find? (·.1 == i)).map (·.2)).getD nopWord

/-- An earlier word of the convoy has started work that a later one may wait for: a child task or a launch (R325, R338). -/
def State.spawned (s : State) (words : List (Nat × BitVec 32)) : Bool := words.any (fun x => x.1 < s.cv.word && wordHas (·.spawns) x.2)

/-- The wait would leave something that the convoy cannot take back. -/
def State.commits (s : State) (words : List (Nat × BitVec 32)) (r : Register) : Bool :=
  match r with
  | .arrive _ | .clean | .request _ _ => true
  | .hold => s.spawned words
  | .sem _ _ | .nothing => false

/-- The fault that is taken although a word waits, with the state that has it (R63, R395): one at vstart where a word fails a check of R63,
`sure` that one does, where the wait would leave what cannot be taken back, or where an earlier word has a fault already, which no later
word's wait puts off; else that earlier fault itself. A load at a network window is performed only where no other word can be seen to
fault at or below its element (R396). -/
def State.faultBeyond (s : State) (old : Nat) (words : List (Nat × BitVec 32)) (sure : Bool) : Option (FaultRec × State) :=
  match s.cv.wait with
  | none => none
  | some (_, r) =>
    let w := s.cv.raw
    let u := wordUse w
    let k := s.beyond old r (words.filter (fun x => s.cv.word < x.1))
    let plain := !(wordHas (·.elementWise) w) && u.vdst.isNone && u.kdst.isEmpty
    let stands := s.cv.fault.isSome && plain
    match k.first with
    | some x => if sure || k.check || stands || s.commits words r then some x else none
    | none =>
      match k.s.cv.fault, r with
      | some f, .request _ e => if !k.blind && (plain || f.elem < e) then some (f, k.s) else none
      | some f, _ => if stands then some (f, k.s) else none
      | none, _ => none

/-! ## What a faulting convoy keeps (R396) -/

/-- An effect that stands is made again on the state before the convoy. -/
def State.redo (s : State) (e : Eff) : State :=
  match e with
  | .vset r bit width v => s.putBits r bit width v.toNat
  | .kset k i b sew => s.onTh (fun t => t.putMaskBitAt sew k i b)
  | .flags f => s.orFlags f
  | .advance r => s.onBind r Binding.step
  | .store t v m n rank => s.performStore t v m n rank
  | .amo t v n => (s.atomicStep t n (fun _ => some v.toNat)).2
  | .scatter _ t v f => (s.atomicStep t 4 (fun _ => some v.toNat)).2.orFlags f
  | .clean x => s.fenceClean x
  | .acquire x => s.acquireAt x
  | .taken a => { s with netIn := s.netIn.erase a }
  | .decoded r place ahead => s.onBind r (fun b => { b with place := place, ahead := ahead })
  | .acc a i v => s.onTh (fun t => t.putAcc a i v)
  | .pte a b => s.orPte a b
  | .part id p => s.onLaunch id (fun l => { l with partials := p :: l.partials.filter (fun q => !(q.word == p.word && q.rank == p.rank)) })
  | .caddy d a act => s.actCaddy d a act
  | .sreg d v => s.onTh (fun t => t.setReg d v)
  | .setVl vl => s.onCsr (fun c => { c with vl := vl })
  | .setType vtype => s.onCsr (fun c => { c with vtype := vtype })
  | .setBase hwbase => s.onCsr (fun c => { c with hwbase := hwbase })
  | .bind b => s.onTh (fun t => { t with binds := t.binds.filter (·.reg != b.reg) ++ [b] })
  | .seek r p => s.onBind r (fun b => b.seek p)
  | .tree x => s.onTh (fun t => { t with tree := x })

/-- What a VSCADD made of a target is what its last element there made of it. -/
def lastScatters : List Eff → List Eff
  | [] => []
  | .scatter w t v f :: rest =>
    if rest.any (fun y => match y with
      | .scatter w' t' _ _ => w == w' && t == t'
      | _ => false) then lastScatters rest else .scatter w t v f :: lastScatters rest
  | x :: rest => x :: lastScatters rest

/-- The noted effects that stand when the convoy faults at element `e`, oldest first. -/
def standing (kept : List (Option Nat × Eff)) (e : Nat) : List Eff :=
  lastScatters ((kept.reverse.filter (fun x => match x.1 with
    | some i => i < e
    | none => true)).map (·.2))

/-- The places a walk reads: the entries, then the address itself. -/
def State.walkPlaces (s : State) (va : Word) : List (Nat × Nat × Nat) → Nat → List Nat
  | [], _ => []
  | (level, lo, n) :: rest, table =>
    let a := table + 8 * (va.toNat / 2 ^ lo % n)
    let pte : Word := BitVec.ofNat 64 (s.homeRead a 8)
    a :: (if !pte.getLsbD 0 then []
      else if pte.getLsbD 5 then [leafPhys pte level va]
      else s.walkPlaces va rest (pte.toNat % 2 ^ 56 / 2 ^ 16 * 2 ^ 16))

/-- A data error: the home of an uncorrectable line enters it in its table, and the event is logged (R416, R420). -/
def State.noteDataError (s : State) (f : FaultRec) : State :=
  if f.cause = 0x07 then
    let places := if f.info.toNat / 2 ^ 59 % 8 < 2 then s.walkPlaces (f.info &&& 0x01FFFFFFFFFFFFFF#64) walkLevels (s.rootOf s.th) else []
    (places.foldl State.foundBad s).blackBox (dieOf s.th.core) 0x01 (s.asidOf s.th) f.info
  else s

/-- The thread has issued: its count of passed-over opportunities is 0 and its priority its launch's (R331). -/
def Thread.issued (t : Thread) : Thread := { t with wait := .none, govHeld := false, passed := 0, curPrio := t.prio }

/-- The translations that the convoy is owed when it is resumed at the element of fault `f` (R398): those of every page that the element
of a missing page names, and what it was owed before for the same element. -/
def State.owedPages (s : State) (f : FaultRec) : List TlbEntry :=
  let at_ (page : Nat) : TlbEntry := ⟨clusterOf s.th.core, s.asidOf s.th, page, 0, 4⟩
  let old := if f.elem = s.cv.vstart0 then s.th.needs.map (fun x => { x with pte := 0 }) else []
  let now := if f.cause = 0x05 then pageOf f.info :: (s.cv.pages.filter (·.1 == f.elem)).map (·.2) else []
  old ++ ((now.eraseDups).filter (fun p => !old.any (·.page == p))).map at_

/-- What issuing a convoy's words has charged its core with stays, unless the convoy did not pass its issue checks (R63, R210). -/
def State.keepCharge (s0 s : State) (checked : Bool) : State :=
  let core := s0.th.core
  let r := s.coreRec core
  if checked || (r.charge = (s0.coreRec core).charge && r.issued = (s0.coreRec core).issued) then s0
  else s0.putCore { s0.coreRec core with charge := r.charge, issued := r.issued, last := r.last, budget := r.budget }

/-- Engine cycles of a word of the convoy, if it is an accumulating one (R209). -/
def State.wordCycles (s : State) (w : BitVec 32) : Option Nat :=
  let cycles (fn : Nat) (x : BitVec 3) : Option Nat := some (DiagWord.cycles ⟨0, fn, x.toNat, s.th.cfg x.toNat, .bitmap 0, s.sew, 0, 0, [], [], 0, 0⟩)
  match decodeOther w with
  | .ok (.dmac x _ _ _ _) => cycles 2 x
  | .ok (.dmacs x _ _ _ _) => cycles 3 x
  | .ok (.dmact x _ _ _) => cycles 4 x
  | .ok (.dmm x _ _ _) => cycles 5 x
  | _ => none

/-- The convoy has issued whole: the accumulating words that a fault at vstart has kept from being accepted are charged too (R210). -/
def State.chargeRest (s : State) (words : List (Nat × BitVec 32)) (f : FaultRec) : State :=
  if s.cv.vstart0 < f.elem then s
  else (words.filter (fun x => f.word ≤ x.1)).foldl (fun s x => match s.wordCycles x.2 with
    | some n => s.chargeDiag s.th.core n
    | none => s) s

/-- The engine of a core has come as far as its queue `goal` says: words that earlier convoys handed over are complete, or a tile product's
groups final (R191, R205). -/
def State.catchUp (s : State) (core : Nat) (goal : List DiagWord) : State :=
  let q := (s.coreRec core).diag
  let s := (q.take (q.length - goal.length)).foldl (fun s _ => s.completeDiag core) s
  match (s.coreRec core).diag, goal with
  | w :: rest, g :: _ =>
    if w.group < g.group then
      (s.putCore { s.coreRec core with diag := { w with group := g.group } :: rest }).onThreads (fun t => t.uid == w.uid)
        (fun t => t.tileGroups w w.group g.group)
    else s
  | _, _ => s

/-- The convoy faults: the effects below the faulting element stand, vstart holds the element, and the exception is taken (R395,
R396). `s0` is the state before the convoy, `checked` that the fault is one of R63's. What the diagonal engine has completed for a DRD or
a DWR of the convoy stays complete (R191, R198, R212). -/
def State.faultAt (s0 s : State) (checked : Bool) (f : FaultRec) : State :=
  let addr := s.cv.addr
  let kept := if s.cv.vstart0 < f.elem then standing s.cv.kept f.elem else []
  let r := { s0.keepCharge s checked with free := s.free, woken := s.woken }
  let r := kept.foldl State.redo (r.catchUp r.th.core (s.coreRec r.th.core).diag)
  let mark := if s.cv.marks.isEmpty || f.elem = 0 then [] else [(addr, f.elem, s.cv.marks)]
  let needs := s.owedPages f
  let r := r.onTh (fun t => { t.issued with
    csr := { t.csr with vstart := BitVec.ofNat 15 f.elem }
    needs := needs
    held := t.held.map (fun h => if h.addr = addr then { h with vstart0 := f.elem } else h)
    carried := mark ++ t.carried.filter (fun x => x.1 != addr) })
  { (r.noteDataError f).takeTrap addr f with cv := Convoy.empty }

/-- The fault of a word of the convoy is taken: one of R63's checks, or a fault of a convoy that has issued. -/
def State.takeFault (s0 s : State) (words : List (Nat × BitVec 32)) (f : FaultRec) : State :=
  if f.elem = s.cv.vstart0 && s.issueFault (wordAt words f.word) f then s0.faultAt s true f
  else s0.faultAt (s.chargeRest words f) false f

/-! ## Waiting (R24) -/

/-- The convoy waits and leaves nothing of itself; the engines that it woke stay awake (R374), and an answer that a chain cell's wait has
used is used up (R241). -/
def State.idleFor (s0 s : State) (w : Wait) : State :=
  let used := fun (a : NetAccess) => match w with
    | .cell _ (.window port off) _ => a.uid == s0.th.uid && a.port == port && a.off == off
    | _ => false
  { s0.onTh (fun t => { t with wait := w }) with
    free := s.free, woken := s.woken, netIn := s0.netIn.filter (fun a => !used a), cv := Convoy.empty }

/-- What the waiting word leaves: its arrival, its place in a queue, its request. -/
def State.leave (s : State) (r : Register) : State :=
  match r with
  | .arrive b => s.arrive s.th.uid b
  | .sem n p => s.putSem ((s.sem n).join p)
  | .request a _ => if s.netOut.contains a then s else { s with netOut := s.netOut ++ [a] }
  | .clean => s.cleanCluster (clusterOf s.th.core)
  | .hold | .nothing => s

/-- The convoy waits in a word behind words that have taken effect, and is held to go on from the waiting word (log 2). -/
def State.holdAt (s : State) (w : Wait) (r : Register) : State :=
  let held : Convoy := { s.cv with kept := [], wait := none, fault := none, limit := none, pages := [], leaves := [] }
  let s := { { s with cv := Convoy.empty }.leave r with cv := Convoy.empty }
  s.onTh (fun t => { t with wait := w, held := some held })

/-- The words before a waiting one have taken effect for good (log 2): they come before an arrival, which is a release (R311), and before a
QFENCE (R283 step 1), one of them has started what the waiting word waits for, or has stored at a network window, where a load comes
after it. -/
def State.stays (s0 s : State) (words : List (Nat × BitVec 32)) (r : Register) : Bool :=
  match r with
  | .arrive _ => words.any (fun x => x.1 < s.cv.word && x.2 ≠ nopWord)
  | .clean => true
  | .hold => s.spawned words
  | .request _ _ => s.netOut.length ≠ s0.netOut.length
  | .sem _ _ | .nothing => false

/-- The convoy waits: behind its earlier words where they stay, else with nothing done but what the waiting word leaves (log 2). -/
def State.suspend (s0 s : State) (words : List (Nat × BitVec 32)) (w : Wait) (r : Register) : State :=
  if s0.stays s words r then s.holdAt w r
  else { (s0.idleFor s w).leave r with cv := Convoy.empty }

/-! ## Retiring (R34, R114, R121, R341, R404) -/

/-- HALT: the thread's accesses have performed (log 9), its diagonal words complete, and it retires; a control core stops for good
(R404). -/
def State.haltThread (s : State) : State :=
  let t := s.th
  let s := (s.drainDiag t.core).onTh (fun t => { t with binds := [] })
  if isControl t.core then (s.onTh (fun t => { t with run := .halted })).blackBox 8 0x09 (s.asidOf t) t.pc
  else s.retire t

/-- The commands and diagonal words of the convoy are handed over (R196, R341). -/
def State.handOver (s : State) : State :=
  let core := s.th.core
  let words := s.cv.diags.reverse
  let s := { s with queues := s.queues ++ s.cv.cmds }.onTh (fun t => { t with tokens := s.cv.tokenRegs ++ t.tokens })
  if words.isEmpty then s else s.putCore { s.coreRec core with diag := (s.coreRec core).diag ++ words }

/-- The last-read marks: registers read zero but for what the convoy wrote (R121). -/
def Thread.clearMarked (t : Thread) (marks : List (Nat × BitVec 32768)) : Thread :=
  marks.foldl (fun t x => { t with vregs := vput t.vregs x.1 (vget t.vregs x.1 0 &&& x.2) }) t

/-- TRET and ERET: the words that go back from a handler. -/
def isReturnWord (w : BitVec 32) : Bool :=
  match decodeOther w with
  | .ok .tret | .ok .eret => true
  | _ => false

/-- What a thread is owed (R398) after a convoy has retired: a return from a handler keeps what it has just found, a handler keeps what the
convoy it interrupted is owed, and otherwise the promise is kept. -/
def Thread.needsAfter (t : Thread) (last : BitVec 32) : List TlbEntry :=
  if t.needs.isEmpty || isReturnWord last then t.needs
  else if t.csr.ustat.getLsbD 2 || t.priv.sstatus.getLsbD 2 then t.needs.filter (fun x => !x.pte.getLsbD 0)
  else []

/-- The thread after its convoy at `addr` has retired, before a trap or a halt of it. A convoy held elsewhere stays held while a
user handler runs or the thread goes back to it (log 2). -/
def Thread.retireConvoy (t : Thread) (cv : Convoy) : Thread :=
  let next := cv.next.getD (cv.addr + 16)
  let t := t.clearMarked cv.marks
  { t.issued with
    pc := next
    csr := { t.csr with vstart := if cv.vstartSet then t.csr.vstart else 0, cvret := t.csr.cvret + 1 }
    needs := t.needsAfter cv.raw
    held := match t.held with
      | some h => if h.addr ≠ cv.addr && (t.csr.ustat.getLsbD 2 || h.addr = next) then some h else none
      | none => none
    carried := t.carried.filter (fun x => x.1 != cv.addr) }

/-- YIELD: every other ready thread of the core is owed an opportunity (R88). DESIGN CHOICE (log 62): the threads that are ready as the
YIELD retires. -/
def State.yieldNow (s : State) : State :=
  let others := ((s.readyAt s.th.core).filter (·.uid != s.th.uid)).map (·.uid)
  s.onTh (fun t => { t with yieldTo := others })

/-- The convoy retires: its pending effects, the next program counter, and the trap, yield or halt that its last word asked for. DEDUCED (log
68): a TRAPU that goes to system software records C + 16, as R392 says of TRAP and R86 of uepc. -/
def State.retireConvoy (s : State) : State :=
  let cv := s.cv
  let s := s.handOver.onTh (fun t => t.retireConvoy cv)
  let s := { s with cv := { Convoy.empty with reset := cv.reset } }
  let s := match cv.maxlane with
    | some c => s.applyMaxlane c
    | none => s
  let s := match cv.trap with
    | some f => s.takeTrap (cv.addr + 16) f
    | none => s
  let s := if cv.yield then s.yieldNow else s
  if cv.halt then s.haltThread else s

/-! ## One convoy -/

/-- The convoy's end: a fault, a wait or retirement. An earlier word's fault is taken before a later word's wait, unless that wait is
for a page, a chunk or a network window's answer, whose elements come first, and so is a check that a later word fails as the convoy
issues (R63, R395). -/
def State.endConvoy (s0 s : State) (old : Nat) (words : List (Nat × BitVec 32)) : State :=
  match s.cv.wait, s.cv.fault with
  | none, none => s.retireConvoy
  | none, some f => s0.takeFault s words f
  | some (w, r), fault =>
    match s.faultBeyond old words false with
    | some (f, later) => s0.takeFault later words f
    | none => s0.suspend s words w (match fault, r with
      | none, _ => r
      | some _, .request a e => .request a e
      | some _, _ => .nothing)

/-- The convoy record as a convoy begins at the program counter, and its first word: a held convoy goes on from its waiting word. -/
def Thread.beginConvoy (t : Thread) (data : BitVec 128) (cycle : Word) : Convoy × Nat :=
  let vstart := t.csr.vstart.toNat
  let fresh : Convoy := { Convoy.empty with
    addr := t.pc
    cycle := cycle
    vstart0 := vstart
    trees := (0, [0, 1, 2, 3].any (fun i => wordHas (·.changing) (convoyWord data i)))
    marks := match t.carried.find? (fun x => x.1 == t.pc && x.2.1 == vstart) with
      | some x => x.2.2
      | none => [] }
  match t.held with
  | some h => if h.addr = t.pc && h.raw = convoyWord data h.word then (h, h.word) else (fresh, 0)
  | none => (fresh, 0)

/-- The words of a convoy from one on, with their indices. -/
def convoyWords (data : BitVec 128) (first : Nat) : List (Nat × BitVec 32) :=
  ([0, 1, 2, 3].drop first).map (fun i => (i, convoyWord data i))

/-- The governor holds the convoy back: it contains accumulating words and its core may not issue one (R210). -/
def State.governed (s : State) (words : List (Nat × BitVec 32)) : Nat :=
  let n := (words.filter (fun x => isAccumulatingWord x.2)).length
  if n ≠ 0 && !s.admits s.th.core then n else 0

/-- A command's register named by a later word of its convoy (R341) is one of the checks that R63 makes after the alignment: the word's
own alignment fault comes first. -/
def State.refine (s : State) (old : Nat) (words : List (Nat × BitVec 32)) (f : FaultRec) : FaultRec :=
  let w := wordAt words f.word
  if faultSub f.info ≠ 7 || !wordHas (fun _ => true) w || s.cv.wait.isSome then f
  else match s.runWord old f.word w with
    | .next r => match r.cv.fault with
      | some g => if g.word = f.word && g.elem = r.cv.vstart0 && g.cause = 0x01 && faultSub g.info = 4 then g else f
      | none => f
    | _ => f

/-- The end of a convoy one of whose words has a fault that the words alone decide (R395, log 18): a fault of a lower word at the same
element comes before it, and nothing waits. -/
def State.endLate (s0 s : State) (old : Nat) (words : List (Nat × BitVec 32)) (f : FaultRec) : State :=
  if s.cv.wait.isNone && s.ended then s0.endConvoy s old words
  else match s.faultBeyond old (words.filter (fun x => x.1 < f.word)) true with
    | some (g, later) => if g.elem = later.cv.vstart0 then s0.takeFault later words g else s0.faultAt s true f
    | none => s0.faultAt s true (s.refine old words f)

/-- The current thread's convoy, whose bytes have been fetched. A fault that the words alone decide is taken ahead of a wait, and of an
earlier word's fault at a higher element (R395, log 18). DESIGN CHOICE (log 63): the governor holds a convoy back before the checks of R63
that its words do not decide alone. -/
def State.runConvoy (s : State) (data : BitVec 128) : Result :=
  let (cv, first) := s.th.beginConvoy data (s.die (dieOf s.th.core)).cycle
  let words := convoyWords data first
  let late := (convoyFault s.privileged (convoyWords data 0) false []).map (fun x => (⟨x.2.1, cv.vstart0, x.1, x.2.2⟩ : FaultRec))
  let held := s.governed words
  if held ≠ 0 && late.isNone && first = 0 then .next ((s.onTh (fun t => t.holdBack held)).idleFor s .governor)
  else
    let run := match late with
      | some f => words.filter (fun x => x.1 < f.word)
      | none => words
    andThen (State.runWords s.nextUid run { s with cv := cv }) (fun r =>
      .next (match late with
        | some f => s.endLate r s.nextUid words f
        | none => s.endConvoy r s.nextUid words))

/-- The convoy at the program counter is fetched and run; a fetch that fails is a fault of the convoy at its word 0 (R378, R395). -/
def State.stepConvoy (s : State) : Result :=
  match s.fetch with
  | (.convoy data, s) => s.runConvoy data
  | (.fault c x, s) =>
    let v := s.th.csr.vstart.toNat
    .next (s.faultAt { s with cv := { Convoy.empty with addr := s.th.pc, vstart0 := v } } true ⟨c, v, 0, x⟩)
  | (.stall, s) => .next (s.idleFor s (.page s.th.pc 3))

/-- Errors in a die's registers, scratchpads and caches that their codes correct: each is found by free choice, corrected and counted
(R414). An uncorrectable sector of a caddy is found in the same way and made invalid (R230). -/
def State.correctNear (s : State) : State :=
  let near := s.damage.filter (fun x => match x with
    | .softNear _ | .caddy _ _ => true
    | _ => false)
  if near.isEmpty then s
  else
    let found := (near.zipIdx.filter (fun x => Config.choice (s.free + x.2))).map (·.1)
    found.foldl (fun s x => match x with
      | .softNear d => { s with damage := s.damage.erase x }.countCorrected d 1
      | .caddy d n => { s with damage := s.damage.erase x }.caddyBits d (n / 4) (1#512 <<< (n % 512)) false
      | _ => s) { s with free := s.free + near.length }

/-- Every die's clock advances by at least one cycle; how many is not the model's to say (R25, R26, R27, log 14). -/
def State.tick (s : State) : State :=
  let advance (x : Die) (n : Nat) : Die :=
    { x with cycle := x.cycle + BitVec.ofNat 64 (1 + n), window := x.window + BitVec.ofNat 64 (1 + n) }
  { s with
    dies := Vector.ofFn (fun (d : Fin 9) => advance (vget s.dies d.val Die.reset) (Config.number (s.free + d.val) % 2 ^ 32))
    free := s.free + 9 }.correctNear

/-! ## The parts of a step -/

/-- The result of trying a thread's convoy is that it waits, with nothing left behind but the wait: it waits on a condition of R24. -/
def State.onlyWaits (t : Thread) (s : State) : Bool :=
  s.th.uid == t.uid && s.th.csr.cvret == t.csr.cvret && s.th.pc == t.pc && s.th.held == t.held && s.th.run == t.run &&
  (match s.th.wait with
    | .none | .barrier | .sem _ _ | .network _ _ _ => false
    | _ => true)

/-- A thread's convoy is tried: one that must wait on a condition of R24 is found to wait, and is not ready (R331). -/
def State.tryThread (s : State) (t : Thread) : State :=
  match (s.switchTo t.uid).stepConvoy with
  | .next s' => if State.onlyWaits t s' then s'.switchTo s.th.uid else s
  | _ => s

/-- Among several threads of a core that have not been seen to wait, those that must are found (R24, R331). -/
def State.scout (s : State) (core : Nat) : State :=
  let ready := s.readyAt core
  if ready.length ≤ 1 then s else ready.foldl State.tryThread s

/-- An event of the agenda happens; an instruction word is no event and is dropped (log 1). An event of a core's selection finds which of its
threads must wait. -/
def State.stepEvent (s : State) (e : Instr) (rest : List Instr) : Result :=
  let s := { s with agenda := rest }
  let s := match e with
    | .convoyIssue core | .issueAgeing core _ => s.scout core
    | _ => s
  if (traits e).event then exec e s else .next s

/-- The core of the current thread selects a ready thread and runs its convoy; without one only time passes (R23, R331). -/
def State.stepCore (s : State) : Result :=
  let s := s.scout s.th.core
  match s.pick s.th.core with
  | some t => ((s.select t).tick).stepConvoy
  | none => .next s.tick

/-- The end of a step from `s0`: a device reset that was asked for takes place (R419), and tokens that have arrived at parked threads
stand in their images (R407). -/
def State.settle (s0 s : State) : Result := .next (if s.cv.reset then s.deviceReset else { s.syncImages s0 with cv := Convoy.empty })

/-! ## Placing an instruction for the host -/

/-- Frames of this device's HBM above 1 MiB, for the tables and the page of a placed convoy. -/
def State.freshFrame (s : State) (i : Nat) : Nat := s.deviceBase + 2 ^ 20 + 65536 * i

/-- A page-table entry that points to a frame. -/
def pointerEntry (frame : Nat) : Nat := frame + 1

/-- A leaf that maps a frame with every permission: Valid, Read, Write, Execute, User, Leaf (R368). -/
def leafEntry (frame : Nat) : Nat := frame + 0x3F

/-- The bytes of a convoy of one word and three NOPs. -/
def lonelyConvoy (w : Nat) : Nat := w + nopWord.toNat * (2 ^ 32 + 2 ^ 64 + 2 ^ 96)

/-- The page of the current thread's program counter is mapped under the thread's root, and its convoy holds the word and three
NOPs; no copy of an older translation or convoy is left, and the thread can be selected (log 29). -/
def State.placeWord (s : State) (w : Nat) : State :=
  let va := s.th.pc
  let f (i : Nat) : Nat := s.freshFrame i
  let idx (lo n : Nat) : Nat := 8 * (va.toNat / 2 ^ lo % n)
  let all : Nat := 2 ^ 64 - 1
  let s := s.homeWrite (s.rootOf s.th + idx 49 256) (pointerEntry (f 1)) all 8
  let s := s.homeWrite (f 1 + idx 38 2048) (pointerEntry (f 2)) all 8
  let s := s.homeWrite (f 2 + idx 27 2048) (pointerEntry (f 3)) all 8
  let s := s.homeWrite (f 3 + idx 16 2048) (leafEntry (f 4)) all 8
  let s := s.homeWrite (f 4 + va.toNat % 65536) (lonelyConvoy w) (2 ^ 128 - 1) 16
  { s with tlb := [], slices := [], walks := [], icache := [], agenda := [] }.onTh (fun t => { t with
    run := .ready, parked := false, wait := .none, held := none, needs := [], yieldTo := [] })

end Sys2Proof.Machine
end

