-- ==== Sys2Proof/Machine/Step.lean ====
section
/-! DEFINITION. One step of the machine: an event of the agenda, or a convoy of the core of the current thread (log 1, 2); and the
placing of an instruction where the next step fetches it (log 29). -/

namespace Sys2Proof.Machine

open Sys2Proof

/-- A step: the agenda's first event, else the convoy that the current thread's core selects (R23), else time alone. A device reset
that the step asked for follows it (R419). -/
def step (s : State) : Host.Outcome State Fault Refusal :=
  match s.agenda with
  | e :: rest => andThen (s.stepEvent e rest) s.settle
  | [] => andThen s.stepCore s.settle

/-- The state with a table word of `nbits` bits, the bits above them 0, stored where the next step fetches its convoy. -/
def State.withFetchWord (s : State) (nbits w : Nat) : State := s.placeWord (w % 2 ^ nbits % 2 ^ 32)

end Sys2Proof.Machine
end

