-- ==== Sys2Proof/Safety.lean ====
section
/-! DEFINITION. What the claims call a good state and a good step: the byte stores in their canonical form, program counters that name
a convoy (R22), and a machine that goes on. -/

namespace Sys2Proof.Machine

open Sys2Proof

/-- Memory and the scratchpads are in their one canonical form (log 6). -/
def State.MemWf (s : State) : Prop := Memory.wf s.mem = true ∧ Memory.wf s.scratch = true

/-- Every address at which a thread stands or may come to stand is a multiple of 16 (R22): its program counter, the handlers and the places
that it returns to (R81, R394), the successor of a held convoy, and the entries of launches and child tasks (R322, R337). -/
def State.PcAligned (s : State) : Prop :=
  (∀ t ∈ s.threads, t.pc.toNat % 16 = 0 ∧ t.csr.uth.toNat % 16 = 0 ∧ t.csr.uepc.toNat % 16 = 0 ∧ t.priv.sth.toNat % 16 = 0 ∧
    t.priv.sepc.toNat % 16 = 0 ∧ ∀ h ∈ t.held, ∀ x ∈ h.next, x.toNat % 16 = 0) ∧
  (∀ l ∈ s.launches, l.image.extractLsb' 0 4 = 0) ∧ ∀ k ∈ s.tasks, k.entry.toNat % 16 = 0

/-- The machine goes on from a state: its step is neither a fault nor a refusal. -/
def State.GoesOn (s : State) : Prop := ∃ t, step s = .next t

end Sys2Proof.Machine
end

