-- ==== Sys2Proof/Certificates/Slice0/Obligations.lean ====
section
/-! DEFINITION. The statements for the provers, over a small vocabulary of their own: what a word completes with, what it leaves unchanged
and where it faults. -/

/-! ## Vocabulary of the statements -/

namespace Sys2Proof.Claims

open Sys2Proof Sys2Proof.Machine

/-- Nothing of the memory system's own records changed but what filling, cleaning and coherence touch: sectors, copies, metadata, dies,
storage that was corrected or lost, and what a lost line tells (R244, R249, R414, R416). -/
def OnlyCaches (s t : State) : Prop :=
  t = { s with
    sectors := t.sectors, copies := t.copies, metas := t.metas, dies := t.dies, damage := t.damage, bbFlash := t.bbFlash, replies := t.replies }

/-- Every byte of memory and of the scratchpads reads in `t` as it reads in `s`. -/
def SameMemory (s t : State) : Prop := ∀ a, cellsRead t.mem a = cellsRead s.mem a ∧ cellsRead t.scratch a = cellsRead s.scratch a

/-- Nothing but the current thread's scalar registers differs. -/
def OnlyRegs (s t : State) : Prop := t = { s with th := { s.th with regs := t.th.regs } }

/-- Nothing but the current thread's scalar registers and fflags differs. -/
def OnlyRegsFlags (s t : State) : Prop :=
  t = { s with th := { s.th with regs := t.th.regs, csr := { s.th.csr with fflags := t.th.csr.fflags } } }

/-- Nothing but the record of the convoy in progress differs. -/
def OnlyConvoy (s t : State) : Prop := t = { s with cv := t.cv }

/-- Register d of the current thread received a value and the other scalar registers are as before; s0 keeps reading zero
(R65). -/
def Wrote (s t : State) (d : BitVec 5) (v : Word) : Prop :=
  t.reg d = (if d = 0#5 then 0#64 else v) ∧ ∀ r : BitVec 5, r ≠ d → t.reg r = s.reg r

/-- A word completed with a scalar result and changed nothing else. -/
def Completes (s : State) (i : Instr) (d : BitVec 5) (v : Word) : Prop :=
  ∃ t, exec i s = .next t ∧ Wrote s t d v ∧ OnlyRegs s t ∧ SameMemory s t

/-- A fault recorded for the convoy: cause, element, word and detail; nothing else of the state changed. -/
def Faulted (s t : State) (cause elem : Nat) (info : Word) : Prop :=
  t.cv.fault = some ⟨cause, elem, s.cv.word, info⟩ ∧
  t = { s with cv := { s.cv with fault := t.cv.fault, limit := some elem } }

/-- The convoy has neither faulted nor waited so far. -/
def Settled (s : State) : Prop := s.cv.wait = none ∧ s.cv.fault = none ∧ s.cv.limit = none

/-! ## Scalar tables -/

/-- Two-source integer words and their results over 64-bit values, as the table of R66 and R67 states them. -/
def integerWords : List ((BitVec 5 → BitVec 5 → BitVec 5 → Instr) × (Word → Word → Word)) :=
  [(.add, fun x y => x + y), (.sub, fun x y => x - y), (.and, fun x y => x &&& y), (.or, fun x y => x ||| y),
   (.xor, fun x y => x ^^^ y), (.sll, fun x y => x <<< y.setWidth 6), (.srl, fun x y => x >>> y.setWidth 6),
   (.sra, fun x y => x.sshiftRight (y.setWidth 6).toNat), (.slt, fun x y => if x.toInt < y.toInt then 1 else 0),
   (.sltu, fun x y => if x.toNat < y.toNat then 1 else 0), (.min, fun x y => if x.toInt ≤ y.toInt then x else y),
   (.max, fun x y => if x.toInt ≤ y.toInt then y else x), (.minu, fun x y => if x.toNat ≤ y.toNat then x else y),
   (.maxu, fun x y => if x.toNat ≤ y.toNat then y else x), (.mul, fun x y => x * y),
   (.mulh, fun x y => (x.signExtend 128 * y.signExtend 128).extractLsb' 64 64),
   (.mulhu, fun x y => (x.zeroExtend 128 * y.zeroExtend 128).extractLsb' 64 64),
   (.div, fun x y => if y = 0 then BitVec.allOnes 64 else x.sdiv y), (.divu, fun x y => if y = 0 then BitVec.allOnes 64 else x.udiv y),
   (.rem, fun x y => if y = 0 then x else x.srem y), (.remu, fun x y => if y = 0 then x else x.umod y)]

/-- Words with a 16-bit immediate, which is sign-extended (R68). -/
def immediateWords : List ((BitVec 5 → BitVec 5 → BitVec 16 → Instr) × (Word → Word → Word)) :=
  [(.addi, fun x i => x + i), (.andi, fun x i => x &&& i), (.ori, fun x i => x ||| i), (.xori, fun x i => x ^^^ i),
   (.slti, fun x i => if x.toInt < i.toInt then 1 else 0)]

/-- Shifts by a 6-bit amount (R69). -/
def shiftWords : List ((BitVec 5 → BitVec 5 → BitVec 6 → Instr) × (Word → Nat → Word)) :=
  [(.slli, fun x n => x <<< n), (.srli, fun x n => x >>> n), (.srai, fun x n => x.sshiftRight n)]

/-- The 64-bit value of a condition. -/
def truth (b : Bool) : Word := if b then 1 else 0

/-- Two-source scalar FP32 words: result code and flags for a rounding mode and two FP32 codes (R79, R80). -/
def floatWords : List ((BitVec 5 → BitVec 5 → BitVec 5 → Instr) × (Nat → Nat → Nat → Nat × BitVec 6)) :=
  [(.fadd, fun m x y => fpAdd fmtF32 m x y), (.fsub, fun m x y => fpSub fmtF32 m x y), (.fmul, fun m x y => fpMul fmtF32 m x y),
   (.fdiv, fun m x y => fpDiv fmtF32 m x y), (.fmin, fun _ x y => fpMinMax fmtF32 false x y),
   (.fmax, fun _ x y => fpMinMax fmtF32 true x y)]

/-- Scalar FP32 comparisons (R79). -/
def floatTests : List ((BitVec 5 → BitVec 5 → BitVec 5 → Instr) × FRel) := [(.feq, .eq), (.flt, .lt), (.fle, .le)]

/-- Scalar loads: the word, its size in bytes, whether the value is sign-extended (R72). -/
def loadWords : List ((BitVec 5 → BitVec 5 → BitVec 4 → BitVec 12 → Instr) × Nat × Bool) :=
  [(.ldb, 1, true), (.ldbu, 1, false), (.ldh, 2, true), (.ldhu, 2, false), (.ldw, 4, true), (.ldwu, 4, false), (.ldd, 8, false)]

/-- Scalar stores and their size in bytes (R72). -/
def storeWords4 : List ((BitVec 5 → BitVec 5 → BitVec 4 → BitVec 12 → Instr) × Nat) := [(.stb, 1), (.sth, 2), (.stw, 4), (.std, 8)]

/-- EA of a scalar load or store: S[a] + sext(off12) (R72). -/
def ea (s : State) (a : BitVec 5) (o : BitVec 12) : Word := s.reg a + o.signExtend 64

/-- An address that names bytes of the current thread's scratchpad window (R15, R366). -/
def InWindow (s : State) (va : Word) (n : Nat) : Prop :=
  va.toNat / 2 ^ 17 = 2 ^ 46 ∧ s.th.winBase ≤ va.toNat % 2 ^ 17 ∧ va.toNat % 2 ^ 17 + n ≤ s.th.winBase + s.winBytes ∧
  va.toNat % 2 ^ 17 + n ≤ 2 ^ 17

/-- The byte of the current core's scratchpad at a scratchpad address. -/
def scratchByte (s : State) (va : Word) : Byte := cellsRead s.scratch (s.th.core * 131072 + va.toNat % 2 ^ 17)

/-- The byte that a cluster sees at a global physical address: its cache's bits where written or filled, else the home's (R244). -/
def seenByte (s : State) (cl x : Nat) : Byte := (s.filledSector cl x).data.extractLsb' (8 * (x % 32)) 8

/-- The state when an access of the thread has been translated, and where it goes (R15, R241, R370). -/
def Leads (s : State) (va : Word) (n kind : Nat) (place : Target) (s1 : State) : Prop :=
  ∃ attr, s.resolve va n kind s.cv.vstart0 = (.at_ place attr, s1)

/-- Byte `i` of an access at a global physical address as the current core's read-only path may still hold it (R246). -/
def HeldByte (s : State) (p i : Nat) (b : Byte) : Prop :=
  ∃ x ∈ s.ro, x.core = s.th.core ∧ x.addr = p / 32 ∧ b = x.data.extractLsb' (8 * (p % 32 + i)) 8

/-- Device registers of 8 bytes with their offsets from 7·2^40 and what a load reads (R242, R379, R382, R392). -/
def deviceReads : List (Nat × (State → Word)) :=
  [(0, State.mgmt), (8, State.identity), (0x3000, State.ringBase), (0x3008, State.ringSize), (0x3010, State.ringTail), (0x3018, State.ringHead)]

/-- Device registers that a core writes, and the state after the write of a value (R392, R408). -/
def deviceWrites : List (Nat × (State → Word → State)) :=
  [(0x3000, fun s v => { s with ringBase := v }), (0x3008, fun s v => { s with ringSize := v &&& 0xF#64 }),
   (0x3018, fun s v => { s with ringHead := v })]

/-- The word whose low `n` bytes are given, lowest first, sign- or zero-extended. -/
def extended (n : Nat) (signed : Bool) (bytes : Nat → Byte) (v : Word) : Prop :=
  (∀ i, i < n → v.extractLsb' (8 * i) 8 = bytes i) ∧
  (∀ i, 8 * n ≤ i → i < 64 → v.getLsbD i = (signed && (bytes (n - 1)).getLsbD 7))

/-- Conditional branches and their conditions (R75). -/
def branchWords : List ((BitVec 5 → BitVec 5 → BitVec 16 → Instr) × (Word → Word → Bool)) :=
  [(.beq, fun x y => x == y), (.bne, fun x y => x != y), (.blt, fun x y => decide (x.toInt < y.toInt)),
   (.bge, fun x y => decide (y.toInt ≤ x.toInt)), (.bltu, fun x y => decide (x.toNat < y.toNat)), (.bgeu, fun x y => decide (y.toNat ≤ x.toNat))]

/-- A target that a control transfer can reach: aligned to 16, canonical and outside the scratchpad range (R22, R78). -/
def Reachable (x : Word) : Prop := x.toNat % 16 = 0 ∧ (x.toNat < 2 ^ 56 ∨ 2 ^ 64 - 2 ^ 56 ≤ x.toNat)

/-- A word that would transfer to `x` faults where no convoy can be: past either end of the address space, misaligned, or beyond the
addresses that a transfer reaches; alignment is checked first (R22, R78). -/
def FaultsAt (s : State) (i : Instr) (x : Int) : Prop :=
  let dest : Word := BitVec.ofInt 64 x
  let fault : Nat → Prop := fun cause => ∃ t, exec i s = .next t ∧ Faulted s t cause s.cv.vstart0 (addrInfo dest 3)
  (x < 0 ∨ 2 ^ 64 ≤ x → fault 0x06) ∧
  (0 ≤ x → x < 2 ^ 64 → (dest.toNat % 16 ≠ 0 → fault 0x03) ∧ (dest.toNat % 16 = 0 → ¬ Reachable dest → fault 0x06))

/-- The convoy's successor is set, and nothing else changed. -/
def GoesTo (s t : State) (x : Word) : Prop := t = { s with cv := { s.cv with next := some x } }

end Sys2Proof.Claims

namespace Sys2Proof.Claims

open Sys2Proof Sys2Proof.Machine

/-- FP32 codes by kind: NaN, signalling NaN (bit 22 clear, R80), infinity, zero, finite and nonzero; `neg32` is the sign. -/
def nan32 (x : Nat) : Bool := 0x7F800000 < x % 2 ^ 31
def snan32 (x : Nat) : Bool := nan32 x && x / 2 ^ 22 % 2 = 0
def inf32 (x : Nat) : Bool := x % 2 ^ 31 = 0x7F800000
def zero32 (x : Nat) : Bool := x % 2 ^ 31 = 0
def number32 (x : Nat) : Bool := !nan32 x && !inf32 x && !zero32 x
def neg32 (x : Nat) : Bool := x / 2 ^ 31 % 2 = 1

/-- The canonical quiet NaN (R79) and the two infinities. -/
def quiet32 : Nat := 0x7FC00000
def infOf (neg : Bool) : Nat := if neg then 0xFF800000 else 0x7F800000

/-- An invalid operation of two FP32 operands (R80): a signalling NaN, ∞ − ∞, 0 × ∞, 0 ÷ 0, ∞ ÷ ∞. -/
def invalidSum (x y : Nat) : Bool := snan32 x || snan32 y || (inf32 x && inf32 y && neg32 x != neg32 y)
def invalidProduct (x y : Nat) : Bool := snan32 x || snan32 y || (zero32 x && inf32 y) || (inf32 x && zero32 y)
def invalidQuotient (x y : Nat) : Bool := snan32 x || snan32 y || (zero32 x && zero32 y) || (inf32 x && inf32 y)

/-- A result and its flags agree with R80 where the operands are special: `bad` says that the operation is invalid. -/
def special (bad : Bool) (x y : Nat) (r : Nat × BitVec 6) : Prop :=
  (bad = true → r = (quiet32, flagNV)) ∧ (bad = false → (nan32 x || nan32 y) = true → r = (quiet32, 0))

end Sys2Proof.Claims

namespace Sys2Proof.Claims

open Sys2Proof Sys2Proof.Machine

/-- The user control registers of R81 whose value stands in the thread, with the value a CSRR returns. -/
def userValues : List (BitVec 12 × (State → Word)) :=
  [(0x000, fun s => s.th.csr.vl.zeroExtend 64), (0x001, fun s => s.th.csr.vtype.zeroExtend 64), (0x002, fun s => s.th.csr.vstart.zeroExtend 64),
   (0x003, fun s => BitVec.ofNat 64 (2 ^ (s.th.csr.vtype.toNat / 4 % 4) * 4096 / (2 * 2 ^ (s.th.csr.vtype.toNat % 4)) * s.lanes / 8)),
   (0x004, fun s => s.th.csr.frm.zeroExtend 64), (0x006, fun s => s.th.csr.hwbase.zeroExtend 64), (0x007, fun s => s.th.csr.hwscope.zeroExtend 64),
   (0x008, fun s => s.th.threadNo.zeroExtend 64), (0x009, fun s => s.th.lcoreNo.zeroExtend 64), (0x00A, fun s => s.th.lgangNo.zeroExtend 64),
   (0x00B, fun s => s.th.lcountNo.zeroExtend 64), (0x010, fun s => s.th.csr.uth), (0x011, fun s => s.th.csr.uepc),
   (0x012, fun s => s.th.csr.ucause.zeroExtend 64), (0x013, fun s => s.th.csr.uinfo), (0x014, fun s => s.th.csr.ustat),
   (0x020, fun s => if s.th.det then 1 else 0), (0x021, fun s => s.th.csr.phase.zeroExtend 64), (0x030, fun s => s.th.csr.dgov.zeroExtend 64),
   (0x050, fun s => s.cv.cycle), (0x051, fun s => s.th.csr.cvret), (0x060, fun s => s.th.csr.preempted.zeroExtend 64)]

/-- The privileged control registers of R394 with the value a CSRR returns. -/
def privilegedValues : List (BitVec 12 × (State → Word)) :=
  [(0x800, fun s => s.th.priv.sstatus), (0x801, fun s => s.th.priv.sepc), (0x802, fun s => s.th.priv.scause.zeroExtend 64),
   (0x803, fun s => s.th.priv.sinfo), (0x804, fun s => (s.cv.maxlane.getD s.th.priv.maxlane).zeroExtend 64), (0x805, fun s => s.th.priv.asid.zeroExtend 64), (0x806, fun s => s.th.priv.ptroot),
   (0x807, fun s => s.th.priv.dbudget.zeroExtend 64), (0x808, fun s => s.th.priv.sth),
   (0x809, fun s => if s.ringTail ≠ s.ringHead then 1 else 0)]

/-- The user control registers that a program may write without a further check, with what a written value leaves in their
fields (R81, R83). -/
def userWrites : List (BitVec 12 × (Word → Word)) :=
  [(0x002, fun v => v &&& 0x7FFF), (0x004, fun v => if 5 ≤ (v &&& 7).toNat then 0 else v &&& 7), (0x006, fun v => v &&& 0x7FFFFFFFFFFFFFFF),
   (0x007, fun v => v &&& 0xF), (0x010, fun v => v &&& 0xFFFFFFFFFFFFFFF0), (0x011, fun v => v &&& 0xFFFFFFFFFFFFFFF0),
   (0x012, fun v => v &&& 0xFF), (0x013, fun v => v), (0x014, fun v => v &&& 0x7FFF0007), (0x060, fun v => v &&& 3)]

/-- The privileged control registers that a word of privileged mode may write, with what a written value leaves (R394, R113). -/
def privilegedWrites : List (BitVec 12 × (Word → Word)) :=
  [(0x800, fun v => v &&& 0x7FFF000F), (0x801, fun v => v &&& 0xFFFFFFFFFFFFFFF0), (0x802, fun v => v &&& 0xFF), (0x803, fun v => v),
   (0x804, fun v => v &&& 3), (0x805, fun v => v &&& 0xFFFF), (0x806, fun v => v &&& 0xFFFFFFFFFFFF0000), (0x808, fun v => v &&& 0xFFFFFFFFFFFFFFF0)]

/-- A control register took a value, every other one reads as before, and nothing but control registers differs. -/
def WroteCsr (s t : State) (c : BitVec 12) (v : Word) : Prop :=
  t.csrValue c.toNat = v ∧ (∀ c' : BitVec 12, c' ≠ c → t.csrValue c'.toNat = s.csrValue c'.toNat) ∧
  t = { s with th := { s.th with csr := t.th.csr, priv := t.th.priv }, cv := { s.cv with vstartSet := t.cv.vstartSet, maxlane := t.cv.maxlane } }

/-- The words that write control register `c`, with the value that each writes where the register holds `old` (R82). -/
def csrWords (s : State) (a : BitVec 5) (c : BitVec 12) (old : Word) : List (Instr × Word) :=
  [(.csrw a c, s.reg a), (.csrs a c, old ||| s.reg a), (.csrc a c, old &&& ~~~s.reg a)]

/-- What dbudget stores of a written value, the whole of which is held against 1,024 (R113, R210, log 48). -/
def budgetStored (v : Word) : Word := if 1024 < v.toNat then 1024 else v

/-- The numbers that CSRW, CSRS and CSRC complete with: the user registers that a program may write and, for privileged mode, every
privileged one but sevent (R61, R81, R394). -/
def writableCsrs : List (BitVec 12) :=
  userWrites.map (·.1) ++ [0x001, 0x005, 0x021, 0x050] ++ privilegedWrites.map (·.1) ++ [0x807]

/-- The thread's diagonal words are all complete. -/
def Drained (s : State) : Prop := (s.coreRec s.th.core).diag = [] ∧ s.cv.diags = []

/-- VLMAX of a vtype with G powered lane groups, as R110 writes it. -/
def vlmax110 (vtype : BitVec 6) (g : Nat) : Nat := 2 ^ (vtype.toNat / 4 % 4) * 4096 / (2 * 2 ^ (vtype.toNat % 4)) * g / 8

/-- Words that only privileged mode may execute (R60), for some operands. -/
def PrivilegedWord (d a b : BitVec 5) (i : Instr) : Prop :=
  i = .eret ∨ i = .idle ∨ i = .tlbinv a b ∨ i = .ctxsave d a b ∨ i = .ctxload d a b ∨ i = .engrst a ∨ i = .migrate d a

/-- The ring of die 8 gained an event as R420 lays it out, of 4,096 entries the oldest giving way, and the other dies are as before. -/
def Logged (s t : State) (code asid : BitVec 16) (detail : Word) : Prop :=
  t.die 8 = { s.die 8 with
    bb := ((s.die 8).bb ++ [detail ++ 0#16 ++ asid ++ 0#8 ++ 8#8 ++ code ++ (s.die 8).cycle ++ (s.die 8).bbSeq]).drop ((s.die 8).bb.length + 1 - 4096)
    bbSeq := (s.die 8).bbSeq + 1 } ∧
  ∀ d, d ≠ 8 → t.die d = s.die d

/-- The convoy of the current thread retires with nothing to hand over but what its last word asks for (R196, R341). -/
structure Bare (s : State) : Prop where
  diags : s.cv.diags = []
  cmds : s.cv.cmds = []
  marks : s.cv.marks = []
  maxlane : s.cv.maxlane = none
  next : s.cv.next = none
  vstart : s.cv.vstartSet = false

/-- What a trap leaves in the status word: saved vstart, previous mode, in-handler, word index (R85, R394). -/
def statusWord (vstart : BitVec 15) (mode : Bool) (word : Nat) : Word :=
  (vstart.zeroExtend 64 <<< 16) ||| (if mode then 8 else 0) ||| 4 ||| BitVec.ofNat 64 (word % 4)

end Sys2Proof.Claims

namespace Sys2Proof.Claims

open Sys2Proof Sys2Proof.Machine

/-! ## Vector words -/

/-- A vector word may act on groups that it reads and writes, each given by its first register and its number of registers: the
convoy is settled, no stream is bound, vl is a legal one, the groups are aligned and allocated, and no earlier whole-source word of
the convoy has read what the word writes (R62, R63, R169). -/
structure Ready (s : State) (reads writes : List (Nat × Nat)) (masks : List Nat) : Prop where
  settled : Settled s
  unbound : s.th.binds = []
  sewCode : s.th.csr.vtype.toNat % 4 ≠ 3
  legalVl : s.vl ≤ s.vlmax
  regs32 : s.th.nregs ≤ 32
  aligned : ∀ g ∈ writes ++ reads, g.1 % g.2 = 0
  allocated : ∀ g ∈ writes ++ reads, g.1 + g.2 ≤ s.th.nregs
  wholeRegs : ∀ g ∈ writes, ∀ r ∈ s.cv.whole, r < g.1 ∨ g.1 + g.2 ≤ r
  wholeMasks : ∀ m ∈ masks, m ≠ 0 → m ∉ s.cv.wholeK

/-- The reads of a word with two sources: the second is a group only where the sc bit is 0 (R148). -/
def sources (s : State) (a b : BitVec 5) (sc : BitVec 1) : List (Nat × Nat) :=
  (a.toNat, s.lmul) :: (if sc = 0#1 then [(b.toNat, s.lmul)] else [])

/-- Element `e` of the second source: of the group, or the scalar's low SEW bits (R148). -/
def second (s : State) (b : BitVec 5) (sc : BitVec 1) (e : Nat) : Nat :=
  if sc = 0#1 then s.elem b.toNat e s.sew else (s.reg b).toNat % 2 ^ s.sew

/-- Everything but vector registers, masks and fflags is as before; in the convoy's record only what it notes of its own effects
differs. -/
def OnlyVector (s t : State) : Prop :=
  t = { s with
    th := { s.th with vregs := t.th.vregs, masks := t.th.masks, csr := { s.th.csr with fflags := t.th.csr.fflags } }
    cv := { s.cv with kept := t.cv.kept, marks := t.cv.marks, whole := t.cv.whole, wholeK := t.cv.wholeK } }

/-- The flags that the active elements from vstart to vl - 1 raise are in fflags. -/
def FlagsOf (s t : State) (k : BitVec 3) (f : Nat → BitVec 6) : Prop :=
  t.th.csr.fflags = ((span s.vstart s.vl).filter (fun e => s.th.active k.toNat e)).foldl (fun a e => a ||| f e) s.th.csr.fflags

/-- What an element-wise word leaves in an exception mask x (R120): x = 0 is none, and at vl = 0 nothing is written. -/
def ExceptionsOf (s t : State) (k x : BitVec 3) (f : Nat → BitVec 6) : Prop :=
  x ≠ 0#3 → s.vl ≠ 0 → ∀ e, e < 16384 → t.th.active x.toNat e =
    (if e < s.vstart then s.th.active x.toNat e
     else decide (e < s.vl) && s.th.active k.toNat e && marksException (f e))

/-- What a word with a destination group leaves (R119, R120): `v` is its first register, `regs` its number of registers, `sew` the
width of its elements, `f` the result and flags of an active element. -/
structure Elementwise (s t : State) (v sew regs : Nat) (k x : BitVec 3) (f : Nat → Nat × BitVec 6) : Prop where
  active : ∀ e, s.vstart ≤ e → e < s.vl → s.th.active k.toNat e = true → t.elem v e sew = (f e).1
  inactive : ∀ e, s.vstart ≤ e → e < s.vl → s.th.active k.toNat e = false →
    t.elem v e sew = if s.ma then 2 ^ sew - 1 else s.elem v e sew
  below : ∀ e, e < s.vstart → t.elem v e sew = s.elem v e sew
  tail : ∀ e, max s.vl s.vstart ≤ e → e < s.perReg sew * regs →
    t.elem v e sew = if s.ta && s.vl != 0 then 2 ^ sew - 1 else s.elem v e sew
  others : ∀ r, r < v ∨ v + regs ≤ r → vget t.th.vregs r 0 = vget s.th.vregs r 0
  masks : ∀ m, x = 0#3 ∨ m ≠ x.toNat → t.th.mask m = s.th.mask m
  flags : FlagsOf s t k (fun e => (f e).2)
  exceptions : ExceptionsOf s t k x (fun e => (f e).2)
  rest : OnlyVector s t

/-- What a word with a destination mask leaves (R119, R120, R156); a write of k0 is discarded (R123). -/
structure Maskwise (s t : State) (d : Nat) (k x : BitVec 3) (f : Nat → Bool × BitVec 6) : Prop where
  active : d ≠ 0 → d ≠ x.toNat → ∀ e, s.vstart ≤ e → e < s.vl → s.th.active k.toNat e = true → t.th.active d e = (f e).1
  inactive : d ≠ 0 → d ≠ x.toNat → ∀ e, s.vstart ≤ e → e < s.vl → s.th.active k.toNat e = false →
    t.th.active d e = (s.ma || s.th.active d e)
  below : d ≠ x.toNat → ∀ e, e < s.vstart → e < 16384 → t.th.active d e = s.th.active d e
  tail : d ≠ x.toNat → ∀ e, max s.vl s.vstart ≤ e → e < 16384 → t.th.active d e = ((s.ta && s.vl != 0) || s.th.active d e)
  masks : ∀ m, m ≠ d → x = 0#3 ∨ m ≠ x.toNat → t.th.mask m = s.th.mask m
  zero : t.th.mask 0 = s.th.mask 0
  vectors : t.th.vregs = s.th.vregs
  flags : FlagsOf s t k (fun e => (f e).2)
  exceptions : ExceptionsOf s t k x (fun e => (f e).2)
  rest : OnlyVector s t

/-- The value of an n-bit pattern read as two's complement. -/
def signedOf (n x : Nat) : Int := if 2 * x < 2 ^ n then x else (x : Int) - 2 ^ n

/-- The n-bit pattern of an integer. -/
def patternOf (n : Nat) (x : Int) : Nat := (x % 2 ^ n).toNat

/-- Zeros above the highest 1 of an n-bit pattern. -/
def zerosAbove (n x : Nat) : Nat := ((List.range n).takeWhile (fun i => !x.testBit (n - 1 - i))).length

/-- Two-source integer and logic words and their element results at SEW n (R150, R151). -/
def vectorIntegerWords : List ((BitVec 5 → BitVec 5 → BitVec 5 → BitVec 3 → BitVec 1 → BitVec 1 → Instr) × (Nat → Nat → Nat → Nat)) :=
  [(.vadd, fun n x y => (x + y) % 2 ^ n), (.vsub, fun n x y => (x + (2 ^ n - y)) % 2 ^ n), (.vmul, fun n x y => x * y % 2 ^ n),
   (.vmulh, fun n x y => patternOf n (signedOf n x * signedOf n y / 2 ^ n)),
   (.vmin, fun n x y => if signedOf n x ≤ signedOf n y then x else y), (.vmax, fun n x y => if signedOf n x ≤ signedOf n y then y else x),
   (.vminu, fun _ x y => if x ≤ y then x else y), (.vmaxu, fun _ x y => if x ≤ y then y else x),
   (.vand, fun _ x y => x &&& y), (.vor, fun _ x y => x ||| y), (.vxor, fun _ x y => x ^^^ y),
   (.vsll, fun n x y => x <<< (y % n) % 2 ^ n), (.vsrl, fun n x y => x >>> (y % n)),
   (.vsra, fun n x y => patternOf n (signedOf n x / 2 ^ (y % n)))]

/-- One-source words without flags: VPOPC, VCLZ and VMV (R151, R159). -/
def vectorUnaryWords : List ((BitVec 5 → BitVec 5 → BitVec 3 → BitVec 1 → Instr) × (Nat → Nat → Nat)) :=
  [(.vpopc, fun n x => ((List.range n).filter (fun i => x.testBit i)).length), (.vclz, fun n x => zerosAbove n x), (.vmv, fun _ x => x)]

/-- Two-source floating-point words (R152), in a format and a rounding mode. -/
def vectorFloatWords : List ((BitVec 5 → BitVec 5 → BitVec 5 → BitVec 3 → BitVec 3 → BitVec 1 → BitVec 1 → Instr) ×
    (Fmt → Nat → Nat → Nat → Nat × BitVec 6)) :=
  [(.vfadd, fpAdd), (.vfsub, fpSub), (.vfmul, fpMul), (.vfdiv, fpDiv), (.vfmin, fun f _ x y => fpMinMax f false x y),
   (.vfmax, fun f _ x y => fpMinMax f true x y)]

/-- Fused words: the product's and the addend's sign changes (R153). -/
def vectorFusedWords : List ((BitVec 5 → BitVec 5 → BitVec 5 → BitVec 3 → BitVec 3 → BitVec 1 → BitVec 1 → Instr) × Bool × Bool) :=
  [(.vfma, false, false), (.vfms, false, true), (.vfnma, true, true), (.vfnms, true, false)]

/-- One-source floating-point words (R152 to R154). -/
def vectorFloatUnaryWords : List ((BitVec 5 → BitVec 5 → BitVec 3 → BitVec 3 → BitVec 1 → Instr) × (Fmt → Nat → Nat → Nat × BitVec 6)) :=
  [(.vfsqrt, fpSqrt), (.vfrsq, fpRsqrt), (.vfexp2, fpExp2), (.vflog2, fpLog2), (.vfrcp, fpRcp)]

/-- Integer comparisons (R156). -/
def vectorCompareWords : List ((BitVec 5 → BitVec 5 → BitVec 5 → BitVec 3 → BitVec 1 → BitVec 1 → Instr) × (Nat → Nat → Nat → Bool)) :=
  [(.vceq, fun _ x y => x = y), (.vcne, fun _ x y => x ≠ y), (.vclt, fun n x y => signedOf n x < signedOf n y),
   (.vcle, fun n x y => signedOf n x ≤ signedOf n y), (.vcltu, fun _ x y => x < y), (.vcleu, fun _ x y => x ≤ y),
   (.vcgt, fun n x y => signedOf n y < signedOf n x), (.vcgtu, fun _ x y => y < x)]

/-- Floating-point comparisons (R156). -/
def vectorFloatCompareWords : List ((BitVec 5 → BitVec 5 → BitVec 5 → BitVec 3 → BitVec 3 → BitVec 1 → BitVec 1 → Instr) × FRel) :=
  [(.vfceq, .eq), (.vfcne, .ne), (.vfclt, .lt), (.vfcle, .le), (.vfcgt, .gt), (.vfcge, .ge), (.vfcun, .un)]

/-- A conversion: whether the destination and the source are wide, its SEWs, and the result of an element (R157, R158). -/
structure Conversion where
  word : BitVec 5 → BitVec 5 → BitVec 3 → BitVec 3 → BitVec 1 → Instr
  wide : Bool
  fromWide : Bool
  sews : List Nat
  result : Nat → Nat → Nat → Nat × BitVec 6

/-- The conversions that raise flags, from SEW n and rounding mode m. -/
def floatConversions : List Conversion :=
  [⟨.vcvtFBf, true, false, [16], fun _ _ x => fmtF32.encode 0 (fmtBF16.decode x)⟩,
   ⟨.vcvtBfF, false, true, [16], fun _ m x => fmtBF16.encode m (fmtF32.decode x)⟩,
   ⟨.vcvtFI, false, false, [16, 32], fun n m x => fpOfInt (fmtOfSew n) m (signedOf n x)⟩,
   ⟨.vcvtIF, false, false, [16, 32], fun n m x => fpToInt (fmtOfSew n) m n x⟩]

/-- The integer conversions: extension, and clamping to the narrower range. -/
def integerConversions : List Conversion :=
  [⟨fun d a k _ l => .vwiden d a k l, true, false, [16, 32], fun n _ x => (patternOf (2 * n) (signedOf n x), 0)⟩,
   ⟨fun d a k _ l => .vwidenu d a k l, true, false, [16, 32], fun _ _ x => (x, 0)⟩,
   ⟨fun d a k _ l => .vnarrow d a k l, false, true, [16, 32],
     fun n _ x => (patternOf n (max (-(2 ^ (n - 1))) (min (2 ^ (n - 1) - 1) (signedOf (2 * n) x))), 0)⟩,
   ⟨fun d a k _ l => .vnarrowu d a k l, false, true, [16, 32], fun n _ x => (min x (2 ^ n - 1), 0)⟩]

/-- A conversion completes, with x as its exception mask. -/
def Converts (c : Conversion) (x : BitVec 3) : Prop :=
  ∀ (s : State) (d a : BitVec 5) (k e : BitVec 3) (l : BitVec 1),
    let rd := if c.wide then 2 * s.lmul else s.lmul
    let ra := if c.fromWide then 2 * s.lmul else s.lmul
    Ready s [(a.toNat, ra)] [(d.toNat, rd)] [(x &&& e).toNat] → s.sew ∈ c.sews →
    ((c.wide || c.fromWide) = true → d.toNat + rd ≤ a.toNat ∨ a.toNat + ra ≤ d.toNat) →
    ∃ t, exec (c.word d a k e l) s = .next t ∧
      Elementwise s t d.toNat (if c.wide then 2 * s.sew else s.sew) rd k (x &&& e)
        (fun i => c.result s.sew s.th.csr.frm.toNat (s.elem a.toNat i (if c.fromWide then 2 * s.sew else s.sew)))

/-- Mask logic (R124). -/
def maskWords : List ((BitVec 5 → BitVec 5 → BitVec 5 → Instr) × (Bool → Bool → Bool)) :=
  [(.kand, fun x y => x && y), (.kor, fun x y => x || y), (.kxor, fun x y => x != y), (.kandn, fun x y => x && !y)]

/-- The active elements below an index. -/
def activeBelow (s : State) (k : BitVec 3) (n : Nat) : List Nat := (List.range n).filter (fun e => s.th.active k.toNat e)

/-- A whole-source word completed with a scalar result (R164). -/
def WroteScalar (s t : State) (d : BitVec 5) (v : Word) : Prop :=
  Wrote s t d v ∧ SameMemory s t ∧
  t = { s with
    th := { s.th with regs := t.th.regs, csr := { s.th.csr with fflags := t.th.csr.fflags } }
    cv := { s.cv with marks := t.cv.marks, whole := t.cv.whole, wholeK := t.cv.wholeK } }

/-- FP32 addition by RNE of values with the flags so far. -/
def plus (x y : Nat × BitVec 6) : Nat × BitVec 6 := ((fpAdd fmtF32 0 x.1 y.1).1, x.2 ||| y.2 ||| (fpAdd fmtF32 0 x.1 y.1).2)

/-- The sum of 2^n values from index i on, halves first (R165). -/
def treeSum (x : Nat → Nat) : Nat → Nat → Nat × BitVec 6
  | 0, i => (x i, 0)
  | n + 1, i => plus (treeSum x n i) (treeSum x n (i + 2 ^ n))

/-- An element as an FP32 code, exactly (R164). -/
def asFp32 (sew x : Nat) : Nat := if sew = 16 then x * 65536 else x

/-- The element ranks first among the candidates under an order, the lower index winning among equals (R167). -/
def RanksFirst (below : Nat → Nat → Bool) (x : Nat → Nat) (c : List Nat) (i : Nat) : Prop :=
  i ∈ c ∧ ∀ j ∈ c, below (x j) (x i) = false ∧ (j < i → below (x i) (x j) = true)

/-- FP order of two element codes of a format, -0 below +0. -/
def fpBelow (f : Fmt) (x y : Nat) : Bool := Fp.below (f.decode x) (f.decode y)

end Sys2Proof.Claims

namespace Sys2Proof.Claims

open Sys2Proof Sys2Proof.Machine

/-! ## Vector memory words -/

/-- The vector loads and stores of byte formats with their address forms (R129). -/
def vectorLoadWords : List ((BitVec 5 → BitVec 5 → BitVec 5 → BitVec 3 → BitVec 4 → BitVec 4 → Instr) × VmForm) :=
  [(.vld, .unit), (.vlds, .strided), (.vldx, .indexed), (.vldl, .lane)]
def vectorStoreWords : List ((BitVec 5 → BitVec 5 → BitVec 5 → BitVec 3 → BitVec 4 → BitVec 4 → Instr) × VmForm) :=
  [(.vst, .unit), (.vsts, .strided), (.vstx, .indexed), (.vstl, .lane)]

/-- The index group that a form reads. -/
def indexGroup (s : State) (f : VmForm) (b : BitVec 5) : List (Nat × Nat) :=
  if f = .indexed ∨ f = .lane then [(b.toNat, s.lmul)] else []

/-- j of a lane-sliced element and the offset it names, in 64-bit wrapping arithmetic (R129, R135). -/
def laneIndex (s : State) (a b : BitVec 5) (e : Nat) : Nat := ((s.reg a).toNat % 2 ^ 17 / s.lanes + s.elem b.toNat e s.sew) % 2 ^ 64
def laneOffset (s : State) (a b : BitVec 5) (e : Nat) : Nat :=
  (laneIndex s a b e / 64 * 64 * s.lanes + 64 * (e / 64 % s.lanes) + laneIndex s a b e % 64) % 2 ^ 64

/-- The address of element `e` of `n` bytes (R129, R135). -/
def vecAddr (s : State) (f : VmForm) (a b : BitVec 5) (n e : Nat) : Word :=
  match f with
  | .strided => s.reg a + BitVec.ofNat 64 e * s.reg b
  | .indexed => s.reg a + BitVec.ofNat 64 (s.elem b.toNat e s.sew)
  | .lane => s.reg a - BitVec.ofNat 64 ((s.reg a).toNat % 2 ^ 17) + BitVec.ofNat 64 (laneOffset s a b e)
  | _ => s.reg a + s.reg b + BitVec.ofNat 64 (n * e)

/-- Element `e` lies in the thread's window, aligned to its size, and for a lane-sliced form R135's conditions hold. -/
def Placed (s : State) (f : VmForm) (a b : BitVec 5) (n e : Nat) : Prop :=
  (vecAddr s f a b n e).toNat % n = 0 ∧ InWindow s (vecAddr s f a b n e) n ∧
  (f = .lane → (s.reg a).toNat % 2 ^ 17 % (64 * s.lanes) = 0 ∧ laneIndex s a b e % n = 0 ∧ laneOffset s a b e < 2 ^ 17)

/-- Element `e` is one that a vector word with mask k works on. -/
def Acts (s : State) (k : BitVec 3) (e : Nat) : Prop := s.vstart ≤ e ∧ e < s.vl ∧ s.th.active k.toNat e = true

/-- The place of a scratchpad address in the byte store of all scratchpads. -/
def place (s : State) (va : Word) : Nat := s.th.core * 131072 + va.toNat % 2 ^ 17

/-- The scratchpad doubleword of an address is not damaged. -/
def Sound (s : State) (va : Word) : Prop := s.damage.contains (.scratch s.th.core (va.toNat % 2 ^ 17 / 8)) = false

/-- `n` bytes from an address up, as a number, lowest byte first. -/
def scratchNat (s : State) (va : Word) : Nat → Nat
  | 0 => 0
  | n + 1 => (scratchByte s va).toNat + 256 * scratchNat s (va + 1) n

/-- What a vector store leaves apart from the scratchpad's bytes: the flags of its conversions, and repaired doublewords. -/
def OnlyStored (s t : State) : Prop :=
  t = { s with
    th := { s.th with csr := { s.th.csr with fflags := t.th.csr.fflags } }
    scratch := t.scratch
    damage := t.damage
    cv := { s.cv with kept := t.cv.kept } } ∧
  ∀ x ∈ t.damage, x ∈ s.damage

/-- The formats whose elements are not whole bytes: 4-bit integers, FP6, and blocked FP4 (fmt 11). -/
def subByte (f : BitVec 4) : Prop := f ∈ [5#4, 6#4, 9#4, 10#4, 11#4]

/-- Bit `j` of element `e` of a bit string with offset `o` (R100): the address of its byte, and its place there. -/
def stringByte (base : Word) (n o e j : Nat) : Word := base + BitVec.ofNat 64 ((n * e + o + j) / 8)
def stringBit (n o e j : Nat) : Nat := (n * e + o + j) % 8

/-- Nibble byte and scale byte of a blocked element (R102). -/
def nibbleByte (base : Word) (e : Nat) : Word := base + BitVec.ofNat 64 (5 * (e / 8) + e % 8 / 2)
def scaleByte (base : Word) (e : Nat) : Word := base + BitVec.ofNat 64 (5 * (e / 8) + 4)

/-- The memory code `x` and the block scale `sc` of element `e` of a sub-byte array in the window (R100, R102, R103). -/
def Encoded (s : State) (base : Word) (f : BitVec 4) (o e x sc : Nat) : Prop :=
  let n := fmtBits f.toNat 16
  x < 2 ^ n ∧
  (f ≠ 11#4 → sc = 0 ∧ ∀ j, j < n → InWindow s (stringByte base n o e j) 1 ∧ Sound s (stringByte base n o e j) ∧
    x.testBit j = (scratchByte s (stringByte base n o e j)).getLsbD (stringBit n o e j)) ∧
  (f = 11#4 → InWindow s (nibbleByte base e) 1 ∧ Sound s (nibbleByte base e) ∧ InWindow s (scaleByte base e) 1 ∧ Sound s (scaleByte base e) ∧
    x = (scratchByte s (nibbleByte base e)).toNat / 16 ^ (e % 2) % 16 ∧ sc = (scratchByte s (scaleByte base e)).toNat)

end Sys2Proof.Claims

namespace Sys2Proof.Claims

open Sys2Proof Sys2Proof.Machine

/-- A record of `n` bytes that stands, sound, in the thread's scratchpad window at an address. -/
def Recorded (s : State) (va : Word) (n : Nat) (x : BitVec w) : Prop :=
  InWindow s va n ∧ (∀ i, i < n → x.extractLsb' (8 * i) 8 = scratchByte s (va + BitVec.ofNat 64 i) ∧ Sound s (va + BitVec.ofNat 64 i))

/-- Only the stream bindings differ, and the binding of every register but v is as before. -/
def OnlyBinding (s t : State) (v : BitVec 5) : Prop :=
  (∀ r, r ≠ v.toNat → t.th.bind r = s.th.bind r) ∧
  t = { s with th := { s.th with binds := t.th.binds }, cv := { s.cv with kept := t.cv.kept } }

/-- Nothing but the accumulators and their configurations differs. -/
def OnlyAccs (s t : State) : Prop := t = { s with th := { s.th with accs := t.th.accs, accCfg := t.th.accCfg } }

/-- Accumulator `j` belongs to a span that shares an accumulator with [x, x + n). -/
def SpanHits (s : State) (x n j : Nat) : Prop := s.th.spanHead j < x + n ∧ x < s.th.spanHead j + cfgSpan (s.th.cfg j)

/-- A word of the diagonal engine may act on accumulator x: it is allocated, the head of its span, and keeps R190's limits. -/
structure Spanned (s : State) (x : BitVec 3) : Prop where
  alloc : x.toNat < s.th.naccs
  head : x.toNat % cfgSpan (s.th.cfg x.toNat) = 0
  within : x.toNat + cfgSpan (s.th.cfg x.toNat) ≤ 8
  legal : cfgOk (s.th.cfg x.toNat) = true

/-- Engine cycles of an accumulating word: n³ products of a tile at 2,048 or 512 a cycle, else a cycle for each 512 rows at SEW 32 and one
in all at SEW 16 (R209). -/
def engineCycles (w : DiagWord) : Nat :=
  if w.fn = 5 then cfgN w.cfg ^ 3 / (if w.sew = 16 then 2048 else 512) else if w.sew = 16 then 1 else (cfgL w.cfg + 511) / 512

/-- The convoy took an accumulating word: it joins those that the engine accepts, its core is charged its cycles in the window that runs
(R210), and its sources count as read whole. -/
def Accepted (s t : State) (w : DiagWord) : Prop :=
  t.cv.diags = w :: s.cv.diags ∧
  (let c := s.govern s.th.core
   t.coreRec s.th.core = { c with charge := c.charge + engineCycles w, issued := true }) ∧
  (∀ k, k ≠ s.th.core → t.coreRec k = s.coreRec k) ∧
  t = { s with cores := t.cores, cv := { s.cv with diags := t.cv.diags, whole := t.cv.whole, wholeK := t.cv.wholeK } }

/-- The rows of a register group. -/
def rowsOf (s : State) (r : BitVec 5) (n : Nat) : List (BitVec 32768) := (List.range n).map (fun i => vget s.th.vregs (r.toNat + i) 0)

/-- Field of an operand register of an accumulating word. -/
def opField (x : Word) (lo n : Nat) : Nat := x.toNat / 2 ^ lo % 2 ^ n

end Sys2Proof.Claims

namespace Sys2Proof.Claims

open Sys2Proof Sys2Proof.Machine

/-! ## Trees and the caddy -/

/-- A TREE word may act on its thread's tree register: it is the convoy's first TREE word and names the thread's own slot (R217,
R220). -/
def TreeReady (s : State) (t : BitVec 5) : Prop := Settled s ∧ s.cv.trees.1 = 0 ∧ t.toNat = s.th.slot

/-- A changing TREE word: it acts only in a convoy that issued with vstart 0, and nothing but the tree and one scalar register
differs (R220). -/
def OnlyTree (s t : State) : Prop :=
  t = { s with
    th := { s.th with tree := t.th.tree, regs := t.th.regs }
    cv := { s.cv with kept := t.cv.kept, trees := (1, true), whole := t.cv.whole } }

/-- `p` is the path of node `i`: it ends at `i`, each member's parent is the one before it, and the first one's is the root (R218). -/
def IsPath (t : Tree) (i : Nat) (p : List Nat) : Prop :=
  p.getLast? = some i ∧ ∀ j a, p[j]? = some a → (t.nodes[a]?).bind (·.parent) = if j = 0 then none else p[j - 1]?

/-- The parent index that element `e` of a TTADD names, and whether TTADD takes it with `n` nodes before the word (R221). -/
def addedParent (s : State) (b : BitVec 5) (e : Nat) : Int := signedOf s.sew (s.elem b.toNat e s.sew)
def addable (s : State) (b : BitVec 5) (n e : Nat) : Prop :=
  n + e < 64 ∧ (addedParent s b e = -1 ∨ (0 ≤ addedParent s b e ∧ addedParent s b e < (n + e : Nat)))

/-- A vector result that does not depend on vstart: elements below vl, the tail, and the frame (R225). -/
def TreeVector (s t : State) (d : BitVec 5) (f : Nat → Nat) : Prop :=
  (∀ e, e < s.vl → t.elem d.toNat e s.sew = f e % 2 ^ s.sew) ∧
  (∀ e, s.vl ≤ e → e < s.perReg s.sew * s.lmul →
    t.elem d.toNat e s.sew = if s.ta && s.vl != 0 then 2 ^ s.sew - 1 else s.elem d.toNat e s.sew) ∧
  (∀ r, r < d.toNat ∨ d.toNat + s.lmul ≤ r → vget t.th.vregs r 0 = vget s.th.vregs r 0) ∧
  t = { s with th := { s.th with vregs := t.th.vregs }, cv := { s.cv with trees := (1, s.cv.trees.2), marks := t.cv.marks } }

/-- Only a die's caddy differs, and the other dies are as before. -/
def OnlyCaddy (s t : State) (d : Nat) : Prop :=
  (∀ e, e ≠ d → t.die e = s.die e) ∧ t.die d = { s.die d with caddy := (t.die d).caddy } ∧
  t = { s with dies := t.dies, cv := { s.cv with kept := t.cv.kept } }

end Sys2Proof.Claims

namespace Sys2Proof.Claims

open Sys2Proof Sys2Proof.Machine

/-! ## Atomics, fences, synchronisation -/

/-- The thread's pin for a scope index agrees with the entry's serial (R291). -/
def Fresh (s : State) (sc : BitVec 4) : Prop := s.th.pin sc.toNat = (s.scopeOf s.th sc.toNat).serial

/-- The state after the release side that order bits ask for and the releases that earlier fences have made of an atomic's store (R30,
R259, R268), and after the acquire side (R269). -/
def released (s : State) (sc : BitVec 4) (rel : Bool) (va : Word) (kind : Nat) : State :=
  s.releaseFor (if rel then some sc.toNat else none) va kind s.cv.vstart0
def acquired (s : State) (sc : BitVec 4) (acq : Bool) : State := if acq then s.acquire sc.toNat else s

/-- The place of an atomic access of `n` bytes is sound and in the thread's window. -/
def AtomicPlaced (s : State) (va : Word) (n : Nat) : Prop := va.toNat % n = 0 ∧ InWindow s va n ∧ Sound s va

/-- AMO words and the value they store, from the width in bits, the old value, x and the comparand (R295); AMOCAS with an unequal
comparand stores nothing, which leaves the old value. -/
def amoWords : List ((BitVec 5 → BitVec 5 → BitVec 5 → BitVec 4 → BitVec 2 → BitVec 1 → Instr) × (Nat → Nat → Nat → Nat → Nat)) :=
  [(.amoadd, fun n m x _ => (m + x) % 2 ^ n), (.amomin, fun n m x _ => if signedOf n m ≤ signedOf n x then m else x),
   (.amomax, fun n m x _ => if signedOf n m ≤ signedOf n x then x else m), (.amominu, fun _ m x _ => min m x),
   (.amomaxu, fun _ m x _ => max m x), (.amoand, fun _ m x _ => m &&& x), (.amoor, fun _ m x _ => m ||| x),
   (.amoxor, fun _ m x _ => m ^^^ x), (.amoswp, fun _ _ x _ => x), (.amocas, fun _ m x c => if m = c then x else m)]

/-- The scratchpad holds `v` in the `n` bytes at an address, and every other byte as before. -/
def Stored (s t : State) (va : Word) (n v : Nat) : Prop :=
  scratchNat t va n = v ∧ ∀ y, y < place s va ∨ place s va + n ≤ y → cellsRead t.scratch y = cellsRead s.scratch y

/-- A value of `n` bytes sign-extended. -/
def sextBytes (n v : Nat) : Word := if n = 8 then BitVec.ofNat 64 v else (BitVec.ofNat 32 v).signExtend 64

/-- Fetch-and-operate VAMO words: their SEWs, and the new value with its flags (R299). -/
def vamoWords : List ((BitVec 5 → BitVec 5 → BitVec 5 → BitVec 3 → BitVec 4 → Instr) × List Nat × Bool × (Nat → Nat → Nat → Nat × BitVec 6)) :=
  [(.vamoadd, [32, 64], false, fun n m x => ((m + x) % 2 ^ n, 0)),
   (.vamomin, [32, 64], false, fun n m x => (if signedOf n m ≤ signedOf n x then m else x, 0)),
   (.vamomax, [32, 64], false, fun n m x => (if signedOf n m ≤ signedOf n x then x else m, 0)),
   (.vamofadd, [32], true, fun _ m x => fpAdd fmtF32 0 m x)]

/-- The elements that a vector atomic works on, in order. -/
def actors (s : State) (k : BitVec 3) : List Nat := (span s.vstart s.vl).filter (fun e => s.th.active k.toNat e)

/-- The value that element `e` of a vector atomic finds: the scratchpad's, after the lower elements at the same address. -/
def found (s : State) (k : BitVec 3) (x : Nat → Word) (n : Nat) (op : Nat → Nat → Nat) (e : Nat) : Nat :=
  ((actors s k).filter (fun i => decide (i < e) && x i == x e)).foldl op (scratchNat s (x e) n)

/-- The clusters of a release or acquire at a scope (R267). -/
def Summary (s : State) (sc : BitVec 4) (x : Sector) : Prop := s.inSummary s.th sc.toNat x.cluster = true

/-- The written bits of the sectors that `p` selects have reached their homes, and no other bit of memory differs. Two sectors
that wrote one bit with different values leave either. -/
def Homed (s t : State) (p : Sector → Prop) : Prop :=
  (∀ x ∈ s.sectors, p x → ∀ i, i < 256 → x.written.getLsbD i = true →
    (∀ y ∈ s.sectors, p y → y.addr = x.addr → y.written.getLsbD i = true → y.data.getLsbD i = x.data.getLsbD i) →
    (cellsRead t.mem (x.addr * 32 + i / 8)).getLsbD (i % 8) = x.data.getLsbD i) ∧
  (∀ a q, q < 8 → (∀ x ∈ s.sectors, p x → x.addr = a / 32 → x.written.getLsbD (a % 32 * 8 + q) = false) →
    (cellsRead t.mem a).getLsbD q = (cellsRead s.mem a).getLsbD q)

/-- A dirty sector can be cleaned: it is sound, its home is sound and within reach, and no copy of its line is damaged (R415 to R417). -/
def CleanableSector (s : State) (x : Sector) : Prop :=
  s.damage.contains (.sector x.cluster x.addr) = false ∧ s.lineBad (x.addr * 32) = false ∧ ∀ d, Damage.l2 d (x.addr / 4) ∉ s.damage

/-- The cleaning of a release can be done. -/
def Cleanable (s : State) (sc : BitVec 4) : Prop := ∀ x ∈ s.sectors, Summary s sc x → x.written ≠ 0 → CleanableSector s x

/-- What own-reads at homes touch beside memory: sectors, the coherence records, storage that they correct, and what the loss of a damaged
copy that gives way tells (R249, R250, R414, R416). -/
def OnlyHomes (s t : State) : Prop :=
  (∀ z ∈ t.damage, z ∈ s.damage) ∧
  t = { s with
    th := { s.th with relStores := t.th.relStores }
    mem := t.mem, sectors := t.sectors, metas := t.metas, copies := t.copies, dies := t.dies, damage := t.damage
    bbFlash := t.bbFlash, replies := t.replies }

/-- What cleaning the sectors that `p` selects does to them: a dirty one becomes a clean copy of its home, whole with the home's bytes
where no other dirty one of them lies at the address; every other sector stays (R268). -/
def CleanCopies (s t : State) (p : Sector → Prop) : Prop :=
  Homed s t p ∧
  (∀ x ∈ s.sectors, ¬ p x → x ∈ t.sectors) ∧
  (∀ x ∈ s.sectors, p x → x.written = 0 →
    (∀ z ∈ s.sectors, z.written ≠ 0 → z.cluster ≠ x.cluster ∨ z.addr ≠ x.addr) → x ∈ t.sectors) ∧
  (∀ x ∈ s.sectors, p x → x.written ≠ 0 → ∃ y ∈ t.sectors, y.cluster = x.cluster ∧ y.addr = x.addr ∧ y.filled = true ∧
    ((∀ z ∈ s.sectors, p z → z.written ≠ 0 → z.addr = x.addr → z = x) → y.data = BitVec.ofNat 256 (t.homeRead (x.addr * 32) 32))) ∧
  (∀ y ∈ t.sectors, (¬ p y → y ∈ s.sectors) ∧ (p y → y.written = 0 ∧
    (y ∈ s.sectors ∨ ∃ x ∈ s.sectors, x.written ≠ 0 ∧ x.cluster = y.cluster ∧ x.addr = y.addr)))

/-- A release's effect on caches and homes (R268). -/
def Cleaned (s t : State) (sc : BitVec 4) : Prop := CleanCopies s t (Summary s sc) ∧ OnlyHomes s t

/-- A clean sector of the clusters stands at the same place. -/
def CleanAt (s : State) (sc : BitVec 4) (x : Sector) : Prop :=
  ∃ z ∈ s.sectors, Summary s sc z ∧ z.written = 0 ∧ z.cluster = x.cluster ∧ z.addr = x.addr

/-- An acquire's effect: clean sectors go, of dirty ones only the written bits stay (R269). -/
def Discarded (s t : State) (sc : BitVec 4) : Prop :=
  (∀ y, y ∈ t.sectors ↔ ∃ x ∈ s.sectors, ¬ CleanAt s sc x ∧
    ((Summary s sc x ∧ y = { x with filled := false }) ∨ (¬ Summary s sc x ∧ y = x))) ∧
  (∀ z, z ∈ t.damage ↔ z ∈ s.damage ∧ ∀ x ∈ s.sectors, Summary s sc x → x.written = 0 → z ≠ .sector x.cluster x.addr) ∧
  t = { s with sectors := t.sectors, damage := t.damage, ro := t.ro }

end Sys2Proof.Claims

namespace Sys2Proof.Claims

open Sys2Proof Sys2Proof.Machine

/-- An illegal instruction with sub-code 7 (R64). -/
def Illegal7 (s : State) (i : Instr) : Prop :=
  ∃ t, exec i s = .next t ∧ Faulted s t 0x01 s.cv.vstart0 (s.cv.raw.zeroExtend 64 + 7#64 * BitVec.ofNat 64 (2 ^ 32))

/-- A semaphore word may act: its number lies in the context's range (R312). -/
def SemReady (s : State) (a : BitVec 5) (sc : BitVec 4) : Prop := Settled s ∧ Fresh s sc ∧ s.ctxHasSem s.th.ctx (s.reg a).toNat = true

/-- A semaphore word left a semaphore in a state, the others as before, and otherwise what its release or acquire left. -/
def SemDone (s u t : State) (k : Nat) (x : Sem) : Prop :=
  t.sem k = x ∧ (∀ j, j ≠ k → t.sem j = s.sem j) ∧ t = { u with th := { u.th with regs := t.th.regs }, sems := t.sems }

/-- The count that S[b] asks for: its low 32 bits, 1 where they are 0 (R313). -/
def asked (v : Word) : BitVec 32 := if v.setWidth 32 = 0#32 then 1#32 else v.setWidth 32

/-- The chain cell after PUBHW of y (R315): the error cell stays; else the greater index, final if either is. -/
def published (old y : Nat) : Nat :=
  if old = 2 ^ 64 - 1 then old else max (old % 2 ^ 63) (y % 2 ^ 63) + (if 2 ^ 63 ≤ old ∨ 2 ^ 63 ≤ y then 2 ^ 63 else 0)

end Sys2Proof.Claims

namespace Sys2Proof.Claims

open Sys2Proof Sys2Proof.Machine

/-! ## Engines, tasks and the system words -/

/-- The convoy took a command for a queue: it is handed over at retirement, its token awaited in register d (R341). -/
def Queued (s t : State) (d : BitVec 5) (q : Nat) (kind : CmdKind) : Prop :=
  t.cv.cmds = s.cv.cmds ++ [⟨q, kind, s.th.uid, s.nextUid, s.th.ctx, s.th.core, s.th.winBase, s.th.winSize, none, 0, 0, 0, false,
    false, [], [], none⟩] ∧
  t.cv.tokenRegs = (if d = 0#5 then s.cv.tokenRegs else (d.toNat, s.nextUid) :: s.cv.tokenRegs) ∧
  t = { s with nextUid := s.nextUid + 1, cv := { s.cv with cmds := t.cv.cmds, tokenRegs := t.cv.tokenRegs } }

/-- Commands that a queue holds, with those of this convoy and of convoys that are held at a waiting word (log 2). -/
def inQueue (s : State) (q : Nat) : Nat :=
  (s.queues.filter (fun c => c.queue == q)).length + s.heldCmds q s.th.uid s.cv.addr + (s.cv.cmds.filter (fun c => c.queue == q)).length

/-- The queue is the context's (R340). -/
def Owns (s : State) (q : Nat) : Prop := s.ctxHasQueue s.th.ctx q = true

/-- A range of a command is empty, lies outside the scratchpads, or lies in the thread's window (R345). -/
def RangeOk (s : State) (va : Word) (n : Nat) : Prop := n = 0 ∨ isScratchAddr va = false ∨ InWindow s va n

/-- A word of a command with its queue and kind: queued where there is room, waiting where the queue is full, a protection fault
where the queue is not the context's. -/
def Commands (s : State) (i : Instr) (d : BitVec 5) (q : Nat) (kind : CmdKind) : Prop :=
  (Owns s q → inQueue s q < (if q < 32 then 64 else 16) → ∃ t, exec i s = .next t ∧ Queued s t d q kind) ∧
  (Owns s q → (if q < 32 then 64 else 16) ≤ inQueue s q → 
    exec i s = .next { s with cv := { s.cv with wait := some (.queue q ((s.cv.cmds.filter (fun c => c.queue == q)).length), .nothing) } }) ∧
  (¬ Owns s q → ∃ t, exec i s = .next t ∧ Faulted s t 0x06 s.cv.vstart0 (BitVec.ofNat 64 (q + 2 ^ 59)))

/-- The thread's own cluster cache can be cleaned (R416, R417). -/
def OwnCleanable (s : State) : Prop :=
  ∀ x ∈ s.sectors, x.cluster = clusterOf s.th.core → x.written ≠ 0 → CleanableSector s x

/-- The token value of an error (R323, R342). -/
def failed (reason : Nat) : Word := BitVec.ofNat 64 (2 ^ 63 + 2 ^ 62 + reason)

/-- Every thread that `p` selects is changed by `f`, and nothing but threads differs. -/
def Mapped (s t : State) (p : Thread → Bool) (f : Thread → Thread) : Prop :=
  t.threads = s.threads.map (fun x => if p x then f x else x) ∧ t = { s with th := t.th, others := t.others }

/-- Flat element `y` of the span at `head` (R189). -/
def flatAt (t : Thread) (head y : Nat) : Nat := ((vget t.accs (head + y / 2048) 0).extractLsb' (y % 2048 * 32) 32).toNat

end Sys2Proof.Claims

namespace Sys2Proof.Claims

open Sys2Proof Sys2Proof.Machine

/-! ## Urns, schedulers, device registers and the boundary -/

/-- The host queue of a number. -/
def hostQueue (s : State) (n : Nat) : Option HostQueue := s.hostQs.find? (fun q => q.num == n)

/-- A new thread that begins at an entry with an argument in s1, for a gang of a launch. -/
def Begins (l : Launch) (gang : Nat) (entry arg : Word) (x : Thread) : Prop :=
  x.pc = entry ∧ x.reg 1 = arg ∧ x.ctx = l.ctx ∧ x.launch = l.id ∧ x.gang = gang ∧ x.run = .ready ∧ x.priv.privileged = false ∧ x.parked = false

/-- The gangs of a launch with `f` applied to those of a number. -/
def gangsWith (l : Launch) (num : Nat) (f : Gang → Gang) : List Gang := l.gangs.map (fun x => if x.num = num then f x else x)

/-- Nothing of a context is left: no launch but the record of a token that is owed to a page on the move (R374), no command, no valid
record, and no thread, as long as some thread of the machine is not the context's. -/
def Terminated (s t : State) (slot : Nat) : Prop :=
  (∀ l ∈ t.launches, l.ctx = slot → l.owed ≠ none) ∧ (∀ c ∈ t.queues, c.ctx ≠ slot) ∧ (t.ctxRec slot).getLsbD 16 = false ∧
  ((∃ y ∈ s.threads, ∀ x ∈ s.threads, x.ctx = slot → isControl x.core = false → x.uid ≠ y.uid) →
    ∀ x ∈ t.threads, x.ctx = slot → isControl x.core = true)

end Sys2Proof.Claims

namespace Sys2Proof.Claims

open Sys2Proof Sys2Proof.Machine

/-- A line of this device and an agent of the domain (R247, R249). -/
def HomeRequest (s : State) (line agent : Nat) : Prop := line / 2 ^ 36 = s.ident ∧ line % 2 ^ 36 < 7 * 2 ^ 33 ∧ agent < 36864

/-- Copies are as before but for those that `p` selects. -/
def CopiesBut (s t : State) (p : Nat → Nat → Prop) : Prop := ∀ n b, ¬ p n b → t.hasCopy n b = s.hasCopy n b

/-- The agent has the copy of the line or not, every other copy is as before, and storage may have been corrected. -/
def Copied (s t : State) (line agent : Nat) (has : Bool) : Prop :=
  t.hasCopy line agent = has ∧ CopiesBut s t (fun n b => n = line ∧ b = agent) ∧ ∀ z ∈ t.damage, z ∈ s.damage

/-- The bit of a die of the home device in a line's mask. -/
def dieBit (agent : Nat) : BitVec 8 := 1#8 <<< (agent % 8)

/-- The home cannot read a line: it, or the one copy that is current, is uncorrectable or out of reach (R253, R415 to R417). -/
def ReadBad (s : State) (line : Nat) : Prop := s.lineBad (line * 128) = true ∨ (s.ownLine line = true ∧ s.dirtyBad line = true)

/-- A line of this device stands in its home die's table, where the table had room (R416). -/
def Lost (s t : State) (line : Nat) : Prop :=
  (s.die (homeDie (line * 128 % 2 ^ 43))).lost.length < 1024 → line * 128 ∈ (t.die (homeDie (line * 128 % 2 ^ 43))).lost

/-- A read granted nothing; a line of this device is lost. -/
def Ungranted (s t : State) (line : Nat) : Prop :=
  t.copies = s.copies ∧ t.metas = s.metas ∧ SameMemory s t ∧ (s.ownLine line = true → Lost s t line)

/-- The agent's L2 of 64 MiB has room for a further sector (R243). -/
def RoomFor (s : State) (agent : Nat) : Prop := (s.copies.filter (fun c => c.2 == agent)).length < 2097152

/-- The metadata that a shared read of an agent leaves of what stood before (R250, R252). -/
def SharedMeta (s t : State) (line agent : Nat) (x : Meta) : Prop :=
  let owned := s.hasCopy line x.ptr = true
  (x.coh = .i ∨ ((x.coh = .e ∨ x.coh = .m) ∧ x.ptr ≠ agent ∧ ¬ owned) → t.metaBits line = (⟨.e, agent, 0, 0⟩ : Meta).bits) ∧
  ((x.coh = .e ∨ x.coh = .m ∨ x.coh = .o) → x.ptr = agent → t.metaBits line = x.bits) ∧
  (agent / 8 = s.ident →
    (x.coh = .s ∨ x.coh = .sw ∨ (x.coh = .o ∧ x.ptr ≠ agent ∧ owned) → t.metaBits line = { x with mask := x.mask ||| dieBit agent }.bits) ∧
    (x.coh = .e → x.ptr ≠ agent → owned → x.ptr / 8 = s.ident → t.metaBits line = (⟨.s, 0, 0#8 ||| dieBit x.ptr ||| dieBit agent, 0⟩ : Meta).bits) ∧
    (x.coh = .m → x.ptr ≠ agent → owned → t.metaBits line = (⟨.o, x.ptr, 0#8 ||| dieBit agent, 0⟩ : Meta).bits)) ∧
  (agent / 8 ≠ s.ident → x.coh = .s →
    (x.count = 0 → t.metaBits line = (⟨.s, agent, x.mask, 1⟩ : Meta).bits) ∧
    (x.count ≠ 0 → x.ptr ≠ agent → t.metaBits line = (⟨.sw, 0, x.mask, min 31 (x.count + 1)⟩ : Meta).bits))

/-- A semaphore value that says a port holds it (R380). -/
def HeldForm (v : Word) (port : Bool) : Prop := v.setWidth 32 = (if port then 3#32 else 1#32) ∧ v.extractLsb' 32 32 ≠ 0

/-- The swaps that R381 allows. -/
def SwapAllowed (cur new : Word) (port : Bool) : Prop :=
  (cur = 0 ∧ HeldForm new port) ∨ (cur.getLsbD 0 = true ∧ cur.getLsbD 2 = false ∧ cur.getLsbD 1 = port ∧ (new = 0 ∨ HeldForm new port)) ∨
  (cur.getLsbD 0 = true ∧ cur.getLsbD 2 = true ∧ (new = 0 ∨ HeldForm new port))

/-- A port of the fabric is up or down, and the others are as before. -/
def PortSet (s t : State) (port : Nat) (up : Bool) : Prop :=
  t.fabric.getLsbD port = up ∧ ∀ p, p ≠ port → t.fabric.getLsbD p = s.fabric.getLsbD p

/-- The state with one more answer to a master. -/
def Told (s : State) (r : Reply) : State := { s with replies := s.replies ++ [r] }

/-- The port holds the management semaphore (R380). -/
def Holder (s : State) (port : Bool) : Prop := s.mgmt.getLsbD 0 = true ∧ s.mgmt.getLsbD 1 = port

end Sys2Proof.Claims

namespace Sys2Proof.Claims

open Sys2Proof Sys2Proof.Machine

/-! ## Rounded results -/

/-- The magnitude of a rational. -/
def mag (x : Rat) : Rat := if x < 0 then -x else x

/-- The exponent of a format's smallest normal value (R91). -/
def eminOf (f : Fmt) : Int := 1 - (f.bias : Int)

/-- The value of a code, as R92 writes it. -/
def codeValue (f : Fmt) (c : Nat) : Rat :=
  let e := c / 2 ^ f.man % 2 ^ (f.width - 1 - f.man)
  let m : Rat := ((c % 2 ^ f.man : Nat) : Rat) / 2 ^ f.man
  (if c / 2 ^ (f.width - 1) % 2 = 1 then -1 else 1) *
    (if e = 0 then 2 ^ eminOf f * m else 2 ^ ((e : Int) - f.bias) * (1 + m))

/-- The value of an E3M5 scale code (R91, R92). -/
def scaleCodeValue (c : Nat) : Rat :=
  let m : Rat := ((c % 32 : Nat) : Rat) / 32
  if c / 32 = 0 then 2 ^ (-2 : Int) * m else 2 ^ ((c / 32 : Nat) - 3 : Int) * (1 + m)

/-- A code of a format and its parts: it has the format's width, its sign, its magnitude. -/
def codeSign (f : Fmt) (c : Nat) : Bool := 2 ^ (f.width - 1) ≤ c
def codeMag (f : Fmt) (c : Nat) : Nat := c % 2 ^ (f.width - 1)
def FiniteCode (f : Fmt) (c : Nat) : Prop := c < 2 ^ f.width ∧ codeMag f c ≤ f.maxCode
def withSign (f : Fmt) (neg : Bool) (m : Nat) : Nat := (if neg then 2 ^ (f.width - 1) else 0) + m

/-- A nonzero real rounded with spacing q: R95's pseudocode. -/
def rounded95 (mode : Nat) (q x : Rat) : Rat :=
  let n := (x / q).floor
  let lo := n * q
  let hi := lo + q
  if x = lo then x
  else match mode with
    | 0 => if x - lo < hi - x then lo else if hi - x < x - lo then hi else if n % 2 = 0 then lo else hi
    | 1 => if 0 < x then lo else hi
    | 2 => hi
    | 3 => lo
    | _ => if x - lo < hi - x then lo else if hi - x < x - lo then hi else if 0 < x then hi else lo

/-- The result of an overflow: R96's table. `noInf` says that the result has no infinity to go to. -/
def overflow96 (f : Fmt) (noInf : Bool) (mode : Nat) (neg : Bool) : Nat :=
  let keeps := mode = 1 ∨ (mode = 2 ∧ neg = true) ∨ (mode = 3 ∧ neg = false)
  withSign f neg (match noInf, f.inf with
    | false, some i => if keeps then f.maxCode else i
    | _, _ => f.maxCode)

/-- A code and flags are what R95 and R96 make of the nonzero real x. -/
def RoundsTo (f : Fmt) (noInf : Bool) (mode : Nat) (x : Rat) (r : Nat × BitVec 6) : Prop :=
  x ≠ 0 ∧ ∀ k : Int, 2 ^ k ≤ mag x → mag x < 2 ^ (k + 1) →
    let y := rounded95 mode (2 ^ (max k (eminOf f) - f.man)) x
    let unbounded := rounded95 mode (2 ^ (k - f.man)) x
    (codeValue f f.maxCode < mag y → r = (overflow96 f noInf mode (decide (x < 0)), flagOF ||| flagNX)) ∧
    (mag y ≤ codeValue f f.maxCode →
      FiniteCode f r.1 ∧ codeValue f r.1 = y ∧ codeSign f r.1 = decide (x < 0) ∧
      r.2 = (if mag unbounded < 2 ^ eminOf f ∧ y ≠ x then flagUF else 0) ||| (if y ≠ x then flagNX else 0))

/-- The signed formats of R91, with the largest finite value and the smallest subnormal. -/
def signedFormats : List (Fmt × Rat × Rat) :=
  [(fmtF32, (2 - 2 ^ (-23 : Int)) * 2 ^ 127, 2 ^ (-149 : Int)), (fmtBF16, (2 - 2 ^ (-7 : Int)) * 2 ^ 127, 2 ^ (-133 : Int)),
   (fmtF16, 65504, 2 ^ (-24 : Int)), (fmtE4M3, 448, 2 ^ (-9 : Int)), (fmtE5M2, 57344, 2 ^ (-16 : Int)), (fmtE2M3, 7.5, 0.125),
   (fmtE3M2, 28, 0.0625), (fmtE2M1, 6, 0.5)]

/-- Operations on finite codes of FP32 and BF16 with their exact results (R152, R153). -/
def roundedWords : List ((Fmt → Nat → Nat → Nat → Nat → Nat × BitVec 6) × (Rat → Rat → Rat → Rat)) :=
  [(fun f m a b _ => fpAdd f m a b, fun x y _ => x + y), (fun f m a b _ => fpSub f m a b, fun x y _ => x - y),
   (fun f m a b _ => fpMul f m a b, fun x y _ => x * y), (fun f m a b _ => fpDiv f m a b, fun x y _ => x / y),
   (fun f m a b c => fpFma f m false false a b c, fun x y z => x * y + z), (fun f m a b c => fpFma f m false true a b c, fun x y z => x * y - z),
   (fun f m a b c => fpFma f m true false a b c, fun x y z => -(x * y) + z), (fun f m a b c => fpFma f m true true a b c, fun x y z => -(x * y) - z)]

/-- The memory formats that a load widens and a store narrows as floating point, but for blocked FP4 (R97). -/
def floatFmts : List (Nat × Fmt) := [(7, fmtE4M3), (8, fmtE5M2), (9, fmtE2M3), (10, fmtE3M2), (12, fmtF16), (13, fmtBF16)]

/-- What a floating-point code of memory becomes in a register (R93, R98). -/
def Widens (g h : Fmt) (c r : Nat) : Prop :=
  (codeMag g c ≤ g.maxCode → FiniteCode h r ∧ codeValue h r = codeValue g c ∧ codeSign h r = codeSign g c) ∧
  (g.maxCode < codeMag g c →
    (g.inf = none → FiniteCode h r ∧ codeValue h r = (if codeSign g c then -1 else 1) * codeValue g g.maxCode) ∧
    ∀ i ∈ g.inf, r = (if g.nan = true ∧ i < codeMag g c then h.qnan else withSign h (codeSign g c) (h.inf.getD 0)))

/-- What a register's element becomes in a floating-point format of memory: R99's table. FiniteCode values saturate where the target has no NaN. -/
def Narrows (h g : Fmt) (mode v : Nat) (r : Nat × BitVec 6) : Prop :=
  let sign := codeSign h v
  let m := codeMag h v
  let inf := h.inf.getD 0
  (m = 0 → r = (withSign g sign 0, 0)) ∧
  (0 < m → m ≤ h.maxCode → RoundsTo g (!g.nan) mode (codeValue h v) r) ∧
  (m = inf → r = match g.inf with
    | some i => (withSign g sign i, 0)
    | none => (withSign g sign g.maxCode, flagNV)) ∧
  (inf < m →
    let quiet := m / 2 ^ (h.man - 1) % 2 = 1
    r = if g.nan = true then (g.qnan, if quiet then 0 else flagNV) else (0, flagNV))

/-- The codes and scale of a block of eight elements (R104). -/
def Blocks (h : Fmt) (mode : Nat) (vs : List Nat) (r : List Nat × Nat × BitVec 6) : Prop :=
  let inf := h.inf.getD 0
  let numbers := vs.filter (fun v => decide (codeMag h v ≤ h.maxCode))
  let infinite := vs.any (fun v => codeMag h v == inf)
  let scale := scaleCodeValue r.2.1
  let zero := infinite = false ∧ ∀ v ∈ numbers, codeMag h v = 0
  ∃ fs : List (BitVec 6), fs.length = 8 ∧ r.1.length = 8 ∧ r.2.2 = fs.foldl (· ||| ·) 0 ∧
    (zero → r.2.1 = 0) ∧ (infinite = true → r.2.1 = 255) ∧
    (infinite = false → ¬ zero → r.2.1 ≤ 255 ∧ (r.2.1 = 255 ∨ ∀ v ∈ numbers, mag (codeValue h v) / 6 ≤ scale) ∧
      ∀ c, c < r.2.1 → ∃ v ∈ numbers, scaleCodeValue c < mag (codeValue h v) / 6) ∧
    ∀ i, i < 8 →
      let v := vs.getD i 0
      let one := (r.1.getD i 0, fs.getD i 0)
      (inf < codeMag h v → one = (0, flagNV)) ∧ (codeMag h v = inf → one = (withSign fmtE2M1 (codeSign h v) 7, flagNV)) ∧
      (codeMag h v = 0 → one = (if zero then 0 else withSign fmtE2M1 (codeSign h v) 0, 0)) ∧
      (0 < codeMag h v → codeMag h v ≤ h.maxCode → RoundsTo fmtE2M1 true mode (codeValue h v / scale) one)

end Sys2Proof.Claims

namespace Sys2Proof.Claims

open Sys2Proof Sys2Proof.Machine

/-! ## Streams, translated elements, marks and faults -/

/-- Index j of a position, dimension 0 the fastest, and the element's address in an AFFINE stream of a byte format (R139). -/
def affineIndex (d : BitVec 512) (p j : Nat) : Nat := p / ((List.range j).map (descCount d)).prod % descCount d j
def affineAddr (d : BitVec 512) (p : Nat) : Word :=
  (List.range (descDims d)).foldl (fun a j => a + BitVec.ofNat 64 (affineIndex d p j) * descStride d j) (descBase d)

/-- Bytes of an element of a stream at the SEW. -/
def chunkBytes (s : State) (b : Binding) : Nat := fmtBits (descFmt b.desc) s.sew / 8

/-- Positions that a word consumes or emits (R142). -/
def chunkSize (s : State) (b : Binding) : Nat := min (s.vl - s.vstart) (streamTotal b.desc b.shape - b.pos)

/-- The one stream of the thread is an AFFINE one of a byte format that suits the SEW, with nothing fetched ahead. -/
structure OneStream (s : State) (b : Binding) : Prop where
  only : s.th.binds = [b]
  affine : descKind b.desc = 0
  bytes : byteFmt (descFmt b.desc) = true
  suits : fmtLegal (descFmt b.desc) s.sew = true
  ahead : b.ahead = []

/-- The element at a position lies in the thread's window, aligned. -/
def ChunkPlaced (s : State) (b : Binding) (p : Nat) : Prop :=
  (affineAddr b.desc p).toNat % chunkBytes s b = 0 ∧ InWindow s (affineAddr b.desc p) (chunkBytes s b)

/-- The state without its streams. -/
def unboundOf (s : State) : State := { s with th := { s.th with binds := [] } }

/-- A binding after n positions of it. -/
def movedBy (b : Binding) (n : Nat) : Binding := if n = 0 then b else { b with pos := b.pos + n, fresh := false }

/-- Two groups of LMUL registers are one or share no register. -/
def ApartOrSame (s : State) (r v : Nat) : Prop := r = v ∨ r + s.lmul ≤ v ∨ v + s.lmul ≤ r

/-- What consuming `n` positions leaves before the word's own effect: the chunk in the bound group, the rest of it under TA, and the binding
moved (R142). -/
structure Consumed (s m : State) (b : Binding) (n : Nat) : Prop where
  chunk : ∀ i, i < n → m.elem b.reg (s.vstart + i) s.sew =
    widenElem (descFmt b.desc) s.sew (scratchNat s (affineAddr b.desc (b.pos + i)) (chunkBytes s b)) 0
  rest : ∀ e, s.vstart + n ≤ e → e < s.vl → m.elem b.reg e s.sew = if s.ta then 2 ^ s.sew - 1 else s.elem b.reg e s.sew
  apart : ∀ e, e < s.perReg s.sew * s.lmul → e < s.vstart ∨ s.vl ≤ e → m.elem b.reg e s.sew = s.elem b.reg e s.sew
  others : ∀ r, r < b.reg ∨ b.reg + s.lmul ≤ r → vget m.th.vregs r 0 = vget s.th.vregs r 0
  only : m = { s with th := { s.th with vregs := m.th.vregs, binds := [movedBy b n] }, cv := { s.cv with kept := m.cv.kept, marks := m.cv.marks } }

/-- One element of a vector word, at vstart, which is active. -/
def OneElement (s : State) (k : BitVec 3) : Prop := s.vl = s.vstart + 1 ∧ s.th.active k.toNat s.vstart = true

/-- An element that a vector word of mask k wrote: active, or inactive under MA, or of the tail under TA (R119). -/
def WroteElem (s : State) (k : BitVec 3) (e : Nat) : Prop :=
  (s.vstart ≤ e ∧ e < s.vl ∧ (s.th.active k.toNat e = true ∨ s.ma = true)) ∨ (max s.vl s.vstart ≤ e ∧ s.ta = true ∧ s.vl ≠ 0)

/-- The convoy of the current thread retires with nothing but its register marks to apply. -/
structure Retires (s : State) : Prop where
  settled : Settled s
  diags : s.cv.diags = []
  cmds : s.cv.cmds = []
  maxlane : s.cv.maxlane = none
  plain : s.cv.trap = none ∧ s.cv.halt = false ∧ s.cv.yield = false

/-- The state that a faulting convoy leaves for its exception: vectors, masks, flags and the scratchpad as far as its elements stand, the
saved vstart, and the thread's own waiting, all else as before the convoy (R396). -/
def Unwound (s0 m : State) (e : Nat) : Prop :=
  m.th.csr = { s0.th.csr with vstart := BitVec.ofNat 15 e, fflags := m.th.csr.fflags } ∧
  m = { s0 with
    th := { s0.th with
      vregs := m.th.vregs, masks := m.th.masks, csr := m.th.csr, wait := .none, govHeld := false, passed := 0, curPrio := s0.th.prio
      needs := m.th.needs, held := m.th.held, carried := m.th.carried }
    cores := m.cores, scratch := m.scratch, damage := m.damage, free := m.free, woken := m.woken, cv := m.cv }

/-- The convoy ends in an exception for the fault f, taken from m. -/
def EndsIn (s0 u m : State) (f : FaultRec) : Prop :=
  ∀ old words, s0.endConvoy u old words = { m.takeTrap u.cv.addr f with cv := Convoy.empty }

/-- Earlier words of the convoy have written scalar registers and nothing else, and no fault stands yet. -/
structure After (s0 s : State) : Prop where
  regs : s = { s0 with th := { s0.th with regs := s.th.regs }, cv := s.cv }
  begun : s.cv.vstart0 = s0.vstart
  noted : s.cv.kept = [] ∧ s.cv.marks = [] ∧ s.cv.noting = true ∧ s.cv.noteAt = none

/-- Element `e` of a vector load or store in the window is the first that faults, for its alignment or as it leaves the window (R133). -/
def StopsFirst (s : State) (f : VmForm) (a b : BitVec 5) (k : BitVec 3) (n e cause : Nat) : Prop :=
  s.vstart < e ∧ Acts s k e ∧ f ≠ .lane ∧ (∀ i, Acts s k i → i < e → Placed s f a b n i ∧ Sound s (vecAddr s f a b n i)) ∧
  (((vecAddr s f a b n e).toNat % n ≠ 0 ∧ cause = 0x03) ∨
    ((vecAddr s f a b n e).toNat % n = 0 ∧ isScratchAddr (vecAddr s f a b n e) = true ∧ ¬ InWindow s (vecAddr s f a b n e) n ∧ cause = 0x06))

end Sys2Proof.Claims

namespace Sys2Proof.Claims

open Sys2Proof Sys2Proof.Machine

/-! ## Steps, decoding, reset -/

/-- The state in which the core of the current thread selects: with several threads that may be ready, those that must wait have been
found (R331). -/
noncomputable def seen (s : State) : State := s.scout s.th.core

/-- The convoy that the next step runs: with nothing on the agenda, the current thread's core selects a thread, and its fetched convoy
is the word w, which decodes to i, and three NOPs; s1 is the state after selection, clock and fetch. No convoy is held, no token
outstanding, and the word may run in its mode and under the governor. -/
structure Fetched (s s1 : State) (w : BitVec 32) (i : Instr) : Prop where
  quiet : s.agenda = []
  selected : ∃ x data, (seen s).pick (seen s).th.core = some x ∧ (((seen s).select x).tick).fetch = (.convoy data, s1) ∧
    convoyWord data 0 = w ∧ ∀ n, 1 ≤ n → n < 4 → convoyWord data n = nopWord
  decodes : decodeWord w = .ok i
  some_word : w ≠ nopWord
  free : s1.th.held = none ∧ s1.th.carried = [] ∧ s1.th.tokens = [] ∧ s1.th.landed = []
  mode : (traits i).privileged = true → s1.privileged = true
  governor : (traits i).accumulating = true → s1.admits s1.th.core = true

/-- No register of the current thread holds an uncorrectable word (R417). -/
def SoundRegs (s : State) : Prop := ∀ c n k, Damage.reg s.th.uid c n k ∉ s.damage

/-- The convoy record with which the word of such a convoy executes. -/
def opened (s : State) (w : BitVec 32) (i : Instr) : Convoy :=
  { Convoy.empty with
    addr := s.th.pc, cycle := (s.die (dieOf s.th.core)).cycle, vstart0 := s.th.csr.vstart.toNat, raw := w,
    trees := (0, (traits i).changing), noting := (traits i).elementWise }

/-- The words of a convoy of one word and three NOPs. -/
def lonelyWords (w : BitVec 32) : List (Nat × BitVec 32) := [(0, w), (1, nopWord), (2, nopWord), (3, nopWord)]

end Sys2Proof.Claims

open Sys2Proof Sys2Proof.Machine Sys2Proof.Claims

/-- R65 to R71: the scalar registers, of which s0 reads zero and discards writes, and the integer words: the two-source words of major
0x01, the bit counts, of which leading and trailing zeros are 64 for a zero register, and the immediate words, whose immediate is
sign-extended for the logical forms as well. -/
def Obligations.IntegerArithmetic : Prop :=
  (∀ (t : Thread) (d r : Nat) (v : Word), d < 32 → r < 32 →
    t.reg 0 = 0#64 ∧ t.setReg 0 v = t ∧
    (d ≠ 0 → (t.setReg d v).reg d = v) ∧ (r ≠ d → (t.setReg d v).reg r = t.reg r) ∧
    t.setReg d v = { t with regs := (t.setReg d v).regs }) ∧
  (∀ w ∈ integerWords, ∀ (s : State) (d a b : BitVec 5), Completes s (w.1 d a b) d (w.2 (s.reg a) (s.reg b))) ∧
  (∀ (s : State) (d a : BitVec 5),
    Completes s (.popc d a) d (BitVec.ofNat 64 ((List.range 64).filter (fun i => (s.reg a).getLsbD i)).length) ∧
    (∃ n, n ≤ 64 ∧ Completes s (.clz d a) d (BitVec.ofNat 64 n) ∧ (∀ i, 64 - n ≤ i → i < 64 → (s.reg a).getLsbD i = false) ∧
      (n < 64 → (s.reg a).getLsbD (63 - n) = true)) ∧
    (∃ n, n ≤ 64 ∧ Completes s (.ctz d a) d (BitVec.ofNat 64 n) ∧ (∀ i, i < n → (s.reg a).getLsbD i = false) ∧
      (n < 64 → (s.reg a).getLsbD n = true))) ∧
  (∀ w ∈ immediateWords, ∀ (s : State) (d a : BitVec 5) (i : BitVec 16), Completes s (w.1 d a i) d (w.2 (s.reg a) (i.signExtend 64))) ∧
  (∀ w ∈ shiftWords, ∀ (s : State) (d a : BitVec 5) (n : BitVec 6), Completes s (w.1 d a n) d (w.2 (s.reg a) n.toNat)) ∧
  (∀ (s : State) (d : BitVec 5) (i : BitVec 21), Completes s (.lui d i) d (i.signExtend 64 * 65536#64)) ∧
  (∀ (s : State) (d : BitVec 5) (i : BitVec 21), Completes s (.lqa d i) d (s.cv.addr + i.signExtend 64 * 16#64))

/-- R79, R80: scalar FP32 words. -/
def Obligations.ScalarFloatWords : Prop :=
  ∀ (s : State) (d a b : BitVec 5),
    let x := (s.reg a).toNat % 2 ^ 32
    let y := (s.reg b).toNat % 2 ^ 32
    let m := s.th.csr.frm.toNat
    let done : Instr → Nat × BitVec 6 → Prop := fun i r =>
      ∃ t, exec i s = .next t ∧ Wrote s t d (BitVec.ofNat 64 r.1) ∧ t.th.csr.fflags = (s.th.csr.fflags ||| r.2) ∧
        OnlyRegsFlags s t ∧ SameMemory s t
    (∀ w ∈ floatWords, done (w.1 d a b) (w.2 m x y)) ∧
    done (.fsqrt d a) (fpSqrt fmtF32 m x) ∧
    done (.fcvtfi d a) (fpOfInt fmtF32 m (s.reg a).toInt) ∧
    done (.fcvtif d a) (fpToInt fmtF32 m 64 x) ∧
    (∀ w ∈ floatTests, done (w.1 d a b) (if (fpRel fmtF32 w.2 x y).1 then 1 else 0, (fpRel fmtF32 w.2 x y).2))

/-- R80: invalid operations, division by zero, comparisons with a NaN, and FMIN and FMAX of zeros and NaNs. That FMIN and FMAX of one signalling NaN answer the other operand is the model's reading (log 19). -/
def Obligations.FloatSpecialOperands : Prop :=
  ∀ (m x y : Nat), m < 5 → x < 2 ^ 32 → y < 2 ^ 32 →
    special (invalidSum x y) x y (fpAdd fmtF32 m x y) ∧
    special (invalidSum x (y ^^^ 2 ^ 31)) x y (fpSub fmtF32 m x y) ∧
    special (invalidProduct x y) x y (fpMul fmtF32 m x y) ∧
    special (invalidQuotient x y) x y (fpDiv fmtF32 m x y) ∧
    (number32 x = true → zero32 y = true → fpDiv fmtF32 m x y = (infOf (neg32 x != neg32 y), flagDZ)) ∧
    fpSqrt fmtF32 m 0x80000000 = (0x80000000, 0) ∧
    (neg32 x = true → zero32 x = false → nan32 x = false → fpSqrt fmtF32 m x = (quiet32, flagNV)) ∧
    ((nan32 x || nan32 y) = true →
      fpRel fmtF32 .eq x y = (false, flagIf (snan32 x || snan32 y) flagNV) ∧
      fpRel fmtF32 .lt x y = (false, flagNV) ∧ fpRel fmtF32 .le x y = (false, flagNV)) ∧
    (∀ g, fpMinMax fmtF32 g 0 0x80000000 = (if g then 0 else 0x80000000, 0) ∧ fpMinMax fmtF32 g 0x80000000 0 = (if g then 0 else 0x80000000, 0)) ∧
    (∀ g, (nan32 x = true → nan32 y = false → fpMinMax fmtF32 g x y = (y, flagIf (snan32 x) flagNV)) ∧
      (nan32 x = false → nan32 y = true → fpMinMax fmtF32 g x y = (x, flagIf (snan32 y) flagNV)) ∧
      (nan32 x = true → nan32 y = true → fpMinMax fmtF32 g x y = (quiet32, flagIf (snan32 x || snan32 y) flagNV)))

/-- R91 to R93, R95, R96, R98, R99, R103, R104, R108: the one rounding procedure, the results of the arithmetic that it rounds, and the
conversions of loads and stores. That a finite value beyond E5M2's range saturates in a store is the model's reading of R99's cell (log 64), and
so is the NV of a NaN in a block of zeros (log 65). -/
def Obligations.RoundedResults : Prop :=
  (∀ g ∈ signedFormats, codeValue g.1 g.1.maxCode = g.2.1 ∧ codeValue g.1 1 = g.2.2) ∧
  (∀ g ∈ signedFormats, ∀ (mode m : Nat) (neg : Bool) (e : Int), mode < 5 →
    (m = 0 → g.1.encode mode (.fin neg m e) = (withSign g.1 neg 0, 0)) ∧
    (m ≠ 0 → RoundsTo g.1 g.1.inf.isNone mode ((if neg then -1 else 1) * m * 2 ^ e) (g.1.encode mode (.fin neg m e)))) ∧
  (∀ f ∈ [fmtF32, fmtBF16], ∀ (mode a b c : Nat), mode < 5 → FiniteCode f a → FiniteCode f b → FiniteCode f c →
    (∀ w ∈ roundedWords, let x := w.2 (codeValue f a) (codeValue f b) (codeValue f c)
      x ≠ 0 → RoundsTo f false mode x (w.1 f mode a b c)) ∧
    ∀ n : Int, n ≠ 0 → RoundsTo f false mode n (fpOfInt f mode n)) ∧
  (∀ (sew c scale : Nat), (sew = 16 ∨ sew = 32) → scale < 256 →
    (∀ p ∈ floatFmts, fmtLegal p.1 sew = true → ¬(p.1 = 13 ∧ sew = 16) → c < 2 ^ p.2.width →
      Widens p.2 (fmtOfSew sew) c (widenElem p.1 sew c scale)) ∧
    (c < 16 → let r := widenElem 11 sew c scale
      FiniteCode (fmtOfSew sew) r ∧ codeSign (fmtOfSew sew) r = codeSign fmtE2M1 c ∧
      codeValue (fmtOfSew sew) r = codeValue fmtE2M1 c * scaleCodeValue scale) ∧
    (c < 65536 → widenElem 13 16 c scale = c)) ∧
  (∀ (sew c scale : Nat), sew ∈ [16, 32, 64] → (c < 2 ^ sew → widenElem 0 sew c scale = c) ∧
    ∀ p ∈ [(1, 8), (3, 16), (5, 4)], c < 2 ^ p.2 →
      widenElem p.1 sew c scale = patternOf sew (signedOf p.2 c) ∧ widenElem (p.1 + 1) sew c scale = c) ∧
  (∀ (sew mode v : Nat), mode < 5 → (sew = 16 ∨ sew = 32) → v < 2 ^ sew →
    (∀ p ∈ floatFmts, fmtLegal p.1 sew = true → ¬(p.1 = 13 ∧ sew = 16) →
      Narrows (fmtOfSew sew) p.2 mode v (narrowElem p.1 sew mode v)) ∧
    narrowElem 13 16 mode (v % 65536) = (v % 65536, 0)) ∧
  (∀ (sew mode v : Nat), sew ∈ [16, 32, 64] → v < 2 ^ sew → narrowElem 0 sew mode v = (v, 0) ∧
    ∀ p ∈ [(1, 8), (3, 16), (5, 4)],
      narrowElem p.1 sew mode v = (patternOf p.2 (max (-2 ^ (p.2 - 1)) (min (2 ^ (p.2 - 1) - 1) (signedOf sew v))), 0) ∧
      narrowElem (p.1 + 1) sew mode v = (min v (2 ^ p.2 - 1), 0)) ∧
  (∀ (sew mode : Nat) (vs : List Nat), mode < 5 → (sew = 16 ∨ sew = 32) → vs.length = 8 → (∀ v ∈ vs, v < 2 ^ sew) →
    Blocks (fmtOfSew sew) mode vs (encodeBlock mode (vs.map (fmtOfSew sew).decode))) ∧
  (∀ p ∈ [(0x3E99999A, 0x2A, 0x29, flagNX), (0xBE99999A, 0xAA, 0xA9, flagNX), (0x43FA0000, 0x7E, 0x7E, flagOF ||| flagNX),
      (0x3A83126F, 0x01, 0x00, flagUF ||| flagNX), (0xFF800000, 0xFE, 0xFE, flagNV), (0x7FC00000, 0x00, 0x00, flagNV)],
    narrowElem 7 32 0 p.1 = (p.2.1, p.2.2.2) ∧ narrowElem 7 32 1 p.1 = (p.2.2.1, p.2.2.2))

/-- R72, R15: scalar loads from the scratchpad, and stores to it; the frame of a store is every byte outside the stored ones. -/
def Obligations.ScalarScratchpadAccess : Prop :=
  (∀ w ∈ loadWords, ∀ (s : State) (d a : BitVec 5) (c : BitVec 4) (o : BitVec 12),
    (ea s a o).toNat % w.2.1 = 0 → InWindow s (ea s a o) w.2.1 →
    s.damage.contains (.scratch s.th.core ((ea s a o).toNat % 2 ^ 17 / 8)) = false →
    ∃ v, Completes s (w.1 d a c o) d v ∧
      extended w.2.1 w.2.2 (fun i => scratchByte s (ea s a o + BitVec.ofNat 64 i)) v) ∧
  (∀ w ∈ storeWords4, ∀ (s : State) (d a : BitVec 5) (c : BitVec 4) (o : BitVec 12),
    let u := s.releaseFences (some c.toNat) (ea s a o) 1 s.cv.vstart0
    (ea s a o).toNat % w.2 = 0 → InWindow s (ea s a o) w.2 → u.stopsAt s.cv.vstart0 = false →
    let at_ := s.th.core * 131072 + (ea s a o).toNat % 2 ^ 17
    ∃ t, exec (w.1 d a c o) s = .next t ∧
      (∀ i, i < w.2 → cellsRead t.scratch (at_ + i) = (s.reg d).extractLsb' (8 * i) 8) ∧
      (∀ x, x < at_ ∨ at_ + w.2 ≤ x → cellsRead t.scratch x = cellsRead u.scratch x) ∧
      t = { u with scratch := t.scratch, damage := t.damage, cv := { u.cv with kept := t.cv.kept } } ∧
      (∀ x ∈ t.damage, x ∈ u.damage))

/-- R72, R241, R242, R244, R246: scalar loads of memory through the cluster cache, class 15 through the core's read-only path, which may
still hold an older value; of device registers; and at a network window, where a load waits for the port's answer. That a window load
waits at all, and that the thread's answer is the oldest of its port, place and size, is the model's reading (log 31). -/
def Obligations.ScalarLoadMemory : Prop :=
  ∀ w ∈ loadWords, ∀ (s s1 : State) (d a : BitVec 5) (c : BitVec 4) (o : BitVec 12) (place : Target),
    let n := w.2.1
    let done : (Nat → Byte) → State → Prop := fun bytes t => ∃ v, exec (w.1 d a c o) s = .next t ∧ Wrote s1 t d v ∧ extended n w.2.2 bytes v
    (ea s a o).toNat % n = 0 → Leads s (ea s a o) n 0 place s1 →
    (∀ cl p, place = .cluster cl p → p % n = 0 → s1.damageAt place = none → (c = 15#4 → s1.roBad p = false) →
      ∃ t bytes, done bytes t ∧ SameMemory s1 t ∧ (∀ x ∈ t.damage, x ∈ s1.damage) ∧
        ((∀ i, i < n → bytes i = seenByte s1 cl (p + i)) ∨ (c = 15#4 ∧ ∀ i, i < n → HeldByte s1 p i (bytes i))) ∧
        (∀ cl' x, s1.hasRoom cl p = true ∨ cl' ≠ cl → seenByte t cl' x = seenByte s1 cl' x) ∧
        (c ≠ 15#4 → t.ro = s1.ro ∧ t.free = s1.free) ∧
        OnlyCaches { s1 with th := { s1.th with regs := t.th.regs }, ro := t.ro, free := t.free } t) ∧
    (∀ off, place = .device off → off % n = 0 →
      (n < 4 → s1.cv.fault = none → ∃ t, exec (w.1 d a c o) s = .next t ∧ Faulted s1 t 0x06 s.cv.vstart0 (addrInfo (ea s a o) 0)) ∧
      (∀ r ∈ deviceReads, ∀ h, 4 ≤ n → off = 7 * 2 ^ 40 + r.1 + h → h + n ≤ 8 →
        ∃ t, done (fun i => (r.2 s1).extractLsb' (8 * (h + i)) 8) t ∧ OnlyRegs s1 t)) ∧
    (∀ port off, place = .window port off →
      let mine := s1.netIn.find? (fun x => x.uid == s.th.uid && x.port == port && x.off == off && x.size == n)
      (∀ x, mine = some x → ∃ t, done (fun i => x.data.extractLsb' (8 * i) 8) t ∧
        t = { s1 with th := { s1.th with regs := t.th.regs }, netIn := s1.netIn.erase x, cv := { s1.cv with kept := t.cv.kept } }) ∧
      (mine = none → exec (w.1 d a c o) s = .next { s1 with cv := { s1.cv with
        wait := some (.network port off n, .request ⟨s.th.uid, port, off, n, false, 0⟩ s.cv.vstart0) } }))

/-- R72, R241, R242, R244: scalar stores to memory through the cluster cache, to device registers, and at a network window, which a store
leaves for at its port (log 31). -/
def Obligations.ScalarStoreMemory : Prop :=
  ∀ w ∈ storeWords4, ∀ (s s1 : State) (d a : BitVec 5) (c : BitVec 4) (o : BitVec 12) (place : Target),
    let n := w.2
    let v := s.reg d
    (ea s a o).toNat % n = 0 → Leads s (ea s a o) n 1 place s1 → s1.th.fencesOn (some c.toNat) = [] →
    (∀ cl p, place = .cluster cl p → p % n = 0 → s1.lineLost p = false → s1.th.det = false →
      ∃ t, exec (w.1 d a c o) s = .next t ∧
        (∀ i, i < n → seenByte t cl (p + i) = v.extractLsb' (8 * i) 8) ∧
        (s1.hasRoom cl p = true → SameMemory s1 t ∧ (∀ x ∈ t.damage, x ∈ s1.damage) ∧
          ∀ cl' x, cl' ≠ cl ∨ x < p ∨ p + n ≤ x → seenByte t cl' x = seenByte s1 cl' x) ∧
        OnlyCaches { s1 with mem := t.mem, ro := t.ro, free := t.free, cv := { s1.cv with kept := t.cv.kept } } t) ∧
    (s1.stopsAt s.cv.vstart0 = false →
      (∀ off, place = .device off → off % n = 0 →
        (n < 4 ∨ (n = 4 ∧ ∃ r ∈ deviceWrites, off / 8 * 8 = 7 * 2 ^ 40 + r.1) → s1.cv.fault = none →
          ∃ t, exec (w.1 d a c o) s = .next t ∧ Faulted s1 t 0x06 s.cv.vstart0 (addrInfo (ea s a o) 1)) ∧
        (n = 8 → (∀ r ∈ deviceWrites, off = 7 * 2 ^ 40 + r.1 → exec (w.1 d a c o) s = .next (r.2 s1 v)) ∧
          (∀ i, i < 8 → (off = 7 * 2 ^ 40 + 0x4000 + 16 * i ∨ off = 7 * 2 ^ 40 + 0x4008 + 16 * i) → ∃ t, exec (w.1 d a c o) s = .next t ∧
            t.die i = (if off % 16 = 0 then { s1.die i with parkBase := v } else { s1.die i with parkSize := v }) ∧
            (∀ e, e ≠ i → t.die e = s1.die e) ∧ t = { s1 with dies := t.dies }) ∧
          (off = 7 * 2 ^ 40 + 0x10 → exec (w.1 d a c o) s =
            .next (if v = 1#64 ∧ s1.privileged = true then { s1 with cv := { s1.cv with reset := true } } else s1)))) ∧
      (∀ port off, place = .window port off → ∃ t, exec (w.1 d a c o) s = .next t ∧
        t = { s1 with
          netOut := s1.netOut ++ [⟨s1.th.uid, port, off, n, true, BitVec.ofNat 512 (v.toNat % 2 ^ (8 * n))⟩]
          cv := { s1.cv with kept := t.cv.kept } }))

/-- R72: alignment is checked first and nothing is accessed. -/
def Obligations.MisalignedScalarAccess : Prop :=
  (∀ w ∈ loadWords, ∀ (s : State) (d a : BitVec 5) (c : BitVec 4) (o : BitVec 12), s.cv.fault = none → (ea s a o).toNat % w.2.1 ≠ 0 →
    ∃ t, exec (w.1 d a c o) s = .next t ∧ Faulted s t 0x03 s.cv.vstart0 (addrInfo (ea s a o) 0)) ∧
  (∀ w ∈ storeWords4, ∀ (s : State) (d a : BitVec 5) (c : BitVec 4) (o : BitVec 12), s.cv.fault = none → (ea s a o).toNat % w.2 ≠ 0 →
    ∃ t, exec (w.1 d a c o) s = .next t ∧ Faulted s t 0x03 s.cv.vstart0 (addrInfo (ea s a o) 1))

/-- R75, R76, R77: control transfers inside a convoy at address C. -/
def Obligations.BranchesAndJumps : Prop :=
  (∀ w ∈ branchWords, ∀ (s : State) (a b : BitVec 5) (o : BitVec 16),
    let x := (s.cv.addr.toNat : Int) + o.toInt * 16
    (w.2 (s.reg a) (s.reg b) = false → exec (w.1 a b o) s = .next s) ∧
    (w.2 (s.reg a) (s.reg b) = true → 0 ≤ x → x < 2 ^ 64 → Reachable (BitVec.ofInt 64 x) →
      ∃ t, exec (w.1 a b o) s = .next t ∧ GoesTo s t (BitVec.ofInt 64 x))) ∧
  (∀ (s : State) (o : BitVec 26), Settled s →
    let x := (s.cv.addr.toNat : Int) + o.toInt * 16
    0 ≤ x → x < 2 ^ 64 → Reachable (BitVec.ofInt 64 x) →
      (∃ t, exec (.j o) s = .next t ∧ GoesTo s t (BitVec.ofInt 64 x)) ∧
      (∃ t, exec (.jal o) s = .next t ∧ Wrote s t 31#5 (s.cv.addr + 16) ∧
        t = { s with th := { s.th with regs := t.th.regs }, cv := { s.cv with next := some (BitVec.ofInt 64 x) } })) ∧
  (∀ (s : State) (d a : BitVec 5) (i : BitVec 16), Settled s → Reachable (s.reg a + i.signExtend 64) →
    ∃ t, exec (.jalr d a i) s = .next t ∧ Wrote s t d (s.cv.addr + 16) ∧
      t = { s with th := { s.th with regs := t.th.regs }, cv := { s.cv with next := some (s.reg a + i.signExtend 64) } })

/-- R78, R22: every word that transfers, where no convoy can be at its target; neither the transfer nor a link takes effect. -/
def Obligations.TransferFaults : Prop :=
  ∀ s : State, Settled s →
    (∀ w ∈ branchWords, ∀ (a b : BitVec 5) (o : BitVec 16), w.2 (s.reg a) (s.reg b) = true →
      FaultsAt s (w.1 a b o) ((s.cv.addr.toNat : Int) + o.toInt * 16)) ∧
    (∀ o : BitVec 26, ∀ i ∈ [Instr.j o, .jal o], FaultsAt s i ((s.cv.addr.toNat : Int) + o.toInt * 16)) ∧
    (∀ (d a : BitVec 5) (i : BitVec 16), FaultsAt s (.jalr d a i) ((s.reg a + i.signExtend 64).toNat : Nat)) ∧
    FaultsAt s .tret (s.th.csr.uepc.toNat : Nat) ∧
    (s.privileged = true → FaultsAt s .eret (s.th.priv.sepc.toNat : Nat))

/-- R60, R81, R82, R394: reading control registers, and what user mode may not run. -/
def Obligations.CsrReadsAndPrivilege : Prop :=
  (∀ (s : State) (d : BitVec 5), Settled s →
    (∀ r ∈ userValues, Completes s (.csrr d r.1) d (r.2 s)) ∧
    (s.privileged = true → ∀ r ∈ privilegedValues, Completes s (.csrr d r.1) d (r.2 s)) ∧
    (Drained s → Completes s (.csrr d 0x005) d (s.th.csr.fflags.zeroExtend 64))) ∧
  (∀ (s : State) (d a b : BitVec 5) (c : BitVec 12), Settled s → s.privileged = false →
    (∀ i, PrivilegedWord d a b i → ∃ t, exec i s = .next t ∧ Faulted s t 0x02 s.cv.vstart0 (s.cv.raw.zeroExtend 64)) ∧
    (0x800 ≤ c.toNat → ∀ i ∈ [Instr.csrr d c, .csrw a c, .csrs a c, .csrc a c],
      ∃ t, exec i s = .next t ∧ Faulted s t 0x02 s.cv.vstart0 (s.cv.raw.zeroExtend 64)) ∧
    (∀ i ∈ [Instr.csrw a 0x050, .csrs a 0x050, .csrc a 0x050],
      ∃ t, exec i s = .next t ∧ Faulted s t 0x02 s.cv.vstart0 (s.cv.raw.zeroExtend 64)))

/-- R81 to R83, R113, R394: writing control registers; each of the three words completes for every number that it may name. The model's
own readings: a CSRW of vtype acts at whatever vstart the convoy issued with (log 42), and the whole value written to dbudget is held
against 1,024 (log 48). -/
def Obligations.CsrWrites : Prop :=
  (∀ (s : State) (a : BitVec 5), Settled s →
    (∀ r ∈ userWrites ++ (if s.privileged then privilegedWrites else []), ∀ w ∈ csrWords s a r.1 (s.csrValue r.1.toNat),
      ∃ t, exec w.1 s = .next t ∧ WroteCsr s t r.1 (r.2 w.2)) ∧
    (∀ w ∈ csrWords s a 0x001 (s.th.csr.vtype.zeroExtend 64), let y := w.2.setWidth 6
      (y.toNat % 4 ≠ 3 → ∃ t, exec w.1 s = .next t ∧ t.th.csr.vtype = y ∧ t.th.csr.vl.toNat = min s.vl (vlmax110 y s.lanes) ∧
        t = { s with th := { s.th with csr := { s.th.csr with vtype := y, vl := t.th.csr.vl } } }) ∧
      (y.toNat % 4 = 3 → ∃ t, exec w.1 s = .next t ∧
        Faulted s t 0x01 s.cv.vstart0 (s.cv.raw.zeroExtend 64 + 7#64 * BitVec.ofNat 64 (2 ^ 32)))) ∧
    (Drained s → ∀ w ∈ csrWords s a 0x005 (s.th.csr.fflags.zeroExtend 64),
      ∃ t, exec w.1 s = .next t ∧ WroteCsr s t 0x005 (w.2 &&& 0x3F)) ∧
    (∀ w ∈ csrWords s a 0x021 (s.th.csr.phase.zeroExtend 64),
      (s.th.det = false → ∃ t, exec w.1 s = .next t ∧ WroteCsr s t 0x021 (w.2 &&& 0xFFFFFFFF)) ∧
      (s.th.det = true → ∃ t, exec w.1 s = .next t ∧ Faulted s t 0x0E s.cv.vstart0 3)) ∧
    (s.privileged = true →
      (∀ w ∈ csrWords s a 0x050 (s.die (dieOf s.th.core)).cycle, ∃ t, exec w.1 s = .next t ∧ (t.die (dieOf s.th.core)).cycle = w.2 ∧ t = { s with dies := t.dies } ∧
          ∀ e, e ≠ dieOf s.th.core → t.die e = s.die e) ∧
      (∀ w ∈ csrWords s a 0x807 (s.csrValue 0x807), ∃ t, exec w.1 s = .next t ∧ t.csrValue 0x807 = budgetStored w.2 ∧
        (∀ c : BitVec 12, c ≠ 0x807 → t.csrValue c.toNat = s.csrValue c.toNat) ∧
        (∀ k, k ≠ s.th.core → t.coreRec k = s.coreRec k) ∧ (t.coreRec s.th.core).diag = (s.coreRec s.th.core).diag ∧
        t = { s with th := { s.th with priv := t.th.priv }, cores := t.cores }) ∧
      (∀ c : BitVec 12, 0x809 ≤ c.toNat → ∀ i ∈ [Instr.csrw a c, .csrs a c, .csrc a c], ∃ t, exec i s = .next t ∧
        Faulted s t 0x01 s.cv.vstart0 (s.cv.raw.zeroExtend 64 + 6#64 * BitVec.ofNat 64 (2 ^ 32))))) ∧
  (∀ (a : BitVec 5) (c : BitVec 12), ∀ i ∈ [Instr.csrw a c, .csrs a c, .csrc a c],
    i.wf = true ↔ c ∈ writableCsrs ∨ 0x800 ≤ c.toNat)

/-- R110, R115, R116; R114 for a convoy that resumes. -/
def Obligations.VectorConfiguration : Prop :=
  ∀ (s : State) (d a : BitVec 5), Settled s →
    (s.cv.vstart0 = 0 →
      (let n := min (s.reg a).toNat (vlmax110 s.th.csr.vtype s.lanes)
       ∃ t, exec (.setvl d a) s = .next t ∧ t.th.csr.vl.toNat = n ∧ Wrote s t d (BitVec.ofNat 64 n) ∧
        t = { s with th := { s.th with regs := t.th.regs, csr := { s.th.csr with vl := t.th.csr.vl } }, cv := { s.cv with kept := t.cv.kept } }) ∧
      (let y := (s.reg a).setWidth 6
       (y.toNat % 4 = 3 → ∃ t, exec (.settype d a) s = .next t ∧
         Faulted s t 0x01 s.cv.vstart0 (s.cv.raw.zeroExtend 64 + 7#64 * BitVec.ofNat 64 (2 ^ 32))) ∧
       (y.toNat % 4 ≠ 3 →
        let n := min s.vl (vlmax110 y s.lanes)
        ∃ t, exec (.settype d a) s = .next t ∧ t.th.csr.vtype = y ∧ t.th.csr.vl.toNat = n ∧ Wrote s t d (BitVec.ofNat 64 n) ∧
          t = { s with th := { s.th with regs := t.th.regs, csr := { s.th.csr with vl := t.th.csr.vl, vtype := y } }, cv := { s.cv with kept := t.cv.kept } }))) ∧
    (s.cv.vstart0 ≠ 0 → exec (.setvl d a) s = .next s ∧ exec (.settype d a) s = .next s)

/-- R85, R392, R394, R420: delivery to the user handler; to system software; and a control core that traps inside its handler, which
stops for good with a black-box event of die 8. The event's die and the layout of its detail are the model's (log 56). -/
def Obligations.TrapEntry : Prop :=
  ∀ (s : State) (epc : Word) (f : FaultRec),
    (f.cause ∈ [0x08, 0x0A, 0x0B, 0x0C, 0x0D, 0x0E, 0x10] → s.th.csr.uth ≠ 0 → s.th.csr.ustat.getLsbD 2 = false →
      s.takeTrap epc f = { s with th := { s.th with
        pc := s.th.csr.uth,
        csr := { s.th.csr with uepc := epc, ucause := BitVec.ofNat 8 f.cause, uinfo := f.info,
                               ustat := statusWord s.th.csr.vstart false f.word, vstart := 0 } } }) ∧
    (f.cause ∉ [0x08, 0x0A, 0x0B, 0x0C, 0x0D, 0x0E, 0x10] ∨ s.th.csr.uth = 0 ∨ s.th.csr.ustat.getLsbD 2 = true →
      (s.th.core < 4096 →
        s.takeTrap epc f = { s with
          th := { s.th with
            pc := epc, run := .stopped,
            trap := some ⟨epc, BitVec.ofNat 8 f.cause, f.info, statusWord s.th.csr.vstart false f.word, none⟩ },
          ringWait := s.ringWait ++ [s.th.uid] }) ∧
      (4096 ≤ s.th.core → s.th.priv.sstatus.getLsbD 2 = false →
        s.takeTrap epc f = { s with th := { s.th with
          pc := s.th.priv.sth,
          csr := { s.th.csr with vstart := 0 },
          priv := { s.th.priv with sepc := epc, scause := BitVec.ofNat 8 f.cause, sinfo := f.info,
                                   sstatus := statusWord s.th.csr.vstart s.th.priv.privileged f.word, privileged := true } } }) ∧
      (4096 ≤ s.th.core → s.th.priv.sstatus.getLsbD 2 = true →
        let t := s.takeTrap epc f
        t.th = { s.th with run := .halted } ∧
        Logged s t 0x09#16 (s.asidOf s.th) (BitVec.ofNat 64 (epc.toNat % 2 ^ 57 + f.cause % 128 * 2 ^ 57)) ∧
        t = { s with th := t.th, dies := t.dies, bbFlash := t.bbFlash }))

/-- R86, R392, R394, R402: the earlier words complete, then the trap is taken at C + 16: TRAPU to the user handler, and to system software
where there is none or one is active; TRAP to system software. That a TRAPU which goes to system software records C + 16 there too is the
model's reading (log 68). -/
def Obligations.TrapWords : Prop :=
  (∀ (s : State) (n : BitVec 12), exec (.trapu n) s =
    .next { s with cv := { s.cv with trap := some ⟨0x10, s.cv.vstart0, s.cv.word, n.zeroExtend 64⟩ } }) ∧
  (∀ (s : State) (a : BitVec 5), exec (.trap a) s =
    .next { s with cv := { s.cv with trap := some ⟨0x11, s.cv.vstart0, s.cv.word, s.reg a⟩ } }) ∧
  (∀ (s : State) (f : FaultRec), s.cv.trap = some f → Bare s → s.cv.halt = false → s.cv.yield = false → f.cause = 0x10 ∨ f.cause = 0x11 →
    let t := s.retireConvoy
    let user := f.cause = 0x10 ∧ s.th.csr.uth ≠ 0 ∧ s.th.csr.ustat.getLsbD 2 = false
    t.th.csr.cvret = s.th.csr.cvret + 1 ∧ t.th.regs = s.th.regs ∧ SameMemory s t ∧
    (user → t.th.pc = s.th.csr.uth ∧ t.th.csr.uepc = s.cv.addr + 16 ∧ t.th.csr.ucause = 0x10 ∧ t.th.csr.uinfo = f.info ∧
      t.th.csr.ustat = statusWord 0 false f.word) ∧
    (¬ user → s.th.core < 4096 → t.th.pc = s.cv.addr + 16 ∧ t.th.run = .stopped ∧ t.ringWait = s.ringWait ++ [s.th.uid] ∧
      t.th.trap = some ⟨s.cv.addr + 16, BitVec.ofNat 8 f.cause, f.info, statusWord 0 false f.word, none⟩) ∧
    (¬ user → 4096 ≤ s.th.core → s.th.priv.sstatus.getLsbD 2 = false → t.th.pc = s.th.priv.sth ∧ t.th.priv.sepc = s.cv.addr + 16 ∧
      t.th.priv.scause = BitVec.ofNat 8 f.cause ∧ t.th.priv.sinfo = f.info ∧
      t.th.priv.sstatus = statusWord 0 s.th.priv.privileged f.word ∧ t.th.priv.privileged = true))

/-- R87, R398, R403: the two returns. -/
def Obligations.ReturnsFromHandlers : Prop :=
  (∀ s : State, Settled s → Reachable s.th.csr.uepc →
    exec .tret s = .next { s with
      th := { s.th with needs := s.fillNeeds s.th, pc := s.th.csr.uepc, csr := { s.th.csr with vstart := s.th.csr.ustat.extractLsb' 16 15, ustat := 0 } },
      cv := { s.cv with next := some s.th.csr.uepc, vstartSet := true } }) ∧
  (∀ s : State, Settled s → s.privileged = true → Reachable s.th.priv.sepc →
    ∃ t, exec .eret s = .next t ∧ t.th.priv.privileged = s.th.priv.sstatus.getLsbD 3 ∧
      t.th.priv.sstatus = s.th.priv.sstatus &&& ~~~4#64 ∧ t.th.csr.vstart = s.th.priv.sstatus.extractLsb' 16 15 ∧
      t.cv.next = some s.th.priv.sepc ∧
      t = { s with
        th := { s.th with needs := s.fillNeeds s.th, pc := s.th.priv.sepc, csr := { s.th.csr with vstart := t.th.csr.vstart },
                          priv := { s.th.priv with privileged := t.th.priv.privileged, sstatus := t.th.priv.sstatus } },
        cv := { s.cv with next := t.cv.next, vstartSet := true } })

/-- R88, R331, R335, R404, R405: HALT, YIELD and IDLE, and what the retirement of a HALT and of a YIELD leaves. Whom a YIELD owes an
opportunity, the other threads of the core that are ready as it retires, is the model's reading (log 62), and so is the detail of a
control core's event (log 56). -/
def Obligations.HaltYieldIdle : Prop :=
  (∀ s : State, exec .halt s = .next { s with cv := { s.cv with halt := true } }) ∧
  (∀ s : State, exec .yield s = .next { s with cv := { s.cv with yield := true } }) ∧
  (∀ s : State, s.cv.yield = true → Bare s → s.cv.trap = none → s.cv.halt = false →
    let t := s.retireConvoy
    t.th.pc = s.cv.addr + 16 ∧ t.th.passed = 0 ∧ t.th.curPrio = s.th.prio ∧ t.th.regs = s.th.regs ∧ SameMemory s t ∧ t.others = s.others ∧
    t.th.yieldTo = ((t.readyAt s.th.core).filter (fun x => x.uid != s.th.uid)).map (fun x => x.uid)) ∧
  (∀ s : State, s.cv.halt = true → Bare s → s.cv.trap = none → s.cv.yield = false → (s.coreRec s.th.core).diag = [] →
    let t := s.retireConvoy
    (4096 ≤ s.th.core →
      t.th.run = .halted ∧ t.th.pc = s.cv.addr + 16 ∧ t.th.binds = [] ∧ t.th.regs = s.th.regs ∧ SameMemory s t ∧ t.ringTail = s.ringTail ∧
      Logged s t 0x09#16 (s.asidOf s.th) (s.cv.addr + 16)) ∧
    (s.th.core < 4096 → s.others ≠ [] → (∀ x ∈ s.others, x.uid ≠ s.th.uid) → s.tasks = [] →
      (∀ x ∈ t.threads, x.uid ≠ s.th.uid) ∧ t.threads.length = s.others.length ∧
      (∀ y ∈ s.others, ∃ x ∈ t.threads, x.uid = y.uid ∧ x.regs = y.regs ∧
        (s.th.parent = some y.uid → x.join = y.join - 1 ∧ x.retired = y.retired + 1) ∧
        (s.th.parent ≠ some y.uid → x.join = y.join ∧ x.retired = y.retired)) ∧
      (∀ l, s.launch s.th.launch = some l → ∃ l', t.launch s.th.launch = some l' ∧ l'.retired = l.retired + 1 ∧
        l'.past = (s.th.core, s.th.gang) :: l.past) ∧
      ((∃ y ∈ s.others, y.launch = s.th.launch ∧ y.gang = s.th.gang ∧ isControl y.core = false) → SameMemory s t))) ∧
  (∀ s : State, Settled s → s.privileged = true →
    (s.ringTail ≠ s.ringHead → exec .idle s = .next s) ∧
    (s.ringTail = s.ringHead → exec .idle s = .next { s with cv := { s.cv with wait := some (.idle, .nothing) } }))

/-- R148, R150, R151, R159: element-wise words without flags. -/
def Obligations.VectorIntegerWords : Prop :=
  (∀ w ∈ vectorIntegerWords, ∀ (s : State) (d a b : BitVec 5) (k : BitVec 3) (l sc : BitVec 1),
    Ready s (sources s a b sc) [(d.toNat, s.lmul)] [] →
    ∃ t, exec (w.1 d a b k l sc) s = .next t ∧
      Elementwise s t d.toNat s.sew s.lmul k 0 (fun e => (w.2 s.sew (s.elem a.toNat e s.sew) (second s b sc e), 0))) ∧
  (∀ w ∈ vectorUnaryWords, ∀ (s : State) (d a : BitVec 5) (k : BitVec 3) (l : BitVec 1),
    Ready s [(a.toNat, s.lmul)] [(d.toNat, s.lmul)] [] →
    ∃ t, exec (w.1 d a k l) s = .next t ∧
      Elementwise s t d.toNat s.sew s.lmul k 0 (fun e => (w.2 s.sew (s.elem a.toNat e s.sew), 0)))

/-- R148, R152 to R155: element-wise floating-point words. -/
def Obligations.VectorFloatWords : Prop :=
  (∀ w ∈ vectorFloatWords, ∀ (s : State) (d a b : BitVec 5) (k e : BitVec 3) (l sc : BitVec 1),
    Ready s (sources s a b sc) [(d.toNat, s.lmul)] [e.toNat] → s.sew ≠ 64 →
    ∃ t, exec (w.1 d a b k e l sc) s = .next t ∧
      Elementwise s t d.toNat s.sew s.lmul k e (fun i => w.2 (fmtOfSew s.sew) s.th.csr.frm.toNat (s.elem a.toNat i s.sew) (second s b sc i))) ∧
  (∀ w ∈ vectorFusedWords, ∀ (s : State) (d a b : BitVec 5) (k e : BitVec 3) (l sc : BitVec 1),
    Ready s (sources s a b sc) [(d.toNat, s.lmul)] [e.toNat] → s.sew ≠ 64 →
    ∃ t, exec (w.1 d a b k e l sc) s = .next t ∧
      Elementwise s t d.toNat s.sew s.lmul k e (fun i =>
        fpFma (fmtOfSew s.sew) s.th.csr.frm.toNat w.2.1 w.2.2 (s.elem a.toNat i s.sew) (second s b sc i) (s.elem d.toNat i s.sew))) ∧
  (∀ w ∈ vectorFloatUnaryWords, ∀ (s : State) (d a : BitVec 5) (k e : BitVec 3) (l : BitVec 1),
    Ready s [(a.toNat, s.lmul)] [(d.toNat, s.lmul)] [e.toNat] → s.sew ≠ 64 →
    ∃ t, exec (w.1 d a k e l) s = .next t ∧
      Elementwise s t d.toNat s.sew s.lmul k e (fun i => w.2 (fmtOfSew s.sew) s.th.csr.frm.toNat (s.elem a.toNat i s.sew))) ∧
  (∀ (s : State) (d a : BitVec 5) (k : BitVec 3) (l : BitVec 1),
    Ready s [(a.toNat, s.lmul)] [(d.toNat, s.lmul)] [] → s.sew ≠ 64 →
    ∃ t, exec (.vfclass d a k l) s = .next t ∧
      Elementwise s t d.toNat s.sew s.lmul k 0 (fun i => (fpClass (fmtOfSew s.sew) (s.elem a.toNat i s.sew), 0)))

/-- R156: comparisons into a mask register. -/
def Obligations.VectorComparisons : Prop :=
  (∀ w ∈ vectorCompareWords, ∀ (s : State) (d a b : BitVec 5) (k : BitVec 3) (l sc : BitVec 1),
    Ready s (sources s a b sc) [] [d.toNat] → d.toNat ≤ 7 →
    ∃ t, exec (w.1 d a b k l sc) s = .next t ∧
      Maskwise s t d.toNat k 0 (fun e => (w.2 s.sew (s.elem a.toNat e s.sew) (second s b sc e), 0))) ∧
  (∀ w ∈ vectorFloatCompareWords, ∀ (s : State) (d a b : BitVec 5) (k e : BitVec 3) (l sc : BitVec 1),
    Ready s (sources s a b sc) [] [d.toNat, e.toNat] → d.toNat ≤ 7 → s.sew ≠ 64 →
    ∃ t, exec (w.1 d a b k e l sc) s = .next t ∧
      Maskwise s t d.toNat k e (fun i => fpRel (fmtOfSew s.sew) w.2 (s.elem a.toNat i s.sew) (second s b sc i)))

/-- R157, R158: conversions. -/
def Obligations.VectorConversions : Prop :=
  (∀ c ∈ floatConversions, Converts c 7) ∧ (∀ c ∈ integerConversions, Converts c 0)

/-- R159, R161: placement words. -/
def Obligations.VectorPlacement : Prop :=
  (∀ (s : State) (d b : BitVec 5) (k : BitVec 3), Ready s [] [(d.toNat, s.lmul)] [] →
    ∃ t, exec (.vbcast d b k) s = .next t ∧ Elementwise s t d.toNat s.sew s.lmul k 0 (fun _ => ((s.reg b).toNat % 2 ^ s.sew, 0))) ∧
  (∀ (s : State) (d a b : BitVec 5) (k : BitVec 3) (l sc : BitVec 1), Ready s (sources s a b sc) [(d.toNat, s.lmul)] [] →
    ∃ t, exec (.vmerge d a b k l sc) s = .next t ∧
      Elementwise s t d.toNat s.sew s.lmul 0 0 (fun e => (if s.th.active k.toNat e then second s b sc e else s.elem a.toNat e s.sew, 0))) ∧
  (∀ (s : State) (d : BitVec 5) (k : BitVec 3), Ready s [] [(d.toNat, s.lmul)] [] →
    ∃ t, exec (.vid d k) s = .next t ∧ Elementwise s t d.toNat s.sew s.lmul k 0 (fun e => (e, 0))) ∧
  (∀ (s : State) (d a : BitVec 5) (k : BitVec 3), Ready s [] [(d.toNat, s.lmul)] [] →
    ∃ t, exec (.viota d a k) s = .next t ∧
      Elementwise s t d.toNat s.sew s.lmul k 0 (fun e => (((List.range e).filter (fun i => s.th.active a.toNat i)).length, 0)))

/-- R160, R162: single elements, and VCOMPRESS. -/
def Obligations.VectorElementMoves : Prop :=
  (∀ (s : State) (d a b : BitVec 5), Ready s [(a.toNat, s.lmul)] [] [] →
    Completes s (.vextr d a b) d (if (s.reg b).toNat < s.vl then BitVec.ofNat 64 (s.elem a.toNat (s.reg b).toNat s.sew) else 0)) ∧
  (∀ (s : State) (d a b : BitVec 5), Ready s [] [(d.toNat, s.lmul)] [] →
    let i := (s.reg a).toNat
    (s.vl ≤ i → exec (.vins d a b) s = .next s) ∧
    (i < s.vl → ∃ t, exec (.vins d a b) s = .next t ∧ t.elem d.toNat i s.sew = (s.reg b).toNat % 2 ^ s.sew ∧
      (∀ e, e < s.vlmax → e ≠ i → t.elem d.toNat e s.sew = s.elem d.toNat e s.sew) ∧
      (∀ r, r < d.toNat ∨ d.toNat + s.lmul ≤ r → vget t.th.vregs r 0 = vget s.th.vregs r 0) ∧
      t = { s with th := { s.th with vregs := t.th.vregs }, cv := { s.cv with marks := t.cv.marks } })) ∧
  (∀ (s : State) (d a : BitVec 5) (k : BitVec 3) (l : BitVec 1), Ready s [(a.toNat, s.lmul)] [(d.toNat, s.lmul)] [] → d ≠ a →
    ∃ t, exec (.vcompress d a k l) s = .next t ∧
      (∀ j i, (activeBelow s k s.vl)[j]? = some i → s.vstart ≤ i → t.elem d.toNat j s.sew = s.elem a.toNat i s.sew) ∧
      (∀ j i, (activeBelow s k s.vl)[j]? = some i → i < s.vstart → t.elem d.toNat j s.sew = s.elem d.toNat j s.sew) ∧
      (∀ j, (activeBelow s k s.vl).length ≤ j → j < s.vlmax →
        t.elem d.toNat j s.sew = if s.ta && s.vl != 0 then 2 ^ s.sew - 1 else s.elem d.toNat j s.sew) ∧
      (∀ r, r < d.toNat ∨ d.toNat + s.lmul ≤ r → vget t.th.vregs r 0 = vget s.th.vregs r 0) ∧
      t = { s with th := { s.th with vregs := t.th.vregs }, cv := { s.cv with kept := t.cv.kept, marks := t.cv.marks } })

/-- R124, R125: mask instructions. -/
def Obligations.MaskInstructions : Prop :=
  (∀ w ∈ maskWords, ∀ (s : State) (d a b : BitVec 5), Ready s [] [] [d.toNat] → d.toNat ≤ 7 →
    ∃ t, exec (w.1 d a b) s = .next t ∧ Maskwise s t d.toNat 0 0 (fun e => (w.2 (s.th.active a.toNat e) (s.th.active b.toNat e), 0))) ∧
  (∀ (s : State) (d a : BitVec 5), Ready s [] [] [d.toNat] → d.toNat ≤ 7 →
    (∃ t, exec (.knot d a) s = .next t ∧ Maskwise s t d.toNat 0 0 (fun e => (!s.th.active a.toNat e, 0))) ∧
    (∃ t, exec (.kfirst d a) s = .next t ∧
      Maskwise s t d.toNat 0 0 (fun e => (s.th.active a.toNat e && (List.range e).all (fun i => !s.th.active a.toNat i), 0))) ∧
    (∃ t, exec (.kloop d) s = .next t ∧ (d ≠ 0 → t.th.mask d.toNat = .count s.th.csr.vl (s.th.csr.vtype.setWidth 2)) ∧
      (∀ m, m ≠ d.toNat ∨ m = 0 → t.th.mask m = s.th.mask m) ∧ t = { s with th := { s.th with masks := t.th.masks } }) ∧
    (∃ t, exec (.kpopc d a) s = .next t ∧
      (d ≠ 0 → t.th.mask d.toNat =
        .count (BitVec.ofNat 15 ((List.range s.vl).filter (fun i => s.th.active a.toNat i)).length) (s.th.csr.vtype.setWidth 2)) ∧
      (∀ m, m ≠ d.toNat ∨ m = 0 → t.th.mask m = s.th.mask m) ∧ t = { s with th := { s.th with masks := t.th.masks } }))

/-- R163, R164, R167: integer reductions. -/
def Obligations.IntegerReductions : Prop :=
  ∀ (s : State) (d a b : BitVec 5) (k : BitVec 3) (l : BitVec 1), Ready s [(a.toNat, s.lmul)] [] [] →
    let xs := (activeBelow s k s.vl).map (fun e => BitVec.ofInt 64 (signedOf s.sew (s.elem a.toNat e s.sew)))
    (∃ t, exec (.vredsum d a b k l) s = .next t ∧ WroteScalar s t d (xs.foldl (fun r x => r + x) (s.reg b)) ∧ t.th.csr = s.th.csr) ∧
    (∃ t v, exec (.vredmin d a b k l) s = .next t ∧ WroteScalar s t d v ∧ t.th.csr = s.th.csr ∧
      v ∈ s.reg b :: xs ∧ ∀ x ∈ s.reg b :: xs, v.toInt ≤ x.toInt) ∧
    (∃ t v, exec (.vredmax d a b k l) s = .next t ∧ WroteScalar s t d v ∧ t.th.csr = s.th.csr ∧
      v ∈ s.reg b :: xs ∧ ∀ x ∈ s.reg b :: xs, x.toInt ≤ v.toInt) ∧
    (s.sew ≠ 64 → ∃ t, exec (.vredminui d a k l) s = .next t ∧ t.th.csr = s.th.csr ∧
      (activeBelow s k s.vl = [] → WroteScalar s t d (BitVec.ofNat 64 (2 ^ s.sew - 1 + 0xFFFFFFFF * 2 ^ 32))) ∧
      (∀ i, RanksFirst (fun x y => decide (x < y)) (fun e => s.elem a.toNat e s.sew) (activeBelow s k s.vl) i →
        WroteScalar s t d (BitVec.ofNat 64 (s.elem a.toNat i s.sew + i * 2 ^ 32))))

/-- R164 to R167: floating-point reductions. -/
def Obligations.FloatReductions : Prop :=
  ∀ (s : State) (d a b : BitVec 5) (k : BitVec 3) (l : BitVec 1), Ready s [(a.toNat, s.lmul)] [] [] → s.sew ≠ 64 →
    let f := fmtOfSew s.sew
    let x : Nat → Nat := fun e => s.elem a.toNat e s.sew
    let live := activeBelow s k s.vl
    let start : Nat × BitVec 6 := ((s.reg b).toNat % 2 ^ 32, 0)
    let lane : Nat → Nat := fun e => if e < s.vl && s.th.active k.toNat e then asFp32 s.sew (x e) else 0x80000000
    let inOrder := live.foldl (fun r e => plus r (asFp32 s.sew (x e), 0)) start
    let byGroup := (List.range ((s.vl + 63) / 64)).foldl (fun r g => plus r (treeSum lane 6 (64 * g))) start
    let usable := live.filter (fun e => !(f.decode (x e)).isNan)
    let nv := flagIf (live.any (fun e => (f.decode (x e)).isSnan)) flagNV
    let done : Instr → Word → BitVec 6 → Prop := fun i v fl =>
      ∃ t, exec i s = .next t ∧ WroteScalar s t d v ∧ t.th.csr.fflags = (s.th.csr.fflags ||| fl)
    done (.vfredosum d a b k l) (BitVec.ofNat 64 inOrder.1) inOrder.2 ∧
    done (.vfredsum d a b k l) (BitVec.ofNat 64 byGroup.1) byGroup.2 ∧
    (usable = [] → done (.vfredmini d a k l) (BitVec.ofNat 64 (0x7F800000 + 0xFFFFFFFF * 2 ^ 32)) nv ∧
      done (.vfredmaxi d a k l) (BitVec.ofNat 64 (0xFF800000 + 0xFFFFFFFF * 2 ^ 32)) nv) ∧
    (∀ i, RanksFirst (fpBelow f) x usable i → done (.vfredmini d a k l) (BitVec.ofNat 64 (asFp32 s.sew (x i) + i * 2 ^ 32)) nv) ∧
    (∀ i, RanksFirst (fun p q => fpBelow f q p) x usable i →
      done (.vfredmaxi d a k l) (BitVec.ofNat 64 (asFp32 s.sew (x i) + i * 2 ^ 32)) nv)

/-- R171 to R173: permutes. That MA governs VSLIDEUP's inactive elements below the offset too is the model's reading (log 55). -/
def Obligations.VectorPermutes : Prop :=
  ∀ (s : State) (d a b : BitVec 5) (k : BitVec 3) (l : BitVec 1), d ≠ a →
    let x : Nat → Nat := fun e => s.elem a.toNat e s.sew
    let off := (s.reg b).toNat
    let done : Instr → (Nat → Nat) → Prop := fun i f =>
      ∃ t, exec i s = .next t ∧ Elementwise s t d.toNat s.sew s.lmul k 0 (fun e => (f e, 0))
    (Ready s [(a.toNat, s.lmul)] [(d.toNat, s.lmul)] [] →
      done (.vslideup d a b k l) (fun e => if off ≤ e then x (e - off) else s.elem d.toNat e s.sew) ∧
      done (.vslidedn d a b k l) (fun e => if e + off < s.vlmax then x (e + off) else 0) ∧
      done (.vrev d a k l) (fun e => x (s.vl - 1 - e)) ∧
      done (.vexpand d a k l) (fun e => x (activeBelow s k e).length) ∧
      done (.vscan d a b k l) (fun e => ((activeBelow s k (e + 1)).foldl (fun r i => r + x i) off) % 2 ^ s.sew)) ∧
    (d ≠ b → Ready s [(a.toNat, s.lmul), (b.toNat, s.lmul)] [(d.toNat, s.lmul)] [] →
      done (.vpermute d a b k l) (fun e => if s.elem b.toNat e s.sew < s.vlmax then x (s.elem b.toNat e s.sew) else 0))

/-- R174, R175. -/
def Obligations.ConflictAndTopK : Prop :=
  (∀ (s : State) (d a : BitVec 5) (k : BitVec 3) (l : BitVec 1), Ready s [(a.toNat, s.lmul)] [] [d.toNat] → d.toNat ≤ 7 →
    ∃ t, exec (.vconflict d a k l) s = .next t ∧
      Maskwise s t d.toNat 0 0 (fun e => (s.th.active k.toNat e &&
        (activeBelow s k e).all (fun i => s.elem a.toNat i s.sew != s.elem a.toNat e s.sew), 0))) ∧
  (∀ (s : State) (d a b : BitVec 5) (k : BitVec 3) (l : BitVec 1),
    Ready s [(a.toNat, s.lmul)] [(d.toNat, 2 * s.lmul)] [] → s.sew ≠ 64 → s.vl ≠ 0 →
    d.toNat + 2 * s.lmul ≤ a.toNat ∨ a.toNat + s.lmul ≤ d.toNat →
    let f := fmtOfSew s.sew
    let x : Nat → Nat := fun e => s.elem a.toNat e s.sew
    let c := (activeBelow s k s.vl).filter (fun e => !(f.decode (x e)).isNan)
    let top := min (s.reg b).toNat s.vl
    ∃ (t : State) (r : List Nat), exec (.vtopk d a b k l) s = .next t ∧ r.Perm c ∧
      r.Pairwise (fun i j => fpBelow f (x j) (x i) = true ∨ (fpBelow f (x i) (x j) = false ∧ i < j)) ∧
      (∀ i, i < top → t.elem d.toNat i s.sew = r.getD i (2 ^ s.sew - 1) ∧
        t.elem (d.toNat + s.lmul) i s.sew = (match r[i]? with
          | some j => x j
          | none => if s.sew = 16 then 0xFF80 else 0xFF800000)) ∧
      (∀ v ∈ [d.toNat, d.toNat + s.lmul], ∀ e, top ≤ e → e < s.vlmax →
        t.elem v e s.sew = if s.ta then 2 ^ s.sew - 1 else s.elem v e s.sew) ∧
      (∀ q, q < d.toNat ∨ d.toNat + 2 * s.lmul ≤ q → vget t.th.vregs q 0 = vget s.th.vregs q 0) ∧ t.th.masks = s.th.masks ∧
      t.th.csr.fflags = (s.th.csr.fflags ||| flagIf ((activeBelow s k s.vl).any (fun e => (f.decode (x e)).isSnan)) flagNV) ∧
      OnlyVector s t)

/-- R129, R131, R135: vector loads of byte formats. -/
def Obligations.VectorLoads : Prop :=
  ∀ w ∈ vectorLoadWords, ∀ (s : State) (v a b : BitVec 5) (k : BitVec 3) (c f : BitVec 4),
    Ready s (indexGroup s w.2 b) [(v.toNat, s.lmul)] [] → byteFmt f.toNat = true → fmtLegal f.toNat s.sew = true →
    (∀ g ∈ indexGroup s w.2 b, v.toNat + s.lmul ≤ g.1 ∨ g.1 + g.2 ≤ v.toNat) →
    let n := fmtBits f.toNat s.sew / 8
    (∀ e, Acts s k e → Placed s w.2 a b n e ∧ Sound s (vecAddr s w.2 a b n e)) →
    ∃ t, exec (w.1 v a b k c f) s = .next t ∧
      Elementwise s t v.toNat s.sew s.lmul k 0 (fun e => (widenElem f.toNat s.sew (scratchNat s (vecAddr s w.2 a b n e) n) 0, 0))

/-- R100 to R103, R131, R136: sub-byte loads. -/
def Obligations.SubByteLoads : Prop :=
  (∀ (s : State) (v a b : BitVec 5) (k : BitVec 3) (c f : BitVec 4) (code scale : Nat → Nat),
    Ready s [] [(v.toNat, s.lmul)] [] → subByte f → fmtLegal f.toNat s.sew = true →
    let result : Nat → Nat × BitVec 6 := fun e => (widenElem f.toNat s.sew (code e) (scale e), 0)
    ((∀ e, Acts s k e → Encoded s (s.reg a + s.reg b) f 0 e (code e) (scale e)) →
      ∃ t, exec (.vld v a b k c f) s = .next t ∧ Elementwise s t v.toNat s.sew s.lmul k 0 result) ∧
    ((s.reg b).toNat ≤ (if f = 11#4 then 0 else 7) →
      (∀ e, Acts s k e → Encoded s (s.reg a) f (s.reg b).toNat e (code e) (scale e)) →
      ∃ t, exec (.vldb v a b k c f) s = .next t ∧ Elementwise s t v.toNat s.sew s.lmul k 0 result)) ∧
  (∀ (s : State) (v a b : BitVec 5) (k : BitVec 3) (c f : BitVec 4), Ready s [] [(v.toNat, s.lmul)] [] → ¬ subByte f →
    ∃ t, exec (.vldb v a b k c f) s = .next t ∧ Faulted s t 0x01 s.cv.vstart0 (s.cv.raw.zeroExtend 64 + 7#64 * BitVec.ofNat 64 (2 ^ 32)))

/-- R129, R132, R135: vector stores of byte formats. -/
def Obligations.VectorStores : Prop :=
  ∀ w ∈ vectorStoreWords, ∀ (s : State) (v a b : BitVec 5) (k : BitVec 3) (c f : BitVec 4),
    Ready s ((v.toNat, s.lmul) :: indexGroup s w.2 b) [] [] → s.th.fencesOn (some c.toNat) = [] → byteFmt f.toNat = true → fmtLegal f.toNat s.sew = true →
    let n := fmtBits f.toNat s.sew / 8
    let at_ : Nat → Nat := fun e => place s (vecAddr s w.2 a b n e)
    let code : Nat → Nat × BitVec 6 := fun e => narrowElem f.toNat s.sew s.th.csr.frm.toNat (s.elem v.toNat e s.sew)
    (∀ e, Acts s k e → Placed s w.2 a b n e) →
    ∃ t, exec (w.1 v a b k c f) s = .next t ∧
      (∀ e i, Acts s k e → i < n → (∀ e', Acts s k e' → e < e' → at_ e + i < at_ e' ∨ at_ e' + n ≤ at_ e + i) →
        cellsRead t.scratch (at_ e + i) = BitVec.ofNat 8 ((code e).1 / 256 ^ i)) ∧
      (∀ y, (∀ e, Acts s k e → y < at_ e ∨ at_ e + n ≤ y) → cellsRead t.scratch y = cellsRead s.scratch y) ∧
      FlagsOf s t k (fun e => (code e).2) ∧ OnlyStored s t

/-- R101, R104, R132: sub-byte stores. -/
def Obligations.SubByteStores : Prop :=
  ∀ (s : State) (v a b : BitVec 5) (k : BitVec 3) (c f : BitVec 4),
    Ready s [(v.toNat, s.lmul)] [] [] → s.th.fencesOn (some c.toNat) = [] → fmtLegal f.toNat s.sew = true →
    let base := s.reg a + s.reg b
    let n := fmtBits f.toNat 16
    let code : Nat → Nat × BitVec 6 := fun e => narrowElem f.toNat s.sew s.th.csr.frm.toNat (s.elem v.toNat e s.sew)
    (f ∈ [5#4, 6#4, 9#4, 10#4] → (∀ e j, Acts s k e → j < n → InWindow s (stringByte base n 0 e j) 1) →
      ∃ t, exec (.vst v a b k c f) s = .next t ∧
        (∀ e j, Acts s k e → j < n →
          (cellsRead t.scratch (place s (stringByte base n 0 e j))).getLsbD (stringBit n 0 e j) = (code e).1.testBit j) ∧
        (∀ y q, q < 8 → (∀ e j, Acts s k e → j < n → place s (stringByte base n 0 e j) ≠ y ∨ stringBit n 0 e j ≠ q) →
          (cellsRead t.scratch y).getLsbD q = (cellsRead s.scratch y).getLsbD q) ∧
        FlagsOf s t k (fun e => (code e).2) ∧ OnlyStored s t) ∧
    (f = 11#4 → s.vstart < s.vl →
      let act : Nat → Bool := fun e => decide (e < s.vl) && s.th.active k.toNat e
      let blocks := (span (s.vstart / 8) ((s.vl + 7) / 8)).filter (fun i => (span (8 * i) (8 * i + 8)).all act)
      let block : Nat → List Nat × Nat × BitVec 6 := fun i =>
        encodeBlock s.th.csr.frm.toNat ((span (8 * i) (8 * i + 8)).map (fun e => (fmtOfSew s.sew).decode (s.elem v.toNat e s.sew)))
      let byte : Nat → Nat → Word := fun i j => base + BitVec.ofNat 64 (5 * i + j)
      (∀ i ∈ span (s.vstart / 8) ((s.vl + 7) / 8), i ∈ blocks ∨ ∀ e ∈ span (8 * i) (8 * i + 8), act e = false) →
      (∀ i ∈ blocks, ∀ j, j < 5 → InWindow s (byte i j) 1) →
      ∃ t, exec (.vst v a b k c f) s = .next t ∧
        (∀ i ∈ blocks, ∀ j, j < 5 →
          cellsRead t.scratch (place s (byte i j)) = BitVec.ofNat 8 (blockBytes (block i).1 (block i).2.1 / 256 ^ j)) ∧
        (∀ y, (∀ i ∈ blocks, ∀ j, j < 5 → place s (byte i j) ≠ y) → cellsRead t.scratch y = cellsRead s.scratch y) ∧
        t.th.csr.fflags = blocks.foldl (fun r i => r ||| (block i).2.2) s.th.csr.fflags ∧ OnlyStored s t)

/-- R114, R137 to R140, R147, R353: stream bindings. -/
def Obligations.StreamWords : Prop :=
  (∀ (s : State) (v a : BitVec 5) (d : BitVec 512) (shape : BitVec 256), Settled s → s.cv.vstart0 = 0 → v.toNat < s.th.nregs →
    (s.reg a).toNat % 64 = 0 → Recorded s (s.reg a) 64 d → (descKind d = 1 → Recorded s (descShape d) 32 shape) →
    (descKind d ≠ 1 → shape = 0) → descOk d shape = true → s.th.bind v.toNat ≠ none ∨ s.th.binds.length < 8 →
    ∃ t, exec (.sbind v a) s = .next t ∧ t.th.bind v.toNat = some ⟨v.toNat, d, 0, shape, false, 0, none, [], true⟩ ∧ OnlyBinding s t v) ∧
  (∀ (s : State) (v d a : BitVec 5), Settled s → v.toNat < s.th.nregs →
    (∃ t, exec (.sunbind v) s = .next t ∧ t.th.bind v.toNat = none ∧ OnlyBinding s t v) ∧
    Completes s (.send d v) d (((s.th.bind v.toNat).map (fun b => BitVec.ofNat 64 (streamTotal b.desc b.shape - b.pos))).getD 0) ∧
    Completes s (.spos d v) d (((s.th.bind v.toNat).map (fun b => BitVec.ofNat 64 b.pos)).getD 0) ∧
    (s.cv.vstart0 = 0 → ∃ t, exec (.sseek v a) s = .next t ∧ OnlyBinding s t v ∧
      t.th.bind v.toNat = (s.th.bind v.toNat).map (fun b =>
        { b with pos := min (s.reg a).toNat (streamTotal b.desc b.shape), place := none, ahead := [], fresh := true })) ∧
    (∀ b, s.th.bind v.toNat = some b → descKind b.desc = 2 → descWrite b.desc = false →
      b.attached = true ∨ s.attachments (clusterOf s.th.core) < 64 →
      ∃ t, exec (.decbind v a) s = .next t ∧ OnlyBinding s t v ∧
        t.th.bind v.toNat = some { b with attached := true, limit := (s.reg a).toNat, place := none, ahead := [] })) ∧
  (∀ (s : State) (v a : BitVec 5), Settled s → v.toNat < s.th.nregs → s.cv.vstart0 ≠ 0 → exec (.sbind v a) s = .next s ∧ exec (.sseek v a) s = .next s)

/-- R131 to R133, R241, R244, R246: one element of a vector load or store on translated memory: through the cluster cache, or for class 15
through the core's read-only path; refused at a device's register; at a network window a load waits for the port's answer (log 31); a
translation's fault is the element's own, and a page on the move is waited for. -/
def Obligations.VectorMemoryTranslated : Prop :=
  (∀ w ∈ vectorLoadWords, ∀ (s s1 : State) (v a b : BitVec 5) (k : BitVec 3) (c f : BitVec 4) (place : Place), w.2 ≠ .lane →
    Ready s (indexGroup s w.2 b) [(v.toNat, s.lmul)] [] → byteFmt f.toNat = true → fmtLegal f.toNat s.sew = true →
    (∀ g ∈ indexGroup s w.2 b, v.toNat + s.lmul ≤ g.1 ∨ g.1 + g.2 ≤ v.toNat) → OneElement s k →
    let n := fmtBits f.toNat s.sew / 8
    let e := s.vstart
    let va := vecAddr s w.2 a b n e
    va.toNat % n = 0 → s.resolve va n 0 e = (place, s1) → Settled s1 →
    let done : (Nat → Byte) → State → State → Prop := fun bytes m t => exec (w.1 v a b k c f) s = .next t ∧ ∃ x, x < 256 ^ n ∧
      (∀ i, i < n → BitVec.ofNat 8 (x / 256 ^ i) = bytes i) ∧ Elementwise m t v.toNat s.sew s.lmul k 0 (fun _ => (widenElem f.toNat s.sew x 0, 0))
    (∀ cl p attr, place = .at_ (.cluster cl p) attr → p % n = 0 → s1.damageAt (.cluster cl p) = none → (c = 15#4 → s1.roBad p = false) →
      ∃ m t bytes, done bytes m t ∧ SameMemory s1 m ∧ (∀ x ∈ m.damage, x ∈ s1.damage) ∧
        ((∀ i, i < n → bytes i = seenByte s1 cl (p + i)) ∨ (c = 15#4 ∧ ∀ i, i < n → HeldByte s1 p i (bytes i))) ∧
        (∀ cl' x, s1.hasRoom cl p = true ∨ cl' ≠ cl → seenByte m cl' x = seenByte s1 cl' x) ∧
        (c ≠ 15#4 → m.ro = s1.ro ∧ m.free = s1.free) ∧ OnlyCaches { s1 with ro := m.ro, free := m.free } m) ∧
    (∀ off attr, place = .at_ (.device off) attr → ∃ t, exec (w.1 v a b k c f) s = .next t ∧ Faulted s1 t 0x06 e (addrInfo va 0)) ∧
    (∀ port off attr, place = .at_ (.window port off) attr →
      let mine := s1.netIn.find? (fun x => x.uid == s.th.uid && x.port == port && x.off == off && x.size == n)
      (∀ x, mine = some x → ∃ m t, done (fun i => x.data.extractLsb' (8 * i) 8) m t ∧
        m = { s1 with netIn := s1.netIn.erase x, cv := { s1.cv with kept := m.cv.kept } }) ∧
      (mine = none → exec (w.1 v a b k c f) s = .next { s1 with cv := { s1.cv with
        wait := some (.network port off n, .request ⟨s.th.uid, port, off, n, false, 0⟩ e) } })) ∧
    (∀ cause info, place = .fault cause info → ∃ t, exec (w.1 v a b k c f) s = .next t ∧ Faulted s1 t cause e info) ∧
    (place = .stall → exec (w.1 v a b k c f) s = .next { s1 with cv := { s1.cv with wait := some (.page va 0, .nothing) } })) ∧
  (∀ w ∈ vectorStoreWords, ∀ (s s1 : State) (v a b : BitVec 5) (k : BitVec 3) (c f : BitVec 4) (place : Place), w.2 ≠ .lane →
    Ready s ((v.toNat, s.lmul) :: indexGroup s w.2 b) [] [] → byteFmt f.toNat = true → fmtLegal f.toNat s.sew = true → OneElement s k →
    let n := fmtBits f.toNat s.sew / 8
    let e := s.vstart
    let va := vecAddr s w.2 a b n e
    let code := narrowElem f.toNat s.sew s.th.csr.frm.toNat (s.elem v.toNat e s.sew)
    va.toNat % n = 0 → s.resolve va n 1 e = (place, s1) → Settled s1 → s1.th.fencesOn (some c.toNat) = [] →
    (∀ cl p attr, place = .at_ (.cluster cl p) attr → p % n = 0 → s1.lineLost p = false → s1.th.det = false →
      ∃ t, exec (w.1 v a b k c f) s = .next t ∧ (∀ i, i < n → seenByte t cl (p + i) = BitVec.ofNat 8 (code.1 / 256 ^ i)) ∧
        (s1.hasRoom cl p = true → SameMemory s1 t ∧ (∀ x ∈ t.damage, x ∈ s1.damage) ∧
          ∀ cl' x, cl' ≠ cl ∨ x < p ∨ p + n ≤ x → seenByte t cl' x = seenByte s1 cl' x) ∧
        t.th.csr.fflags = (s1.th.csr.fflags ||| code.2) ∧
        OnlyCaches { s1 with
          th := { s1.th with csr := { s1.th.csr with fflags := t.th.csr.fflags } }
          mem := t.mem, ro := t.ro, free := t.free, cv := { s1.cv with kept := t.cv.kept } } t) ∧
    (∀ off attr, place = .at_ (.device off) attr → ∃ t, exec (w.1 v a b k c f) s = .next t ∧ Faulted s1 t 0x06 e (addrInfo va 1)) ∧
    (∀ port off attr, place = .at_ (.window port off) attr → ∃ t, exec (w.1 v a b k c f) s = .next t ∧
      t = { s1 with
        th := { s1.th with csr := { s1.th.csr with fflags := s1.th.csr.fflags ||| code.2 } }
        netOut := s1.netOut ++ [⟨s1.th.uid, port, off, n, true, BitVec.ofNat 512 (code.1 % 256 ^ n)⟩]
        cv := { s1.cv with kept := t.cv.kept } }) ∧
    (∀ cause info, place = .fault cause info → ∃ t, exec (w.1 v a b k c f) s = .next t ∧ Faulted s1 t cause e info) ∧
    (place = .stall → exec (w.1 v a b k c f) s = .next { s1 with cv := { s1.cv with wait := some (.page va 1, .nothing) } })) ∧
  (∀ (s s1 : State) (v a b : BitVec 5) (k : BitVec 3) (c f : BitVec 4) (cl p : Nat) (attr : Nat) (bits : Bool),
    Ready s [] [(v.toNat, s.lmul)] [] → f ∈ [5#4, 6#4, 9#4, 10#4] → fmtLegal f.toNat s.sew = true → OneElement s k →
    let n := fmtBits f.toNat 16
    let o := if bits then (s.reg b).toNat else 0
    let e := s.vstart
    let va := stringByte (if bits then s.reg a else s.reg a + s.reg b) n o e 0
    o ≤ 7 → stringBit n o e 0 + n ≤ 8 → (s.notePages e [va]).resolve va 1 0 e = (.at_ (.cluster cl p) attr, s1) → Settled s1 →
    s1.damageAt (.cluster cl p) = none → (c = 15#4 → s1.roBad p = false) →
    ∃ m t x, exec (if bits then .vldb v a b k c f else .vld v a b k c f) s = .next t ∧ (x = seenByte s1 cl p ∨ (c = 15#4 ∧ HeldByte s1 p 0 x)) ∧
      SameMemory s1 m ∧ OnlyCaches { s1 with ro := m.ro, free := m.free } m ∧
      Elementwise m t v.toNat s.sew s.lmul k 0 (fun _ => (widenElem f.toNat s.sew (x.toNat / 2 ^ stringBit n o e 0 % 2 ^ n) 0, 0))) ∧
  (∀ (s : State) (v a b : BitVec 5) (k : BitVec 3) (c f : BitVec 4), byteFmt f.toNat = true → fmtLegal f.toNat s.sew = true → OneElement s k →
    isScratchAddr (s.reg a) = false →
    (Ready s [(b.toNat, s.lmul)] [(v.toNat, s.lmul)] [] → v.toNat + s.lmul ≤ b.toNat ∨ b.toNat + s.lmul ≤ v.toNat →
      ∃ t, exec (.vldl v a b k c f) s = .next t ∧ Faulted s t 0x06 s.vstart (addrInfo (s.reg a) 0)) ∧
    (Ready s [(v.toNat, s.lmul), (b.toNat, s.lmul)] [] [] →
      ∃ t, exec (.vstl v a b k c f) s = .next t ∧ Faulted s t 0x06 s.vstart (addrInfo (s.reg a) 1)))

/-- R139, R142 to R144: a word consumes a chunk of a stream before it reads, emits one after it has written, and where an element faults
exactly the positions below it have been delivered. -/
def Obligations.StreamChunks : Prop :=
  (∀ (s : State) (d a : BitVec 5) (k : BitVec 3) (l : BitVec 1) (b : Binding), OneStream s b → b.reg = a.toNat → descWrite b.desc = false →
    Ready (unboundOf s) [(a.toNat, s.lmul)] [(d.toNat, s.lmul), (a.toNat, s.lmul)] [] → ApartOrSame s d.toNat a.toNat →
    let n := chunkSize s b
    (∀ i, i < n → ChunkPlaced s b (b.pos + i) ∧ Sound s (affineAddr b.desc (b.pos + i))) →
    ∃ m t, exec (.vmv d a k l) s = .next t ∧ Consumed s m b n ∧
      Elementwise m t d.toNat s.sew s.lmul k 0 (fun e => (m.elem a.toNat e s.sew, 0))) ∧
  (∀ (s : State) (d a : BitVec 5) (k : BitVec 3) (l : BitVec 1) (b : Binding), OneStream s b → b.reg = a.toNat → descWrite b.desc = false →
    Ready (unboundOf s) [(a.toNat, s.lmul)] [(d.toNat, s.lmul), (a.toNat, s.lmul)] [] → ApartOrSame s d.toNat a.toNat →
    ∀ j, j < chunkSize s b → (∀ i, i < j → ChunkPlaced s b (b.pos + i) ∧ Sound s (affineAddr b.desc (b.pos + i))) →
    (affineAddr b.desc (b.pos + j)).toNat % chunkBytes s b ≠ 0 →
    ∃ t, exec (.vmv d a k l) s = .next t ∧
      t.cv.fault = some ⟨0x03, s.vstart + j, s.cv.word, addrInfo (affineAddr b.desc (b.pos + j)) 0⟩ ∧ t.th.binds = [movedBy b j] ∧
      (∀ i, i < j → s.th.active k.toNat (s.vstart + i) = true → t.elem d.toNat (s.vstart + i) s.sew =
        widenElem (descFmt b.desc) s.sew (scratchNat s (affineAddr b.desc (b.pos + i)) (chunkBytes s b)) 0) ∧
      (∀ e, s.vstart + j ≤ e → e < s.perReg s.sew * s.lmul → t.elem d.toNat e s.sew = s.elem d.toNat e s.sew)) ∧
  (∀ (s : State) (d a : BitVec 5) (k : BitVec 3) (l : BitVec 1) (b : Binding), OneStream s b → b.reg = d.toNat → descWrite b.desc = true →
    Ready (unboundOf s) [(a.toNat, s.lmul)] [(d.toNat, s.lmul)] [] → ApartOrSame s a.toNat d.toNat →
    s.th.fencesOn (some (descClass b.desc)) = [] →
    let n := chunkSize s b
    let bytes := chunkBytes s b
    let emits : Nat → Prop := fun e => Acts s k e ∧ e < s.vstart + n
    let at_ : Nat → Nat := fun e => place s (affineAddr b.desc (b.pos + (e - s.vstart)))
    let code : Nat → Nat × BitVec 6 := fun e => narrowElem (descFmt b.desc) s.sew s.th.csr.frm.toNat (s.elem a.toNat e s.sew)
    (∀ e, emits e → ChunkPlaced s b (b.pos + (e - s.vstart))) →
    ∃ m t, exec (.vmv d a k l) s = .next t ∧ Elementwise s m d.toNat s.sew s.lmul k 0 (fun e => (s.elem a.toNat e s.sew, 0)) ∧
      (∀ e i, emits e → i < bytes → (∀ e', emits e' → e < e' → at_ e + i < at_ e' ∨ at_ e' + bytes ≤ at_ e + i) →
        cellsRead t.scratch (at_ e + i) = BitVec.ofNat 8 ((code e).1 / 256 ^ i)) ∧
      (∀ y, (∀ e, emits e → y < at_ e ∨ at_ e + bytes ≤ y) → cellsRead t.scratch y = cellsRead s.scratch y) ∧
      t.th.csr.fflags = ((span s.vstart (s.vstart + n)).filter (fun e => s.th.active k.toNat e)).foldl (fun r e => r ||| (code e).2) s.th.csr.fflags ∧
      (∀ x ∈ t.damage, x ∈ s.damage) ∧
      t = { m with
        th := { m.th with csr := { m.th.csr with fflags := t.th.csr.fflags }, binds := [movedBy b n] }
        scratch := t.scratch, damage := t.damage, cv := t.cv } ∧
      t.cv = { s.cv with kept := t.cv.kept, marks := t.cv.marks })

/-- R121, R396: at retirement the group that L = 1 marks reads zero but for what the marking word or a later one wrote; until then it is
unchanged, and a convoy that faults applies no mark. -/
def Obligations.LastReadMarks : Prop :=
  (∀ (s : State) (d a : BitVec 5) (k : BitVec 3), Ready s [(a.toNat, s.lmul)] [(d.toNat, s.lmul)] [] → Retires s → s.cv.marks = [] →
    s.th.carried = [] →
    ∃ t, exec (.vmv d a k 1) s = .next t ∧ (d ≠ a → ∀ r, a.toNat ≤ r → r < a.toNat + s.lmul → vget t.th.vregs r 0 = vget s.th.vregs r 0) ∧
      ∀ (s0 : State) old words, let u := s0.endConvoy t old words
        (∀ r, r < a.toNat ∨ a.toNat + s.lmul ≤ r → vget u.th.vregs r 0 = vget t.th.vregs r 0) ∧
        (d ≠ a → ∀ r, a.toNat ≤ r → r < a.toNat + s.lmul → vget u.th.vregs r 0 = 0) ∧
        (d = a → ∀ e, e < s.perReg s.sew * s.lmul →
          (WroteElem s k e → u.elem a.toNat e s.sew = t.elem a.toNat e s.sew) ∧ (¬ WroteElem s k e → u.elem a.toNat e s.sew = 0))) ∧
  (∀ (s : State) (d a : BitVec 5) (k : BitVec 3), Ready s [(a.toNat, s.lmul)] [(d.toNat, s.lmul)] [] → Retires s → s.cv.marks = [] →
    ∃ t, exec (.vmv d a k 0) s = .next t ∧ ∀ (s0 : State) old words, (s0.endConvoy t old words).th.vregs = t.th.vregs) ∧
  (∀ (s : State) (d a b : BitVec 5) (k k2 : BitVec 3), Ready s [(a.toNat, s.lmul), (b.toNat, s.lmul)] [(d.toNat, s.lmul), (a.toNat, s.lmul)] [] →
    d ≠ a → Retires s → s.cv.marks = [] → s.th.carried = [] →
    ∃ t1 t, exec (.vmv d a k 1) s = .next t1 ∧ exec (.vmv a b k2 0) t1 = .next t ∧
      ∀ (s0 : State) old words, let u := s0.endConvoy t old words
        ∀ e, e < s.perReg s.sew * s.lmul →
          (WroteElem s k2 e → u.elem a.toNat e s.sew = t.elem a.toNat e s.sew) ∧ (¬ WroteElem s k2 e → u.elem a.toNat e s.sew = 0)) ∧
  (∀ (s0 u : State) (old : Nat) (words : List (Nat × BitVec 32)) (f : FaultRec), u.cv.wait = none → u.cv.fault = some f →
    u.cv.kept = [] → (s0.endConvoy u old words).th.vregs = s0.th.vregs)

/-- R395, R396: a convoy that faults at an element above vstart keeps what its words did below it and nothing else, and saves that element as
vstart; at vstart it keeps nothing. Of two faults the lower element's is taken, then the lower word's. -/
def Obligations.ConvoyFault : Prop :=
  (∀ w ∈ vectorLoadWords, ∀ (s0 s : State) (v a b : BitVec 5) (k : BitVec 3) (c f : BitVec 4) (e cause : Nat), After s0 s →
    Ready s (indexGroup s w.2 b) [(v.toNat, s.lmul)] [] → byteFmt f.toNat = true → fmtLegal f.toNat s.sew = true →
    (∀ g ∈ indexGroup s w.2 b, v.toNat + s.lmul ≤ g.1 ∨ g.1 + g.2 ≤ v.toNat) →
    let n := fmtBits f.toNat s.sew / 8
    StopsFirst s w.2 a b k n e cause →
    ∃ u m, exec (w.1 v a b k c f) s = .next u ∧ EndsIn s0 u m ⟨cause, e, s.cv.word, addrInfo (vecAddr s w.2 a b n e) 0⟩ ∧ Unwound s0 m e ∧
      m.scratch = s0.scratch ∧ m.damage = s0.damage ∧ m.th.masks = s0.th.masks ∧ m.th.csr.fflags = s0.th.csr.fflags ∧
      (∀ i, s.vstart ≤ i → i < e → m.elem v.toNat i s.sew = if s.th.active k.toNat i then
          widenElem f.toNat s.sew (scratchNat s (vecAddr s w.2 a b n i) n) 0
        else if s.ma then 2 ^ s.sew - 1 else s0.elem v.toNat i s.sew) ∧
      (∀ i, i < s.vstart ∨ e ≤ i → i < s.perReg s.sew * s.lmul → m.elem v.toNat i s.sew = s0.elem v.toNat i s.sew) ∧
      (∀ r, r < v.toNat ∨ v.toNat + s.lmul ≤ r → vget m.th.vregs r 0 = vget s0.th.vregs r 0)) ∧
  (∀ w ∈ vectorStoreWords, ∀ (s0 s : State) (v a b : BitVec 5) (k : BitVec 3) (c f : BitVec 4) (e cause : Nat), After s0 s →
    Ready s ((v.toNat, s.lmul) :: indexGroup s w.2 b) [] [] → s.th.fencesOn (some c.toNat) = [] → byteFmt f.toNat = true → fmtLegal f.toNat s.sew = true →
    let n := fmtBits f.toNat s.sew / 8
    let at_ : Nat → Nat := fun i => place s (vecAddr s w.2 a b n i)
    let code : Nat → Nat × BitVec 6 := fun i => narrowElem f.toNat s.sew s.th.csr.frm.toNat (s.elem v.toNat i s.sew)
    let stands : Nat → Prop := fun i => Acts s k i ∧ i < e
    StopsFirst s w.2 a b k n e cause →
    ∃ u m, exec (w.1 v a b k c f) s = .next u ∧ EndsIn s0 u m ⟨cause, e, s.cv.word, addrInfo (vecAddr s w.2 a b n e) 1⟩ ∧ Unwound s0 m e ∧
      m.th.vregs = s0.th.vregs ∧ m.th.masks = s0.th.masks ∧ (∀ x ∈ m.damage, x ∈ s0.damage) ∧
      m.th.csr.fflags = ((span s.vstart e).filter (fun i => s.th.active k.toNat i)).foldl (fun r i => r ||| (code i).2) s0.th.csr.fflags ∧
      (∀ i j, stands i → j < n → (∀ i', stands i' → i < i' → at_ i + j < at_ i' ∨ at_ i' + n ≤ at_ i + j) →
        cellsRead m.scratch (at_ i + j) = BitVec.ofNat 8 ((code i).1 / 256 ^ j)) ∧
      (∀ y, (∀ i, stands i → y < at_ i ∨ at_ i + n ≤ y) → cellsRead m.scratch y = cellsRead s0.scratch y)) ∧
  (∀ (s0 u : State) (f : FaultRec), u.cv.wait = none → u.cv.fault = some f → f.elem = u.cv.vstart0 → f.cause ≠ 0x07 →
    (u.coreRec s0.th.core).diag = (s0.coreRec s0.th.core).diag →
    ∀ old words, ∃ m, s0.endConvoy u old words = { m.takeTrap u.cv.addr f with cv := Convoy.empty } ∧ Unwound s0 m f.elem ∧
      m.th.vregs = s0.th.vregs ∧ m.th.masks = s0.th.masks ∧ m.th.csr.fflags = s0.th.csr.fflags ∧ m.scratch = s0.scratch ∧ m.damage = s0.damage) ∧
  (∀ (s : State) (cause e : Nat) (info : Word) (f : FaultRec), s.cv.fault = some f →
    (s.raise cause e info).cv.fault = some (if e < f.elem then ⟨cause, e, s.cv.word, info⟩ else f))

/-- R190, R194, R201, R202, R208. -/
def Obligations.DiagConfiguration : Prop :=
  ∀ (s : State) (x : BitVec 3) (c : BitVec 5), Settled s → x.toNat < s.th.naccs →
    let g := s.reg c
    let fits := x.toNat % cfgSpan g = 0 ∧ x.toNat + cfgSpan g ≤ s.th.naccs
    let own := s.th.cfg x.toNat
    (Drained s → cfgOk g = true → fits → ∃ t, exec (.dcfg x c) s = .next t ∧ OnlyAccs s t ∧ ∀ j, j < 8 →
      ((x.toNat ≤ j ∧ j < x.toNat + cfgSpan g) → t.th.cfg j = g ∧ vget t.th.accs j 0 = 0) ∧
      (¬(x.toNat ≤ j ∧ j < x.toNat + cfgSpan g) →
        (SpanHits s x.toNat (cfgSpan g) j → t.th.cfg j = defaultAccCfg ∧ vget t.th.accs j 0 = 0) ∧
        (¬ SpanHits s x.toNat (cfgSpan g) j → t.th.cfg j = s.th.cfg j ∧ vget t.th.accs j 0 = vget s.th.accs j 0))) ∧
    (cfgOk g = false → ∃ t, exec (.dcfg x c) s = .next t ∧ Faulted s t 0x0B s.cv.vstart0 1) ∧
    (cfgOk g = true → ¬ fits → ∃ t, exec (.dcfg x c) s = .next t ∧ Faulted s t 0x0B s.cv.vstart0 2) ∧
    (s.th.spanHead x.toNat = x.toNat →
      (Drained s → ∃ t, exec (.dzero x) s = .next t ∧ OnlyAccs s t ∧ t.th.accCfg = s.th.accCfg ∧
        ∀ j, j < 8 → vget t.th.accs j 0 = if x.toNat ≤ j ∧ j < x.toNat + cfgSpan own then 0 else vget s.th.accs j 0) ∧
      (∃ n, n ≤ (cfgQ own * cfgL own + 63) / 64 ∧ (Drained s → n = (cfgQ own * cfgL own + 63) / 64) ∧
        Completes s (.dwmark x c) c (BitVec.ofNat 64 n))) ∧
    (s.th.spanHead x.toNat ≠ x.toNat → ∀ i ∈ [Instr.dzero x, .dwmark x c], ∃ t, exec i s = .next t ∧ Faulted s t 0x0B s.cv.vstart0 3)

/-- R193, R194, R196, R203 to R205: accumulating words at issue. What a word adds when it completes is said of DIAG_WORD_COMPLETION. -/
def Obligations.DiagAccumulate : Prop :=
  ∀ (s : State) (x k : BitVec 3) (a b c : BitVec 5), Spanned s x → s.sew ≠ 64 →
    let g := s.th.cfg x.toNat
    let o := s.reg c
    let word : Nat → List (BitVec 32768) → List (BitVec 32768) → MaskReg → DiagWord :=
      fun fn p q m => ⟨s.th.uid, fn, x.toNat, g, m, s.sew, s.perReg s.sew, s.vl, p, q, o, 0⟩
    let target : Int := (o.setWidth 16).toInt + (o.extractLsb' 16 16).toInt - cfgO g
    let fault : Instr → Nat → Word → Prop := fun i cause info => ∃ t, exec i s = .next t ∧ Faulted s t cause s.cv.vstart0 info
    (Ready s [(a.toNat, s.lmul), (b.toNat, s.lmul)] [] [] →
      (cfgMode g = 0 → opField o 48 16 = 0 → ((0 ≤ target ∧ target < cfgQ g) ∨ cfgFaults g = false) →
        ∃ t, exec (.dmac x k a b c) s = .next t ∧ Accepted s t (word 2 (rowsOf s a s.lmul) (rowsOf s b s.lmul) (s.th.mask k.toNat))) ∧
      (cfgMode g = 0 → opField o 48 16 = 0 → ¬(0 ≤ target ∧ target < cfgQ g) → cfgFaults g = true →
        fault (.dmac x k a b c) 0x0A (BitVec.ofInt 64 ((o.setWidth 16).toInt + (o.extractLsb' 16 16).toInt))) ∧
      (cfgMode g ≠ 0 → fault (.dmac x k a b c) 0x0B 4) ∧
      (cfgMode g = 0 → opField o 48 16 ≠ 0 → fault (.dmac x k a b c) 0x0B 7) ∧
      (opField o 16 12 < cfgQ g → opField o 28 36 = 0 →
        ∃ t, exec (.dmacs x k a b c) s = .next t ∧ Accepted s t (word 3 (rowsOf s a s.lmul) (rowsOf s b s.lmul) (s.th.mask k.toNat))) ∧
      (cfgQ g ≤ opField o 16 12 → fault (.dmacs x k a b c) 0x0B 5) ∧
      (opField o 16 12 < cfgQ g → opField o 28 36 ≠ 0 → fault (.dmacs x k a b c) 0x0B 7)) ∧
    (Ready s [(b.toNat, s.lmul)] [] [] →
      (opField o 16 12 < cfgQ g → opField o 28 20 = 0 →
        ∃ t, exec (.dmact x k b c) s = .next t ∧ Accepted s t (word 4 [] (rowsOf s b s.lmul) (s.th.mask k.toNat))) ∧
      (cfgQ g ≤ opField o 16 12 → fault (.dmact x k b c) 0x0B 5) ∧
      (opField o 16 12 < cfgQ g → opField o 28 20 ≠ 0 → fault (.dmact x k b c) 0x0B 7)) ∧
    (Ready s [(a.toNat, 1), (b.toNat, 1)] [] [] →
      let n := o.toNat % 256
      let r := max 1 (n * n / s.perReg s.sew)
      let matched := cfgMode g = 1 ∧ cfgL g = n ∧ cfgQ g = n ∧ cfgO g = 0 ∧ cfgN g = n ∧ cfgSpan g = max 1 (n * n / 2048)
      let fits : BitVec 5 → Prop := fun v => v.toNat % r = 0 ∧ v.toNat + r ≤ s.th.nregs
      let shaped := n ∈ [32, 64, 128] ∧ r ≤ 8 ∧ fits a ∧ fits b
      (¬ matched → fault (.dmm x a b c) 0x0B 4) ∧
      (matched → ¬ shaped → fault (.dmm x a b c) 0x0B 6) ∧
      (matched → shaped → 256 ≤ o.toNat → fault (.dmm x a b c) 0x0B 7) ∧
      (matched → shaped → o.toNat < 256 →
        ∃ t, exec (.dmm x a b c) s = .next t ∧ Accepted s t (word 5 (rowsOf s a r) (rowsOf s b r) (.bitmap 0))))

/-- R206, R207: readout and writeback. -/
def Obligations.DiagReadback : Prop :=
  ∀ (s : State) (x k : BitVec 3) (a c : BitVec 5), Spanned s x → s.sew ≠ 64 → Drained s →
    let g := s.th.cfg x.toNat
    let f := (s.reg c).toNat
    let void : Nat → Bool := fun y => cfgMode g = 0 &&
      (((y % cfgL g : Nat) : Int) + cfgO g + ((y / cfgL g : Nat) : Int) < 0 || (cfgN g : Int) ≤ ((y % cfgL g : Nat) : Int) + cfgO g + ((y / cfgL g : Nat) : Int))
    let get : State → Nat → Nat := fun u y => ((vget u.th.accs (x.toNat + y / 2048) 0).extractLsb' (y % 2048 * 32) 32).toNat
    (f + s.vl ≤ cfgQ g * cfgL g →
      (Ready s [] [(a.toNat, s.lmul)] [] → ∃ t, exec (.drd x k a c) s = .next t ∧
        Elementwise s t a.toNat s.sew s.lmul k 0 (fun e =>
          let v := if void (f + e) then 0 else get s (f + e)
          if s.sew = 16 then fmtBF16.encode s.th.csr.frm.toNat (fmtF32.decode v) else (v, 0))) ∧
      (Ready s [(a.toNat, s.lmul)] [] [] → ∃ t, exec (.dwr x k a c) s = .next t ∧
        (∀ e, Acts s k e → get t (f + e) = if void (f + e) then 0 else widen32 (fmtOfSew s.sew) (s.elem a.toNat e s.sew)) ∧
        (∀ y, y < 2048 * cfgSpan g → (∀ e, Acts s k e → y ≠ f + e) → get t y = get s y) ∧
        (∀ j, j < x.toNat ∨ x.toNat + cfgSpan g ≤ j → vget t.th.accs j 0 = vget s.th.accs j 0) ∧
        t = { s with th := { s.th with accs := t.th.accs }, cv := { s.cv with kept := t.cv.kept } })) ∧
    (cfgQ g * cfgL g < f + s.vl →
      (Ready s [] [(a.toNat, s.lmul)] [] → ∃ t, exec (.drd x k a c) s = .next t ∧ Faulted s t 0x0B s.cv.vstart0 5) ∧
      (Ready s [(a.toNat, s.lmul)] [] [] → ∃ t, exec (.dwr x k a c) s = .next t ∧ Faulted s t 0x0B s.cv.vstart0 5))

/-- R217 to R225: token trees. -/
def Obligations.TreeWords : Prop :=
  (∀ (tr : Tree) (i : Nat), nodesOk tr.nodes = true → i < tr.nodes.length → IsPath tr i (tr.path i)) ∧
  (∀ (s : State) (d r b : BitVec 5), TreeReady s r →
    let tr := s.th.tree
    let n := tr.nodes.length
    let x := (s.reg b).toNat
    let origin : Nat → Nat := fun a => ((tr.nodes[a]?).map (·.origin)).getD 0
    (s.cv.vstart0 ≠ 0 →
      (∀ i ∈ [Instr.ttclr r b, .ttprune d r b, .ttcommit d r b], exec i s = .next { s with cv := { s.cv with trees := (1, true) } }) ∧
      (Ready s [(b.toNat, s.lmul)] [] [] → ∃ t, exec (.ttadd d r b) s = .next t ∧
        t = { s with cv := { s.cv with trees := (1, true), whole := t.cv.whole } })) ∧
    (s.cv.vstart0 = 0 →
      (∃ t, exec (.ttclr r b) s = .next t ∧ t.th.tree = ⟨(s.reg b).setWidth 40, []⟩ ∧ t.th.regs = s.th.regs ∧ OnlyTree s t) ∧
      (Ready s [(b.toNat, s.lmul)] [] [] → n ≤ 64 → ∃ t m, exec (.ttadd d r b) s = .next t ∧ OnlyTree s t ∧ Wrote s t d (BitVec.ofNat 64 m) ∧
        t.th.tree = ⟨tr.base, tr.nodes ++ (List.range m).map (fun e =>
          (⟨if addedParent s b e = -1 then none else some (addedParent s b e).toNat, n + e⟩ : TreeNode))⟩ ∧
        m ≤ s.vl ∧ (∀ e, e < m → addable s b n e) ∧ (m < s.vl → ¬ addable s b n m)) ∧
      (x < n → ∃ t, exec (.ttprune d r b) s = .next t ∧ OnlyTree s t ∧ Wrote s t d (BitVec.ofNat 64 (tr.path x).length) ∧
        t.th.tree = ⟨tr.base, (tr.path x).zipIdx.map (fun p => (⟨if p.2 = 0 then none else some (p.2 - 1), origin p.1⟩ : TreeNode))⟩) ∧
      (n ≤ x → ∃ t, exec (.ttprune d r b) s = .next t ∧ OnlyTree s t ∧ Wrote s t d 0 ∧ t.th.tree = ⟨tr.base, []⟩) ∧
      (∃ t c, exec (.ttcommit d r b) s = .next t ∧ OnlyTree s t ∧ Wrote s t d (BitVec.ofNat 64 c) ∧
        t.th.tree = ⟨BitVec.ofNat 40 (min (tr.base.toNat + c) (2 ^ 40 - 1)), []⟩ ∧ c ≤ x ∧ c ≤ n ∧
        (∀ i, i < c → (tr.nodes[i]?).bind (·.parent) = if i = 0 then none else some (i - 1)) ∧
        (c < x → c < n → (tr.nodes[c]?).bind (·.parent) ≠ if c = 0 then none else some (c - 1)))) ∧
    (Ready s [] [] [d.toNat] → d.toNat ≤ 7 → ∃ t, exec (.ttmask d r b) s = .next t ∧
      (d ≠ 0 → ∀ e, e < s.vl → t.th.active d.toNat e = decide (e < n ∧ x ≤ e ∧ (e - x) ∈ tr.path e)) ∧
      (∀ e, s.vl ≤ e → e < 16384 → t.th.active d.toNat e = ((s.ta && s.vl != 0) || s.th.active d.toNat e)) ∧
      (∀ m, m ≠ d.toNat ∨ m = 0 → t.th.mask m = s.th.mask m) ∧
      t = { s with th := { s.th with masks := t.th.masks }, cv := { s.cv with trees := (1, s.cv.trees.2) } }) ∧
    (Ready s [] [(d.toNat, s.lmul)] [] →
      (∃ t, exec (.ttpos d r) s = .next t ∧
        TreeVector s t d (fun e => if e < n then tr.base.toNat + (tr.path e).length - 1 else 2 ^ s.sew - 1)) ∧
      (∃ t, exec (.ttpath d r b) s = .next t ∧
        TreeVector s t d (fun e => if x < n then (((tr.path x)[e]?).map origin).getD (2 ^ s.sew - 1) else 2 ^ s.sew - 1))) ∧
    (∃ t, exec (.ttcount d r) s = .next t ∧ Wrote s t d (BitVec.ofNat 64 (tr.base.toNat * 256 + n)) ∧
      t = { s with th := { s.th with regs := t.th.regs }, cv := { s.cv with trees := (1, s.cv.trees.2) } }))

/-- R227 to R236: the radix walker and the caddy. That KVHINT and KVDROP leave no bit in a page-table entry and no copy of a translation is
the model's reading (log 50), and that a dropped block keeps its tag its choice (log 73). -/
def Obligations.KvWords : Prop :=
  (∀ (s : State) (d a b : BitVec 5) (k : BitVec 3) (l : BitVec 1), Ready s [(a.toNat, s.lmul)] [(d.toNat, s.lmul)] [] → s.sew = 64 →
    d.toNat + s.lmul ≤ a.toNat ∨ a.toNat + s.lmul ≤ d.toNat →
    let desc := s.reg b
    (desc.toNat % 16 ≠ 0 → ∃ t, exec (.kvwalk d a b k l) s = .next t ∧ Elementwise s t d.toNat 64 s.lmul k 0 (fun _ => (2 ^ 64 - 1, 0))) ∧
    (∀ (base entries : Word) (id : BitVec 32) (start len ref row : Nat) (node : BitVec 512) (entry : Nat → BitVec 64),
      desc.toNat % 16 = 0 → base.toNat % 64 = 0 → Recorded s desc 16 (base.setWidth 128 ||| (1#128 <<< 64)) → Recorded s (desc + 16) 4 id →
      node.toNat = start + len * 2 ^ 64 + ref * 2 ^ 128 + row * 2 ^ 160 + entries.toNat * 2 ^ 192 + (node.toNat / 2 ^ 256) * 2 ^ 256 →
      start < 2 ^ 64 → 1 ≤ len → len < 2 ^ 32 → ref < 2 ^ 32 → 4 ≤ row → row ≤ 1024 → row % 4 = 0 → entries.toNat % 8 = 0 →
      Recorded s (base + BitVec.ofNat 64 (64 * id.toNat)) 64 node →
      (∀ e, Acts s k e → start ≤ s.elem a.toNat e 64 → s.elem a.toNat e 64 < start + len →
        Recorded s (entries + BitVec.ofNat 64 (8 * ((s.elem a.toNat e 64 - start) / 16))) 8 (entry e)) →
      ∃ t, exec (.kvwalk d a b k l) s = .next t ∧
        Elementwise s { t with dies := s.dies } d.toNat 64 s.lmul k 0 (fun e =>
          let p := s.elem a.toNat e 64
          (if start ≤ p ∧ p < start + len ∧ (entry e).toNat % 16384 = 0 then ((entry e).toNat + (p - start) % 16 * row) % 2 ^ 64
           else 2 ^ 64 - 1, 0)) ∧
        (∀ i, t.die i = { s.die i with caddy := (t.die i).caddy }))) ∧
  (∀ (s : State) (a b : BitVec 5) (k : BitVec 3) (l : BitVec 1), Ready s [(a.toNat, s.lmul)] [] [] → s.sew = 64 →
    ((∀ e, Acts s k e → InWindow s (BitVec.ofNat 64 (s.elem a.toNat e 64)) 8) →
      (s.reg b).toNat ≤ 1 → ∀ i ∈ [Instr.kvhint a b k l, .kvdrop a k l],
        ∃ t, exec i s = .next t ∧ t = { s with cv := { s.cv with marks := t.cv.marks } }) ∧
    (1 < (s.reg b).toNat → ∃ t, exec (.kvhint a b k l) s = .next t ∧
      Faulted s t 0x01 s.cv.vstart0 (s.cv.raw.zeroExtend 64 + 7#64 * BitVec.ofNat 64 (2 ^ 32)))) ∧
  (∀ (s s0 : State) (a b : BitVec 5) (cl p attr : Nat), Ready s [(a.toNat, s.lmul)] [] [] → s.sew = 64 → s.vl = 1 → s.vstart = 0 →
    (s.reg b).toNat ≤ 1 →
    let va := BitVec.ofNat 64 (s.elem a.toNat 0 64)
    let d := dieOf s.th.core
    let s1 : State := { s0 with cv := { s0.cv with kept := s.cv.kept }, mem := s.mem, tlb := s.tlb, slices := s.slices, walks := s.walks }
    s.resolve va 8 0 0 = (.at_ (.cluster cl p) attr, s0) → isScratchAddr va = false → va.toNat % 65536 ≤ 65528 → p % 2 ^ 43 < 7 * 2 ^ 40 → d < 8 →
    let old := (s1.die d).caddy.find? (fun y => y.tag == p / 16384)
    (∃ t, exec (.kvhint a b 0 0) s = .next t ∧ OnlyCaddy s1 t d ∧
      ∃ y ∈ (t.die d).caddy, y.tag = p / 16384 ∧ y.protect = (decide (s.reg b = 1) || (old.map (·.protect)).getD false)) ∧
    (∃ t, exec (.kvdrop a 0 0) s = .next t ∧ OnlyCaddy s1 t d ∧
      ∀ y ∈ (t.die d).caddy, y.tag = p / 16384 → y.protect = false ∧ y.valid = 0))

/-- R271, R294 to R297: scalar atomics, in the scratchpad, and in memory at the cluster cache or at the line's home. The class-15 load that
may see the place as it stood before the store (R258) is a free choice of the model (log 11). -/
def Obligations.ScalarAtomics : Prop :=
  (∀ w ∈ amoWords, ∀ (s : State) (d a b : BitVec 5) (sc : BitVec 4) (o : BitVec 2) (v : BitVec 1),
    let n := if v = 1#1 then 8 else 4
    let r := released s sc (o.getLsbD 1) (s.reg a) 2
    let u := acquired r sc (o.getLsbD 0)
    let old := scratchNat s (s.reg a) n
    Settled s → Fresh s sc → AtomicPlaced s (s.reg a) n → r.goes = true →
    ∃ t, exec (w.1 d a b sc o v) s = .next t ∧ Wrote s t d (sextBytes n old) ∧
      Stored s t (s.reg a) n (w.2 (8 * n) old ((s.reg b).toNat % 2 ^ (8 * n)) ((s.reg d).toNat % 2 ^ (8 * n))) ∧
      t = { u with th := { u.th with regs := t.th.regs }, scratch := t.scratch }) ∧
  (∀ (s : State) (d a b : BitVec 5) (sc : BitVec 4) (o : BitVec 2),
    let r := released s sc (o.getLsbD 1) (s.reg a) 2
    let u := acquired r sc (o.getLsbD 0)
    let old := scratchNat s (s.reg a) 4
    let sum := fpAdd fmtF32 0 old ((s.reg b).toNat % 2 ^ 32)
    (Settled s → Fresh s sc → AtomicPlaced s (s.reg a) 4 → r.goes = true → s.th.det = false →
      ∃ t, exec (.amofadd d a b sc o) s = .next t ∧ Wrote s t d (BitVec.ofNat 64 old) ∧ Stored s t (s.reg a) 4 sum.1 ∧
        t.th.csr.fflags = (s.th.csr.fflags ||| sum.2) ∧
        t = { u with th := { u.th with regs := t.th.regs, csr := { u.th.csr with fflags := t.th.csr.fflags } }, scratch := t.scratch }) ∧
    (Settled s → s.th.det = true → ∃ t, exec (.amofadd d a b sc o) s = .next t ∧ Faulted s t 0x0E s.cv.vstart0 2)) ∧
  (∀ (s : State) (d a b : BitVec 5) (sc : BitVec 4) (o v : BitVec 1),
    let n := if v = 1#1 then 8 else 4
    let u := acquired s sc (o = 1#1)
    let r := released s sc (o = 1#1) (s.reg a) 1
    Settled s → Fresh s sc → AtomicPlaced s (s.reg a) n →
    (∃ t, exec (.lda d a sc o v) s = .next t ∧ Wrote s t d (sextBytes n (scratchNat s (s.reg a) n)) ∧
      t = { u with th := { u.th with regs := t.th.regs } }) ∧
    (r.goes = true → ∃ t, exec (.stl a b sc o v) s = .next t ∧ Stored s t (s.reg a) n ((s.reg b).toNat % 2 ^ (8 * n)) ∧
      t = { r with scratch := t.scratch })) ∧
  (∀ w ∈ amoWords, ∀ (s s1 : State) (d a b : BitVec 5) (sc : BitVec 4) (o : BitVec 2) (v : BitVec 1) (cl p attr : Nat),
    let n := if v = 1#1 then 8 else 4
    let place := s1.atomicPlace sc.toNat (.cluster cl p) attr true
    let home := place = .through cl p
    let v' : State := if home then s1.evictSector cl p else s1
    let r := released v' sc (o.getLsbD 1) (s.reg a) 2
    let w1 : State := if home then r.evictSector cl p else (r.readAt place n).2
    let old : Nat := if home then w1.homeRead p n else (r.readAt place n).1
    let e := w1.roEarly cl p
    let new := w.2 (8 * n) old ((s.reg b).toNat % 2 ^ (8 * n)) ((s.reg d).toNat % 2 ^ (8 * n))
    let kept : State := if home then w1.ownRead (w1.homeAgent p) p else w1
    let stored : State :=
      if home then ((e.evictSector cl p).ownRead (w1.homeAgent p) p).homeWrite p new (2 ^ (8 * n) - 1) n
      else e.writeAt place new (2 ^ (8 * n) - 1) n
    Settled s → Fresh s sc → (s.reg a).toNat % n = 0 → s.resolve (s.reg a) n 2 s.cv.vstart0 = (.at_ (.cluster cl p) attr, s1) →
    v'.damageAt place = none → r.goes = true →
    ∃ z, (new = old ∧ z = kept ∨ z = stored) ∧
      exec (w.1 d a b sc o v) s = .next ((acquired z sc (o.getLsbD 0)).setReg d (sextBytes n old)))

/-- R298 to R300: vector atomics. That VSCADD adds in either order is what R300 leaves open (log 16). -/
def Obligations.VectorAtomics : Prop :=
  (∀ w ∈ vamoWords, ∀ (s : State) (v a b : BitVec 5) (k : BitVec 3) (sc : BitVec 4),
    let n := s.sew / 8
    let x : Nat → Word := fun e => s.reg a + BitVec.ofNat 64 (s.elem b.toNat e s.sew)
    let y : Nat → Nat := fun e => s.elem v.toNat e s.sew
    let op : Nat → Nat → Nat := fun m e => (w.2.2.2 s.sew m (y e)).1
    Ready s [(v.toNat, s.lmul), (b.toNat, s.lmul)] [(v.toNat, s.lmul)] [] → s.sew ∈ w.2.1 → (w.2.2.1 = true → s.th.det = false) →
    v.toNat + s.lmul ≤ b.toNat ∨ b.toNat + s.lmul ≤ v.toNat → Fresh s sc → s.th.fencesOn none = [] → (∀ e, Acts s k e → AtomicPlaced s (x e) n) →
    ∃ t, exec (w.1 v a b k sc) s = .next t ∧
      Elementwise s { t with scratch := s.scratch } v.toNat s.sew s.lmul k 0
        (fun e => (found s k x n op e, (w.2.2.2 s.sew (found s k x n op e) (y e)).2)) ∧
      (∀ e, Acts s k e → (∀ i, Acts s k i → e < i → x i ≠ x e) → scratchNat t (x e) n = op (found s k x n op e) e) ∧
      (∀ z, (∀ e, Acts s k e → z < place s (x e) ∨ place s (x e) + n ≤ z) → cellsRead t.scratch z = cellsRead s.scratch z)) ∧
  (∀ (s : State) (v a b : BitVec 5) (k : BitVec 3) (sc : BitVec 4),
    let x : Nat → Word := fun e => s.reg a + BitVec.ofNat 64 (s.elem b.toNat e s.sew)
    let y : Nat → Nat := fun e => asFp32 s.sew (s.elem v.toNat e s.sew)
    Ready s [(v.toNat, s.lmul), (b.toNat, s.lmul)] [] [] → s.sew ≠ 64 → s.th.det = false →
    v.toNat + s.lmul ≤ b.toNat ∨ b.toNat + s.lmul ≤ v.toNat → Fresh s sc → s.th.fencesOn none = [] → (∀ e, Acts s k e → AtomicPlaced s (x e) 4) →
    (∀ e i, Acts s k e → Acts s k i → x e = x i → e = i) →
    ∃ (t : State) (r : Nat → Nat × BitVec 6), exec (.vscadd v a b k sc) s = .next t ∧
      (∀ e, Acts s k e → (r e = fpAdd fmtF32 0 (scratchNat s (x e) 4) (y e) ∨ r e = fpAdd fmtF32 0 (y e) (scratchNat s (x e) 4)) ∧
        scratchNat t (x e) 4 = (r e).1) ∧
      (∀ z, (∀ e, Acts s k e → z < place s (x e) ∨ place s (x e) + 4 ≤ z) → cellsRead t.scratch z = cellsRead s.scratch z) ∧
      FlagsOf s t k (fun e => (r e).2) ∧
      t = { s with
        th := { s.th with csr := { s.th.csr with fflags := t.th.csr.fflags } }
        scratch := t.scratch
        free := t.free
        cv := { s.cv with kept := t.cv.kept } })

/-- R301 to R304: accumulation windows. -/
def Obligations.AccumulationWindows : Prop :=
  (∀ (s s1 : State) (a b : BitVec 5) (sc : BitVec 4) (l : Launch),
    let n := (s.reg b).toNat
    Settled s → Fresh s sc →
    ((s.reg a).toNat % 4 = 0 → n % 4 = 0 → n ≠ 0 → n ≤ 2 ^ 32 → s.windows.length < 8 →
      (∀ w ∈ s.windows, (s.reg a).toNat + n ≤ w.1.toNat ∨ w.1.toNat + w.2 ≤ (s.reg a).toNat) →
      s.probePages (pagesOf (s.reg a) n) = s1 → s1.goes = true → s1.clusterLocal s1.th sc.toNat = true → s1.launch s1.th.launch = some l →
      ∃ t, exec (.accw a b sc) s = .next t ∧ t.launch s1.th.launch = some { l with windows := (s.reg a, n) :: l.windows } ∧
        (∀ id, id ≠ s1.th.launch → t.launch id = s1.launch id) ∧ t = { s1 with launches := t.launches }) ∧
    ((s.reg a).toNat % 4 ≠ 0 ∨ n % 4 ≠ 0 ∨ n = 0 ∨ 2 ^ 32 < n → ∃ t, exec (.accw a b sc) s = .next t ∧
      Faulted s t 0x01 s.cv.vstart0 (s.cv.raw.zeroExtend 64 + 7#64 * BitVec.ofNat 64 (2 ^ 32)))) ∧
  (∀ (s s1 : State) (v a b : BitVec 5) (sc : BitVec 4) (cl p attr : Nat) (l : Launch),
    Ready s [(v.toNat, s.lmul), (b.toNat, s.lmul)] [] [] → s.sew ≠ 64 → s.vl = 1 → s.vstart = 0 → Fresh s sc →
    v.toNat + s.lmul ≤ b.toNat ∨ b.toNat + s.lmul ≤ v.toNat →
    let va := s.reg a + BitVec.ofNat 64 (s.elem b.toNat 0 s.sew)
    let word := va.toNat / 4
    let rank := s.th.threadNo.toNat
    let x := asFp32 s.sew (s.elem v.toNat 0 s.sew)
    let before := ((l.partials.find? (fun q => q.word == word && q.rank == rank)).map (fun q => q.val.toNat)).getD 0x80000000
    va.toNat % 4 = 0 → s.resolve va 4 2 0 = (.at_ (.cluster cl p) attr, s1) → s1.launch s1.th.launch = some l → l.id = s1.th.launch →
    s1.th.threadNo = s.th.threadNo → (∃ w ∈ l.windows, w.1.toNat ≤ va.toNat ∧ va.toNat + 4 ≤ w.1.toNat + w.2) → l.tagLines (sliceOf (p / 4)) < 16384 →
    let place := s1.atomicPlace sc.toNat (.cluster cl p) attr true
    let u : State := if place = .through cl p then s1.evictSector cl p else s1
    let z : State := if place = .through cl p then u.ownRead (u.homeAgent p) p else u
    u.damageAt place = none → s1.th.fencesOn none = [] →
    ∃ t l', exec (.vacc v a b 0 sc) s = .next t ∧ t.launch l.id = some l' ∧
      (∃ q ∈ l'.partials, q.word = word ∧ q.rank = rank ∧ q.val = BitVec.ofNat 32 (fpAdd fmtF32 0 before x).1) ∧
      (∀ q, q.word ≠ word ∨ q.rank ≠ rank → (q ∈ l'.partials ↔ q ∈ l.partials)) ∧
      t = { z with launches := t.launches, cv := { z.cv with kept := t.cv.kept } }) ∧
  (∀ (s : State) (a : BitVec 5) (sc : BitVec 4) (l : Launch) (w : Word × Nat), Settled s → Fresh s sc → s.clusterLocal s.th sc.toNat = true →
    s.launch s.th.launch = some l → l.id = s.th.launch → l.windows.find? (fun x => x.1 == s.reg a) = some w →
    (∀ q ∈ l.partials, 4 * q.word < w.1.toNat ∨ w.1.toNat + w.2 ≤ 4 * q.word) →
    ∃ t, exec (.merge a sc) s = .next t ∧ t.launch l.id = some { l with windows := l.windows.filter (· != w) } ∧
      (∀ id, id ≠ l.id → t.launch id = s.launch id) ∧ t = { s.cleanWindow w with launches := t.launches }) ∧
  (∀ (s : State) (w : Word × Nat), (∀ x ∈ s.sectors, x.cluster = clusterOf s.th.core → x.written = 0) → s.cleanWindow w = s) ∧
  (∀ (s s1 : State) (sc : BitVec 4) (x y : Partial) (place : Target) (word cl p : Nat), s.goes = true → s1.goes = true → x.word = word → y.word = word →
    x.rank < y.rank → s.atomicAt sc.toNat (BitVec.ofNat 64 (4 * word)) 4 2 s.cv.vstart0 = (some (.mem place), s1) →
    place = .cluster cl p ∨ place = .through cl p → s1.th.det = false → s1.th.fencesOn none = [] →
    let own : State → State := fun u => u.ownRead (u.homeAgent p) p
    let u := s1.evictSector cl p
    let first := fpAdd fmtF32 0 (u.homeRead p 4) x.val.toNat
    let last := fpAdd fmtF32 0 first.1 y.val.toNat
    s.mergeWord sc.toNat [y, x] word =
      ((own ((((own u).evictSector cl p).roEarly cl p).evictSector cl p)).homeWrite p last.1 (2 ^ 32 - 1) 4).orFlags
        (first.2 ||| x.flags ||| last.2 ||| y.flags))

/-- R259, R267 to R269, R278, R305: fences and cache maintenance. -/
def Obligations.FencesAndCaches : Prop :=
  ∀ (s : State) (m : BitVec 16) (sc : BitVec 4), Settled s → Fresh s sc →
    let e := s.scopeOf s.th sc.toNat
    let fenced := s.th.addFence e m
    (s.clusterLocal s.th sc.toNat = false → ∀ c, m.getLsbD c = true → e ∈ fenced.fencesOn (some c)) ∧
    (s.clusterLocal s.th sc.toNat = true → ∀ i ∈ [Instr.fence m sc, .fenceRel m sc, .fenceAcq m sc], exec i s = .next s) ∧
    (s.clusterLocal s.th sc.toNat = true → exec (.invro sc) s = .next { s with ro := s.ro.filter (·.core != s.th.core) }) ∧
    (s.clusterLocal s.th sc.toNat = false →
      (Cleanable s sc → ∃ t, exec (.fenceRel m sc) s = .next t ∧ Cleaned s t sc ∧ t.th.relStores = fenced.relStores) ∧
      (∃ t, exec (.fenceAcq m sc) s = .next t ∧ Discarded s t sc ∧ t.ro = s.ro) ∧
      (Cleanable s sc → ∃ t, exec (.fence m sc) s = .next t ∧ Homed s t (Summary s sc) ∧ t.th.relStores = fenced.relStores ∧
        (∀ y, y ∈ t.sectors ↔ y ∈ s.sectors ∧ ¬ Summary s sc y) ∧ OnlyHomes s t) ∧
      (∃ t, exec (.invro sc) s = .next t ∧ Discarded s t sc ∧ t.ro = s.ro.filter (·.core != s.th.core))) ∧
    (Cleanable s sc → ∃ t, exec (.cclean sc) s = .next t ∧ Cleaned s t sc ∧ t.th.relStores = s.th.relStores) ∧
    (∃ t, exec (.cinval sc) s = .next t ∧ Discarded s t sc ∧ t.ro = s.ro)

/-- R287 to R293, R307 to R309: scope tables. What the model reads or chooses: a control core's table has no image in memory (log 12), an
update completes in its own convoy (log 52), and the accesses of SCOPEGET and SCOPEPUT are covered by the fences of class 0 (log 74). -/
def Obligations.ScopeTableWords : Prop :=
  (∀ (s : State) (a : BitVec 5) (sc : BitVec 4), ∃ t, exec (.scopepin a sc) s = .next t ∧
    (∀ j, j < 16 → t.th.pin j = if j = sc.toNat ∨ (s.reg a).getLsbD j = true then (s.scopeOf s.th j).serial else s.th.pin j) ∧
    t = { s with th := { s.th with pins := t.th.pins } }) ∧
  (∀ (s : State) (d a : BitVec 5) (sc : BitVec 4),
    let e := s.scopeOf s.th sc.toNat
    Settled s → s.th.fencesOn (some 0) = [] → (s.reg a).toNat % 8 = 0 → InWindow s (s.reg a) 576 →
    ∃ t, exec (.scopeget d a sc) s = .next t ∧ Wrote s t d e.serial ∧
      (∀ i, i < 576 → cellsRead t.scratch (place s (s.reg a) + i) = e.image.extractLsb' (8 * i) 8) ∧
      (∀ y, y < place s (s.reg a) ∨ place s (s.reg a) + 576 ≤ y → cellsRead t.scratch y = cellsRead s.scratch y) ∧
      (∀ x ∈ t.damage, x ∈ s.damage) ∧
      t = { s with th := { s.th with regs := t.th.regs }, scratch := t.scratch, damage := t.damage, cv := { s.cv with kept := t.cv.kept } }) ∧
  (∀ (s : State) (d a : BitVec 5) (sc : BitVec 4) (image : BitVec 4608),
    let i := sc.toNat
    let u := s.fenceAt 0 0xFFFF#16 true true
    let serial := (u.scopeOf u.th i).serial + 1
    let put := withGeneration image serial
    let ends : State → Prop := fun z =>
      exec (.scopeput d a sc) s = .next ((z.fenceAt 0 0xFFFF#16 true true).setReg d (BitVec.ofNat 64 (serial.toNat % 64)))
    Settled s → (s.reg a).toNat % 8 = 0 →
    ((s.scopeOf s.th i).draining = true →
      exec (.scopeput d a sc) s = .next { s with cv := { s.cv with wait := some (.drain i, .nothing) } }) ∧
    ((s.scopeOf s.th i).draining = false → Recorded u (s.reg a) 576 image →
      (u.scopeFault u.th.ctx image = none →
        ∃ w : State, w.th.pin i = serial ∧ w.scopeOf w.th i = ⟨put, serial, false⟩ ∧
          (∀ j, j < 16 → j ≠ i → w.th.pin j = s.th.pin j ∧ w.scopeOf w.th j = s.scopeOf s.th j) ∧
          w = { u with th := { u.th with pins := w.th.pins }, ctxs := w.ctxs, bars := w.bars, sems := w.sems } ∧
          (s.th.ctx = 64 → ends w) ∧
          (s.th.ctx ≠ 64 →
            let z := w.storeDwords ((s.ctxRec s.th.ctx).extractLsb' 384 64 + BitVec.ofNat 64 (576 * i)) (dwords 72 put.toNat)
            (z.goes = true → ends z) ∧ (z.goes = false → exec (.scopeput d a sc) s = .next z))) ∧
      (∀ r, u.scopeFault u.th.ctx image = some r → ∃ t, exec (.scopeput d a sc) s = .next t ∧
        Faulted u t 0x09 s.cv.vstart0 (BitVec.ofNat 64 (i + 16 * r)))))

/-- R182, R310 to R314: barriers and semaphores; a post serves the waiters from the head of the queue while its count lasts. Who takes part
in a barrier is the model's reading (log 40), and so is a control core's own scope table (log 12). -/
def Obligations.BarriersAndSemaphores : Prop :=
  (∀ (s : State) (d : BitVec 5) (sc : BitVec 4), Settled s → Fresh s sc → s.clusterLocal s.th sc.toNat = true → s.barOf s.th.uid = none →
    let b : Bar := ⟨s.th.launch, sc.toNat, s.scopeOf s.th sc.toNat, s.participants sc.toNat, [], false, []⟩
    let ends : Launch → Prop := fun l => l.det = true ∧ s.includesAll b l = true
    (s.spansGangs sc.toNat b.members = true → Illegal7 s (.bar d sc)) ∧
    (s.spansGangs sc.toNat b.members = false → (∀ x ∈ s.bars, x.launch = b.launch → x.entry ≠ b.entry) →
      (s.participants sc.toNat = [s.th.uid] →
        ((∀ l, s.launch s.th.launch = some l → ¬ ends l) →
          ∃ t, exec (.bar d sc) s = .next t ∧ Wrote s t d 0 ∧ t = { s with th := { s.th with regs := t.th.regs } }) ∧
        (∀ l, s.launch s.th.launch = some l → ends l →
          ∃ t, exec (.bar d sc) s = .next t ∧ Wrote s t d 0 ∧
            t.launches = s.launches.map (fun x => if x.id = l.id then { x with tags := [] } else x) ∧
            t.others = s.others.map (fun x => if x.launch = l.id then { x with csr := { x.csr with phase := x.csr.phase + 1 } } else x) ∧
            t = { s with
              th := { s.th with regs := t.th.regs, csr := { s.th.csr with phase := s.th.csr.phase + 1 } }
              others := t.others, launches := t.launches })) ∧
      ((∃ x ∈ s.others, x.uid ∈ s.participants sc.toNat ∧ x.uid ≠ s.th.uid) →
        exec (.bar d sc) s = .next { s with cv := { s.cv with wait := some (.barrier, .arrive b) } }))) ∧
  (∀ (s : State) (d : BitVec 5) (sc : BitVec 4) (b : Bar), s.barOf s.th.uid = some b → b.complete = true → b.scope.clusterLocal s.th = true →
    ∃ t, exec (.bar d sc) s = .next t ∧ Wrote s t d (BitVec.ofNat 64 (b.arrivals.findIdx (· == s.th.uid))) ∧
      (∀ x ∈ t.bars, x ∈ s.bars ∨ x = { b with left := s.th.uid :: b.left }) ∧ b ∉ t.bars ∧
      t = { s with th := { s.th with regs := t.th.regs }, bars := t.bars }) ∧
  (∀ (s : State) (d a b : BitVec 5) (sc : BitVec 4), SemReady s a sc →
    let k := (s.reg a).toNat
    let x := s.sem k
    let v := s.reg b
    let n := asked v
    let r := s.release sc.toNat
    let u := acquired s sc true
    (v &&& 0x3FFFFFFF00000000 = 0 → r.goes = true →
      let reset := v.getLsbD 62
      let n' := if reset then v.setWidth 32 else n
      let count := if reset then n'.toNat else min (x.count.toNat + n'.toNat) (2 ^ 32 - 1)
      let err := if reset then v.getLsbD 63 else (x.err || v.getLsbD 63)
      ∃ t y, exec (.sempost d a b sc) s = .next t ∧ Wrote s t d (BitVec.ofNat 64 count) ∧ SemDone s r t k y ∧ y.err = err ∧
        (x.queue = [] → y = ⟨k, BitVec.ofNat 32 count, err, [], x.served⟩) ∧
        (err = true → y.queue = [] ∧ y.served = x.served ++ x.queue.map (fun w => (⟨w.uid, BitVec.allOnes 64, w.scope⟩ : SemServed))) ∧
        (err = false →
          let left : Nat → Nat := fun j => count - ((x.queue.take j).map (fun w => w.take.toNat)).sum
          ∃ m, m ≤ x.queue.length ∧ y.queue = x.queue.drop m ∧ y.count.toNat = left m ∧
            y.served = x.served ++ (x.queue.take m).zipIdx.map (fun p => (⟨p.1.uid, BitVec.ofNat 64 (left (p.2 + 1)), p.1.scope⟩ : SemServed)) ∧
            (∀ j w, j < m → x.queue[j]? = some w → w.take.toNat ≤ left j) ∧ (∀ w, x.queue[m]? = some w → left m < w.take.toNat))) ∧
    (v &&& 0xFFFFFFFF00000000 = 0 →
      (x.err = true → Completes s (.semtry d a b sc) d (BitVec.allOnes 64)) ∧
      (x.err = false → x.queue ≠ [] ∨ x.count < n → Completes s (.semtry d a b sc) d (BitVec.ofNat 64 (2 ^ 64 - 2))) ∧
      (x.err = false → x.queue = [] → n ≤ x.count →
        ∃ t, exec (.semtry d a b sc) s = .next t ∧ Wrote s t d ((x.count - n).zeroExtend 64) ∧ SemDone s u t k { x with count := x.count - n })) ∧
    (v &&& 0xFFFFFFFF00000000 = 0 → (∀ w ∈ x.served, w.uid ≠ s.th.uid) →
      (x.err = true → ∃ t, exec (.semwait d a b sc) s = .next t ∧ Wrote s t d (BitVec.allOnes 64) ∧ SemDone s u t k x) ∧
      (x.err = false → x.queue = [] → n ≤ x.count →
        ∃ t, exec (.semwait d a b sc) s = .next t ∧ Wrote s t d ((x.count - n).zeroExtend 64) ∧ SemDone s u t k { x with count := x.count - n }) ∧
      (x.err = false → x.queue ≠ [] ∨ x.count < n →
        exec (.semwait d a b sc) s = .next { s with cv := { s.cv with wait := some (.sem k sc.toNat, .sem k ⟨s.th.uid, n, s.scopeOf s.th sc.toNat⟩) } })) ∧
    (∀ w, x.served.find? (fun w => w.uid == s.th.uid) = some w → ∃ t, exec (.semwait d a b sc) s = .next t ∧ Wrote s t d w.value ∧
      SemDone s (s.acquireAt w.scope) t k { x with served := x.served.filter (fun w => w.uid != s.th.uid) }))

/-- R117, R118, R315, R316: chain cells and WAIT. That WAIT counts the commands of earlier convoys only is the model's choice (log 15), and
that the loads and stores which it names have performed its reading (log 9). -/
def Obligations.ChainCellsAndWait : Prop :=
  (∀ (s : State) (d a b : BitVec 5) (sc : BitVec 4),
    let r := released s sc true (s.reg a) 2
    let old := scratchNat s (s.reg a) 8
    let y := (s.reg b).toNat
    Settled s → Fresh s sc → AtomicPlaced s (s.reg a) 8 →
    (y % 2 ^ 63 ≠ 2 ^ 63 - 1 → r.goes = true → ∃ t, exec (.pubhw d a b sc) s = .next t ∧ Wrote s t d (BitVec.ofNat 64 old) ∧
      Stored s t (s.reg a) 8 (published old y) ∧ t = { r with th := { r.th with regs := t.th.regs }, scratch := t.scratch }) ∧
    (y % 2 ^ 63 = 2 ^ 63 - 1 → ∃ t, exec (.pubhw d a b sc) s = .next t ∧
      Faulted s t 0x01 s.cv.vstart0 (s.cv.raw.zeroExtend 64 + 7#64 * BitVec.ofNat 64 (2 ^ 32)))) ∧
  (∀ (s : State) (d a b : BitVec 5),
    let sc := s.th.csr.hwscope
    let u := acquired s sc true
    let c := scratchNat s (s.reg a) 8
    let most := vlmax110 s.th.csr.vtype s.lanes
    let want := if s.reg b = 0 then most else min (s.reg b).toNat most
    let avail := c % 2 ^ 63 - s.th.csr.hwbase.toNat
    let done : Nat → Word → BitVec 63 → Prop := fun n v h => ∃ t, exec (.setvlhw d a b) s = .next t ∧ t.th.csr.vl.toNat = n ∧ Wrote s t d v ∧
      t = { u with
        th := { u.th with regs := t.th.regs, csr := { u.th.csr with vl := t.th.csr.vl, hwbase := h } }
        cv := { u.cv with kept := t.cv.kept } }
    (s.cv.vstart0 ≠ 0 → exec (.setvlhw d a b) s = .next s) ∧
    (s.cv.vstart0 = 0 → Settled s → Fresh s sc → AtomicPlaced s (s.reg a) 8 → s.th.csr.vtype.toNat % 4 ≠ 3 →
      (c = 2 ^ 64 - 1 → done 0 (BitVec.allOnes 64) s.th.csr.hwbase) ∧
      (c ≠ 2 ^ 64 - 1 → (avail ≠ 0 ∨ 2 ^ 63 ≤ c) →
        done (min want avail) (BitVec.ofNat 64 (min want avail)) (s.th.csr.hwbase + BitVec.ofNat 63 (min want avail))) ∧
      (avail = 0 → c < 2 ^ 63 → exec (.setvlhw d a b) s = .next { s with cv := { s.cv with
        wait := some (.cell ((s.reg a).toNat / 128) (.scratch s.th.core ((s.reg a).toNat % 2 ^ 17))
          (cellsReadNat s.scratch (s.th.core * 131072 + (s.reg a).toNat % 2 ^ 17 / 128 * 128) 128), .nothing) } }))) ∧
  (∀ (s : State) (l r c t : BitVec 5), Settled s →
    (c = 31#5 ∨ s.commandsOut ≤ c.toNat → t = 31#5 ∨ s.diagOut ≤ t.toNat → exec (.wait l r c t) s = .next s) ∧
    ∃ u, exec (.wait l r c t) s = .next u ∧ (t = 31#5 ∨ u.diagOut ≤ t.toNat) ∧ (u.cv.wait = none → c = 31#5 ∨ u.commandsOut ≤ c.toNat))

/-- R283, R340 to R349, R358, R375: command words and QFENCE. What the model reads or chooses: sub-code 7 ahead of the queue check (log 49),
which commands QFENCE counts (log 15), and the limits of a MIGRATE descriptor (log 25). -/
def Obligations.EngineWords : Prop :=
  (∀ (s : State) (d a b : BitVec 5) (q : BitVec 6), Settled s →
    let n := (s.reg d).toNat
    (n ≤ 2 ^ 40 → q.toNat < 32 → RangeOk s (s.reg a) n → RangeOk s (s.reg b) n →
      Commands s (.copy d a b q) d q.toNat (.copy (s.reg a) (s.reg b) n)) ∧
    (2 ^ 40 < n ∨ 32 ≤ q.toNat → Illegal7 s (.copy d a b q))) ∧
  (∀ (s : State) (d a : BitVec 5) (q : BitVec 6) (x : BitVec 256), Settled s → (s.reg a).toNat % 8 = 0 → Recorded s (s.reg a) 32 x →
    let legal := bits x 128 32 ≠ 0 ∧ bits x 160 32 ≠ 0 ∧ bits x 128 32 * bits x 160 32 ≤ 2 ^ 40 ∧ q.toNat < 32
    (legal → (∀ r ∈ copy2dRanges x, RangeOk s r.1 r.2.1) → Commands s (.copy2d d a q) d q.toNat (.copy2d x)) ∧
    (¬ legal → Illegal7 s (.copy2d d a q))) ∧
  (∀ (s : State) (d a : BitVec 5) (q : BitVec 6) (x : BitVec 512), Settled s → (s.reg a).toNat % 8 = 0 → Recorded s (s.reg a) 64 x →
    (qcopyOk x = true → q.toNat < 32 → (∀ r ∈ qcopyRanges x, RangeOk s r.1 r.2.1) → Commands s (.qcopy d a q) d q.toNat (.qcopy x)) ∧
    (qcopyOk x = false ∨ 32 ≤ q.toNat → Illegal7 s (.qcopy d a q))) ∧
  (∀ (s : State) (d a : BitVec 5) (q : BitVec 6) (x : BitVec 2048), Settled s → (s.reg a).toNat % 64 = 0 → Recorded s (s.reg a) 256 x →
    (blockOk x = true → 32 ≤ q.toNat → q.toNat < 48 → (∀ n ∈ blockSems x, s.ctxHasSem s.th.ctx n = true) →
      Commands s (.mcmd d a q) d q.toNat (.media x)) ∧
    (blockOk x = false ∨ q.toNat < 32 ∨ 48 ≤ q.toNat → Illegal7 s (.mcmd d a q))) ∧
  (∀ (s : State) (d a : BitVec 5) (x : BitVec 256), Settled s → s.privileged = true → (s.reg a).toNat % 8 = 0 → Recorded s (s.reg a) 32 x →
    (s.migrateOk x = true →
      (inQueue s (48 + s.migrationDie x) < 16 → ∃ t, exec (.migrate d a) s = .next t ∧ Queued s t d (48 + s.migrationDie x) (.migrate x)) ∧
      (16 ≤ inQueue s (48 + s.migrationDie x) →
        exec (.migrate d a) s = .next { s with cv := { s.cv with
          wait := some (.queue (48 + s.migrationDie x) ((s.cv.cmds.filter (fun c => c.queue == 48 + s.migrationDie x)).length), .nothing) } })) ∧
    (s.migrateOk x = false → Illegal7 s (.migrate d a))) ∧
  (∀ (s : State) (a : BitVec 5), Settled s →
    let m := s.reg a
    (m.toNat < 2 ^ 48 → (∀ q, q < 48 → m.getLsbD q = true → Owns s q) →
      (OwnCleanable s → (∀ c ∈ s.queues, c.uid = s.th.uid → m.getLsbD c.queue = false) →
        ∃ t, exec (.qfence a) s = .next t ∧ Homed s t (fun x => x.cluster = clusterOf s.th.core) ∧
          (∀ y, y ∈ t.sectors ↔ y ∈ s.sectors ∧ y.cluster ≠ clusterOf s.th.core) ∧
          OnlyHomes s t ∧ t.th = s.th) ∧
      (∃ t, exec (.qfence a) s = .next t ∧
        (t.cv.wait = none → t.cv.fault = none → ∀ c ∈ t.queues, c.uid = s.th.uid → m.getLsbD c.queue = false))) ∧
    (2 ^ 48 ≤ m.toNat → Illegal7 s (.qfence a)))

/-- R325, R337, R338, R377, R412, R413, R418. What the model reads or chooses: the kind in TSPAWN's detail (log 53), the rejection of a record
with a completion word (log 46), and that TLBINV empties the walk caches and instruction caches (log 11). -/
def Obligations.TaskAndSystemWords : Prop :=
  (∀ (s s1 : State) (d a : BitVec 5) (ws : List Word), Settled s → (s.reg a).toNat % 128 = 0 → canonical (s.reg a) = true →
    isScratchAddr (s.reg a) = false → s.cleanOwn.goes = true → s.cleanOwn.loadDwords (s.reg a) 16 = (some ws, s1) →
    let image : BitVec 1024 := BitVec.ofNat 1024 (joinWords ws)
    let u := s1.urnWake s1.th.ctx image
    (s1.urnWaits s1.th.ctx image = true → exec (.launch d a) s = .next { u with cv := { u.cv with wait := some (u.urnWait image, .nothing) } }) ∧
    (s1.urnWaits s1.th.ctx image = false →
      (∀ r, s1.rejects s1.th.ctx image = some r → ∃ t, exec (.launch d a) s = .next t ∧ (d ≠ 0 → t.reg d = failed r) ∧ t.launches = s1.launches) ∧
      (s1.rejects s1.th.ctx image = none → ∃ t l, exec (.launch d a) s = .next t ∧ t.launches = s1.launches ++ [l] ∧
        l.id = s1.nextLaunch ∧ l.image = image ∧ l.ctx = s1.th.ctx ∧
        l.token = (if d = 0 then .nowhere else .reg s1.th.uid s1.nextUid) ∧
        (d ≠ 0 → t.th.tokens = (d.toNat, s1.nextUid) :: s1.th.tokens) ∧ (∀ e, e < 8 → image.getLsbD (512 + e) = true → l.id ∈ (t.die e).urn)))) ∧
  (∀ (s : State) (d a : BitVec 5), Settled s →
    ((s.reg a).toNat % 128 ≠ 0 → ∃ t, exec (.launch d a) s = .next t ∧ Faulted s t 0x03 s.cv.vstart0 (addrInfo (s.reg a) 0)) ∧
    ((s.reg a).toNat % 128 = 0 → (canonical (s.reg a) = false ∨ isScratchAddr (s.reg a) = true) →
      ∃ t, exec (.launch d a) s = .next t ∧ Faulted s t 0x06 s.cv.vstart0 (addrInfo (s.reg a) 0))) ∧
  (∀ (s : State) (d a b : BitVec 5), Settled s →
    (Reachable (s.reg a) →
      (s.tasksAt (clusterOf s.th.core) < 4096 → ∃ t, exec (.tspawn d a b) s = .next t ∧ Wrote s t d ((s.th.join + 1).zeroExtend 64) ∧
        t = { s with
          th := { s.th with regs := t.th.regs, join := s.th.join + 1 }
          tasks := s.tasks ++ [⟨clusterOf s.th.core, s.th.launch, s.th.gang, s.th.uid, s.reg a, s.reg b⟩] }) ∧
      (4096 ≤ s.tasksAt (clusterOf s.th.core) → exec (.tspawn d a b) s = .next { s with cv := { s.cv with wait := some (.spawn, .nothing) } })) ∧
    ((s.reg a).toNat % 16 ≠ 0 → ∃ t, exec (.tspawn d a b) s = .next t ∧ Faulted s t 0x03 s.cv.vstart0 (addrInfo (s.reg a) 3)) ∧
    ((s.reg a).toNat % 16 = 0 → ¬ Reachable (s.reg a) → ∃ t, exec (.tspawn d a b) s = .next t ∧ Faulted s t 0x06 s.cv.vstart0 (addrInfo (s.reg a) 3))) ∧
  (∀ (s : State) (d : BitVec 5),
    (s.th.join = 0 → ∃ t, exec (.tjoin d) s = .next t ∧ Wrote s t d (s.th.retired.zeroExtend 64) ∧
      t = { s with th := { s.th with regs := t.th.regs, retired := 0 } }) ∧
    (s.th.join ≠ 0 → exec (.tjoin d) s = .next { s with cv := { s.cv with wait := some (.join, .hold) } })) ∧
  (∀ (s : State) (a b : BitVec 5), Settled s → s.privileged = true →
    let Hit := fun (x : TlbEntry) => ((s.reg b).getLsbD 17 = true ∨ x.asid = (s.reg b).setWidth 16) ∧
      ((s.reg b).getLsbD 16 = true ∨ x.page * 65536 / 2 ^ leafBits x.level = (s.reg a).toNat % 2 ^ 57 / 2 ^ leafBits x.level)
    ((s.reg b).toNat < 2 ^ 18 → OwnCleanable s →
      ((∀ y ∈ s.others, ∀ x ∈ y.needs, x.pte.getLsbD 0 = true → ¬ Hit x) → ∃ t, exec (.tlbinv a b) s = .next t ∧
        CleanCopies s t (fun x => x.cluster = clusterOf s.th.core) ∧ (∀ x, x ∈ t.tlb ↔ x ∈ s.tlb ∧ ¬ Hit x) ∧
        (∀ x, x ∈ t.slices ↔ x ∈ s.slices ∧ ¬ Hit x.leaf) ∧ (∀ z ∈ t.damage, z ∈ s.damage) ∧
        t = { s with
          mem := t.mem, sectors := t.sectors, metas := t.metas, copies := t.copies, dies := t.dies, damage := t.damage
          bbFlash := t.bbFlash, replies := t.replies, tlb := t.tlb, slices := t.slices, walks := [], icache := [] }) ∧
      ((∃ y ∈ s.others, ∃ x ∈ y.needs, x.pte.getLsbD 0 = true ∧ Hit x) → ∃ t, exec (.tlbinv a b) s = .next t ∧
        t.cv.wait = some (.translation (s.reg a) (s.reg b), .nothing) ∧ OnlyHomes s { t with cv := s.cv })) ∧
    (2 ^ 18 ≤ (s.reg b).toNat → Illegal7 s (.tlbinv a b))) ∧
  (∀ (s : State) (d a b : BitVec 5), Settled s → s.privileged = true → (s.reg a).toNat % 128 = 0 →
    (s.reg b).getLsbD 48 = true → (s.reg b).extractLsb' 49 15 = 0 →
    let u := s.fenceAt 0 0xFFFF#16 true true
    u.goes = true →
    (u.selected (s.reg b) = none → ∀ i ∈ [Instr.ctxsave d a b, .ctxload d a b], ∃ t, exec i s = .next t ∧ Wrote u t d (BitVec.ofNat 64 (2 ^ 63 + 1)) ∧
      t = { u with th := { u.th with regs := t.th.regs } }) ∧
    (∀ x, u.selected (s.reg b) = some x →
      let w := u.settleThread x
      let v := w.storeDwords (s.reg a) (w.imageOf ((w.threads.find? (fun y => y.uid == x.uid)).getD x))
      (w.damage.find? x.holdsDamage = none → w.badImageLine x = none → v.goes = true → exec (.ctxsave d a b) s = .next ((v.fenceAt 0 0xFFFF#16 true true).setReg d (BitVec.ofNat 64 x.imageBytes))) ∧
      (∀ ws w, u.loadDwords (s.reg a) (x.imageBytes / 8) = (some ws, w) →
        (∀ r, w.imageFault x (x.viewImage ws) = some r → ∃ t, exec (.ctxload d a b) s = .next t ∧ Wrote w t d (BitVec.ofNat 64 (2 ^ 63 + r)) ∧
          t = { w with th := { w.th with regs := t.th.regs } }) ∧
        (w.imageFault x (x.viewImage ws) = none →
          exec (.ctxload d a b) s = .next (((w.putImage x.uid (x.viewImage ws)).fenceAt 0 0xFFFF#16 true true).setReg d (BitVec.ofNat 64 x.imageBytes)))))) ∧
  (∀ (s : State) (a : BitVec 5), Settled s → s.privileged = true →
    let n := (s.reg a).toNat
    (n ≤ 55 → ∃ t, exec (.engrst a) s = .next t ∧ t.queues = s.queues.filter (fun c => c.queue != n) ∧
      ((∀ c ∈ s.queues, c.queue = n → ∀ block, c.kind ≠ .media block) → SameMemory s t ∧ t.sectors = s.sectors) ∧
      ∀ c x, s.queues.filter (fun c => c.queue == n) = [c] → c.uid = s.th.uid → s.th.tokens = [(x, c.token)] → x ≠ 0 → x < 32 →
        (c.result = none → t.th.reg x = failed 5) ∧ (∀ w, c.result = some w → t.th.reg x = w)) ∧
    (55 < n → Illegal7 s (.engrst a)))

/-- R23, R118, R145, R200 to R204, R210, R244, R281, R292, R331, R338, R342, R353 to R360, R374, R392, R405. What the model reads or chooses: the form of
an event (log 1), prefetched codes (log 13), what a media engine reads and when, and its failures (log 22), the frame of a page expansion
(log 25), the order of selection (log 61) and whom a YIELD owes an opportunity (log 62). -/
def Obligations.SchedulingEvents : Prop :=
  (∀ (s : State) (core : Nat),
    (∀ x, s.pick core = some x → x ∈ s.threads ∧ x.core = core ∧ s.isReady x = true ∧
      (∀ y ∈ s.threads, y.core = core → s.isReady y = true → y.owes (s.readyAt core) = false → s.turnOf x ≤ s.turnOf y) ∧
      ∃ t, exec (.convoyIssue core) s = .next t ∧ t.th.uid = x.uid ∧ (∀ y ∈ t.threads, y ∈ s.threads) ∧ t = { s with th := t.th, others := t.others }) ∧
    (s.pick core = none → exec (.convoyIssue core) s = .next s)) ∧
  (∀ (s : State) (core slot line : Nat),
    (∃ t, exec (.issueAgeing core slot) s = .next t ∧ Mapped s t (fun x => x.core == core && x.slot == slot && s.isReady x) (fun x =>
      { x with passed := x.passed + 1, curPrio := if (x.passed + 1) % 64 = 0 then min 3 (x.curPrio + 1) else x.curPrio })) ∧
    (∃ t, exec (.tjoinRelease core slot) s = .next t ∧
      Mapped s t (fun x => x.core == core && x.slot == slot && x.wait == .join && x.join == 0) (fun x => { x with wait := .none })) ∧
    (∃ t, exec (.setvlhwWake line) s = .next t ∧ Mapped s t (fun x => match x.wait with
      | .cell l _ _ => l == line
      | _ => false) (fun x => { x with wait := .none })) ∧
    (∃ t, exec (.idleWake core) s = .next t ∧
      Mapped s t (fun x => x.core == core && x.wait == .idle && s.ringTail != s.ringHead) (fun x => { x with wait := .none }))) ∧
  (∀ s : State, (s.ringWait = [] → exec .trapRecordWrite s = .next s) ∧
    ∀ uid rest x r, s.ringWait = uid :: rest → s.threads.find? (fun x => x.uid == uid) = some x → x.trap = some r →
      let k := s.ringSize.toNat % 16
      let base := s.ringBase.toNat + 64 * (s.ringTail.toNat % 2 ^ k)
      let record : BitVec 512 := 0#256 ++ r.sstatus ++ r.sinfo ++ x.threadNo ++ s.asidOf x ++ 0#8 ++ r.cause ++ r.sepc
      4 ≤ k → (s.ringTail - s.ringHead).toNat < 2 ^ k → s.lineBad base = false → (∀ d, Damage.l2 d (base / 128) ∉ s.damage) →
      ∃ t, exec .trapRecordWrite s = .next t ∧ t.ringTail = s.ringTail + 1 ∧ t.ringWait = rest ∧
        (∀ i, i < 64 → cellsRead t.mem (base + i) = record.extractLsb' (8 * i) 8) ∧
        (∀ y, y < base ∨ base + 64 ≤ y → cellsRead t.mem y = cellsRead s.mem y) ∧
        (∀ z ∈ t.damage, z ∈ s.damage) ∧ t = { s with
          th := t.th, others := t.others, mem := t.mem, metas := t.metas, copies := t.copies, dies := t.dies, damage := t.damage
          ringTail := t.ringTail, ringWait := t.ringWait }) ∧
  (∀ (s : State) (v : Word),
    (v.getLsbD 48 = false ∨ v.extractLsb' 49 15 ≠ 0 ∨ s.stoppedThread (v.setWidth 16) (v.extractLsb' 16 32) = none → exec (.threadResume v) s = .next s) ∧
    (∀ x, v.getLsbD 48 = true → v.extractLsb' 49 15 = 0 → s.stoppedThread (v.setWidth 16) (v.extractLsb' 16 32) = some x →
      ∃ t, exec (.threadResume v) s = .next t ∧ t.ringWait = s.ringWait.filter (fun u => u != x.uid) ∧
        Mapped s { t with ringWait := s.ringWait } (fun y => y.uid == x.uid) (fun y => { y with run := .ready, trap := none, needs := s.fillNeeds y }))) ∧
  (∀ (s : State) (slot entry : Nat), ∃ t, exec (.scopeputDrainComplete slot entry) s = .next t ∧ t = { s with ctxs := t.ctxs } ∧
    t.ctxs.length = s.ctxs.length ∧ ∀ (i : Nat) (c : Ctx), s.ctxs[i]? = some c → ∃ e : Ctx, t.ctxs[i]? = some e ∧ e = { c with scopes := e.scopes } ∧
      (c.slot ≠ slot → e = c) ∧ (c.slot = slot → ∀ (j : Nat) (x : ScopeEntry), c.scopes[j]? = some x →
        e.scopes[j]? = some { x with draining := if j = entry then false else x.draining })) ∧
  (∀ (s : State) (core : Nat), core < 4112 →
    let d := dieOf core
    let w := (s.die d).window.toNat
    w + 1024 < 2 ^ 64 → (s.coreRec core).last ≤ w / 1024 →
    ∃ t, exec (.governorWindow core) s = .next t ∧ (t.coreRec core).charge = 0 ∧ (t.coreRec core).issued = false ∧
      (t.die d).window.toNat = (w / 1024 + 1) * 1024 ∧ (∀ c, c ≠ core → t.coreRec c = s.coreRec c) ∧ t = { s with dies := t.dies, cores := t.cores }) ∧
  (∀ (s : State) (core : Nat), ((s.coreRec core).diag = [] → exec (.diagWordCompletion core) s = .next s) ∧
    ∀ w rest, (s.coreRec core).diag = w :: rest → ∃ t, exec (.diagWordCompletion core) s = .next t ∧
      (∀ c, c ≠ core → t.coreRec c = s.coreRec c) ∧
      (((t.coreRec core).diag = rest ∧ Mapped s { t with cores := s.cores, free := s.free } (fun x => x.uid == w.uid) (fun x => x.complete w)) ∨
       (w.fn = 5 ∧ w.group + 1 < fullMark w.cfg ∧ (t.coreRec core).diag = { w with group := w.group + 1 } :: rest ∧
        Mapped s { t with cores := s.cores, free := s.free } (fun x => x.uid == w.uid) (fun x => x.tileGroups w w.group (w.group + 1))))) ∧
  (∀ (x : Thread) (w : DiagWord), w.fn ∈ [2, 3, 4] → 1 ≤ cfgL w.cfg → cfgQ w.cfg * cfgL w.cfg ≤ 2048 * cfgSpan w.cfg → w.head + cfgSpan w.cfg ≤ 8 →
    (w.fn ≠ 2 → opJ w.op < cfgQ w.cfg) →
    (w.fits = false → x.complete w = { x with csr := { x.csr with fflags := x.csr.fflags ||| flagDfill } }) ∧
    (w.fits = true → ∀ y, y < 2048 * cfgSpan w.cfg →
      let i := y % cfgL w.cfg
      let col : Int := (i : Nat) + cfgO w.cfg + (y / cfgL w.cfg : Nat)
      flatAt (x.complete w) w.head y = match w.term i with
        | none => flatAt x w.head y
        | some (p, q, j) =>
          if j = (y / cfgL w.cfg : Nat) ∧ w.mask.bit w.sew i = true ∧ (cfgMode w.cfg = 0 → 0 ≤ col ∧ col < cfgN w.cfg) then
            (accumulateRun (flatAt x w.head y) [Fp.mul p q]).1
          else flatAt x w.head y)) ∧
  (∀ (s : State) (reg : Nat), s.th.parked = false → (∀ x ∈ s.others, x.uid ≠ s.th.uid) →
    (s.th.bind reg = none → exec (.streamPrefetch s.th.core s.th.slot reg) s = .next s ∧ exec (.strainerDecode s.th.core s.th.slot reg) s = .next s) ∧
    (∀ b, s.th.bind reg = some b →
      (∀ s1 a k c, let p := b.fetched s.sew (4 * s.vl) b.pos
        descWrite b.desc = false → descKind b.desc ≠ 2 → p < b.pos + 4 * s.vl → p < streamTotal b.desc b.shape →
        fmtLegal (descFmt b.desc) s.sew = true → streamPlace b.desc b.shape p s.sew = some (a, k) →
        s.loadCode a (descFmt b.desc) s.sew k 0 (descClass b.desc) 0 = (some c, s1) → s1.th = s.th →
        ∃ t, exec (.streamPrefetch s.th.core s.th.slot reg) s = .next t ∧
          t.th.bind reg = some { b with ahead := b.ahead ++ [⟨p, c.1, c.2, s.sew⟩] } ∧
          t = { s1 with th := { s1.th with binds := t.th.binds }, cv := s.cv }) ∧
      (∀ s1 s2 h ns sc next, let p := b.pos + b.ahead.length
        descKind b.desc = 2 → b.attached = true → b.ahead.length < 4 * s.vl → p < streamTotal b.desc b.shape →
        s.strainFind b (p / 64) = (.ok h, s1) → s1.strainBlock b h = (.ok (ns, sc, next), s2) → s2.th = s.th →
        b.ahead.length + (64 - p % 64) ≤ 4 * s.vl →
        ∃ t, exec (.strainerDecode s.th.core s.th.slot reg) s = .next t ∧
          t.th.bind reg = some { b with
            place := some (p / 64 + 1, next)
            ahead := b.ahead ++ (span p (64 * (p / 64) + 64)).map (fun i => ⟨i, ns.getD (i % 64) 0, sc.getD (i % 64 / 8) 0, s.sew⟩) } ∧
          t = { s2 with th := { s2.th with binds := t.th.binds } }))) ∧
  (∀ (s : State) (q : Nat), (∀ c ∈ s.queues, c.queue ≠ q) →
    ∀ i ∈ [Instr.engineCommandExecute q, .commandCompletion q, .mediaParameterRead q], exec i s = .next s) ∧
  (∀ (s : State) (q n : Nat) (src dst : Word) (c : Cmd), s.working q = some c → c.kind = .copy src dst n →
    c.winBase + c.winSize ≤ 131072 →
    (∀ a ∈ [src, dst], a.toNat / 2 ^ 17 = 2 ^ 46 ∧ c.winBase ≤ a.toNat % 2 ^ 17 ∧ a.toNat % 2 ^ 17 + n ≤ c.winBase + c.winSize ∧
      ∀ i, i < n → s.damage.contains (.scratch c.core ((a.toNat % 2 ^ 17 + i) / 8)) = false) →
    let at_ : Word → Nat := fun a => c.core * 131072 + a.toNat % 2 ^ 17
    ∃ t, exec (.engineCommandExecute q) s = .next t ∧
      (∀ i, i < n → cellsRead t.scratch (at_ dst + i) = cellsRead s.scratch (at_ src + i)) ∧
      (∀ y, y < at_ dst ∨ at_ dst + n ≤ y → cellsRead t.scratch y = cellsRead s.scratch y) ∧
      t.queues = s.queues.map (fun x => if x.token = c.token then { x with result := some (BitVec.ofNat 64 (2 ^ 62 + n % 2 ^ 48)) } else x) ∧
      (∀ z ∈ t.damage, z ∈ s.damage) ∧ t = { s with scratch := t.scratch, queues := t.queues, damage := t.damage }) ∧
  (∀ (s : State) (q : Nat) (c : Cmd), s.queues.find? (fun x => x.queue == q) = some c →
    (c.result = none → exec (.commandCompletion q) s = .next s) ∧
    (∀ w, c.result = some w → ∃ t, exec (.commandCompletion q) s = .next t ∧ t.queues = s.queues.filter (fun x => x.token != c.token) ∧
      t = { s with th := t.th, others := t.others, queues := t.queues } ∧
      (∀ d : BitVec 5, s.th.uid = c.uid → s.th.tokens.find? (fun x => x.2 == c.token) = some (d.toNat, c.token) → Wrote s t d w))) ∧
  (∀ (s : State) (q : Nat) (c : Cmd) (block : BitVec 2048), s.working q = some c → c.kind = .media block →
    let k := bits block 352 32
    let place : SemPlace := ⟨2 ^ 32 + q, 1, s.mediaScope c block⟩
    (c.posted = false → exec (.mediaParameterRead q) s = .next s) ∧
    (c.posted = true → c.took = false → (s.sem k).err = false → (∀ w ∈ (s.sem k).served, w.uid ≠ place.uid) → (s.sem k).count = 0 →
      ∃ t, exec (.mediaParameterRead q) s = .next t ∧ (∃ w ∈ (t.sem k).queue, w.uid = place.uid) ∧ t = { s with sems := t.sems }) ∧
    (∀ v e x, c.posted = true → c.took = false → (s.sem k).tryWait place = some (v, e, x) →
      exec (.mediaParameterRead q) s =
        .next ((((s.putSem x).engineAcquire c.ctx q e).onCmd c.token (fun y => { y with took := true })).readSlot c block)) ∧
    (c.posted = true → c.took = true → exec (.mediaParameterRead q) s = .next (s.readSlot c block))) ∧
  (∀ (s s1 : State) (c : Cmd) (block : BitVec 2048) (bs : List Byte), c.row = 0 → 0 < (videoOf block (c.input.getD [])).rows →
    s.engRead c (byteAddrs (block.extractLsb' 384 64 + 65536#64) 4096) = (.ok bs, s1) →
    s.readSlot c block = { s1 with queues := (s.readSlot c block).queues } ∧
      (s.readSlot c block).queues = s1.queues.map (fun y =>
        if y.token = c.token then { y with posted := false, took := false, params := c.params ++ bs, row := 1 } else y)) ∧
  (∀ (s : State) (q reason : Nat) (c : Cmd) (block : BitVec 2048), 32 ≤ q → q < 48 → s.working q = some c → c.kind = .media block →
    (reason = 1 ∨ reason = 2 ∨ (reason = 3 ∧ bits block 0 8 = 1) ∨ (reason = 4 ∧ bits block 0 8 ≠ 1)) →
    ∃ t, exec (.mediaEngineFailure q reason) s = .next t ∧
      t.queues = s.queues.map (fun x => if x.token = c.token then { x with result := some (failed reason) } else x) ∧
      (bits block 32 8 ≠ 0 → ∀ k ∈ [bits block 320 32, bits block 352 32], (t.sem k).err = true ∧ (t.sem k).queue = []) ∧
      (bits block 32 8 = 0 ∨ (∀ x ∈ s.sectors, x.written = 0) → SameMemory s t ∧ t.sectors = s.sectors ∧
        Logged s t 0x04#16 (s.asidOfSlot c.ctx) (BitVec.ofNat 64 (bits block 1984 64)))) ∧
  (∀ (s : State) (asid : BitVec 16) (va target : Word),
    ((asid, pageOf va) ∉ s.woken → exec (.pageExpand asid va target) s = .next s) ∧
    (∀ s1 pte a, (asid, pageOf va) ∈ s.woken → s.pageEntry asid va = (.ok (pte, a), s1) →
      (pte.getLsbD 10 = true → exec (.pageExpand asid va target) s = .next s) ∧
      (pte.getLsbD 10 = false → pte.getLsbD 11 = false →
        exec (.pageExpand asid va target) s = .next { s1 with woken := s1.woken.erase (asid, pageOf va) }) ∧
      (∀ p, pte.getLsbD 11 = true → pte.getLsbD 10 = false → s1.packed.find? (fun x => x.addr == packedAddr pte) = some p →
        (∀ y ∈ s1.th :: s1.others, ∀ x ∈ y.needs, ¬(x.pte.getLsbD 0 = true ∧ x.asid = asid ∧ x.page = pageOf va)) → Memory.wf s1.mem = true →
        Memory.wf p.bytes = true → (∀ c ∈ p.bytes, c.1 < 65536) → target.toNat / 2 ^ 43 = s1.ident → target.toNat % 2 ^ 43 < 7 * 2 ^ 40 →
        target.toNat % 65536 = 0 → a + 8 ≤ target.toNat ∨ target.toNat + 65536 ≤ a → s1.lineBad a = false →
        (∀ d, Damage.l2 d (a / 128) ∉ s1.damage) → (∀ c n, n / 4 = a / 128 → Damage.sector c n ∉ s1.damage) →
        ∃ t, exec (.pageExpand asid va target) s = .next t ∧
          (∀ i, i < 65536 → cellsRead t.mem (target.toNat + i) = cellsRead p.bytes i) ∧
          t.homeRead a 8 = (movedEntry pte target.toNat false).toNat ∧ (∀ x ∈ t.packed, x.addr ≠ packedAddr pte)))) ∧
  (∀ (s : State) (cluster n : Nat),
    (s.pathDown (n * 32) = true ∨ s.sector cluster (n * 32) = none → exec (.clusterCacheEviction cluster n) s = .next s) ∧
    (∀ x, s.sector cluster (n * 32) = some x → CleanableSector s x →
      ∃ t, exec (.clusterCacheEviction cluster n) s = .next t ∧ Homed s t (fun y => y = x) ∧
        (∀ y, y ∈ t.sectors ↔ y ∈ s.sectors ∧ ¬(y.cluster = cluster ∧ y.addr = n)) ∧
        OnlyHomes s t ∧ t.th = s.th))

/-- R113, R242, R324 to R339, R364, R365, R392, R407 to R409, R416, R419. What the model chooses: the form of an event
(log 1), a host queue's enabling (log 24), that operands which name nothing have no effect (log 33), the slot of a task (log 44), and that
the whole value written to dbudget counts (log 48). -/
def Obligations.LaunchEvents : Prop :=
  (∀ (s : State) (v : Word),
    (hostQueue s (v.toNat % 256) = none → exec (.doorbell v) s = .next s) ∧
    ∀ q, hostQueue s (v.toNat % 256) = some q →
      let tail : BitVec 32 := v.extractLsb' 32 32
      let legal := v.extractLsb' 8 24 = 0 ∧ (tail - q.taken).toNat ≤ 2 ^ q.k ∧ (tail - q.accepted).toNat < 2 ^ 31
      (¬ legal → ∃ t, exec (.doorbell v) s = .next t ∧ hostQueue t (v.toNat % 256) = some { q with errors := q.errors + 1 } ∧
        t = { s with hostQs := t.hostQs }) ∧
      (legal → ∃ t r, exec (.doorbell v) s = .next t ∧ hostQueue t (v.toNat % 256) = some r ∧ r.accepted = tail ∧ r.base = q.base ∧ r.k = q.k) ∧
      (legal → tail = q.taken → ∃ t, exec (.doorbell v) s = .next t ∧ hostQueue t (v.toNat % 256) = some { q with accepted := tail } ∧
        t = { s with hostQs := t.hostQs })) ∧
  (∀ (s : State) (n slot : Nat) (base : Word) (k : Nat),
    let legal := n < 256 ∧ (s.ctxRec slot).getLsbD 16 = true ∧ base.toNat % 128 = 0 ∧ 1 ≤ k ∧ k ≤ 16
    (legal → exec (.hostQueueEnable n slot base k) s =
      .next { s with hostQs := ⟨n, slot, base, k, 0, 0, 0⟩ :: s.hostQs.filter (fun q => q.num != n) }) ∧
    (¬ legal → exec (.hostQueueEnable n slot base k) s = .next s)) ∧
  (∀ (s : State) (id : Nat), s.hostQs = [] →
    (s.launch id = none → exec (.dependenceCellRead id) s = .next s) ∧
    ∀ l, s.launch id = some l →
      (l.released = true → exec (.dependenceCellRead id) s = .next s) ∧
      ∀ v s1, l.released = false → l.image.extractLsb' 576 64 ≠ 0 → l.image.extractLsb' 704 64 = 0 →
        s.ctxStalls l.ctx (l.image.extractLsb' 576 64) 0 = false → s.tokenStalls l = false →
        s.ctxRead8 l.ctx (l.image.extractLsb' 576 64) = (some v, s1) → s1.tokenStalls l = false →
        let met := v.getLsbD 63 = true ∨ bits l.image 640 63 ≤ v.toNat % 2 ^ 63
        (v = BitVec.allOnes 64 → ∃ t, exec (.dependenceCellRead id) s = .next t ∧ t.launches = s1.launches.filter (fun x => x.id != l.id)) ∧
        (v ≠ BitVec.allOnes 64 → met → exec (.dependenceCellRead id) s =
          .next { s1 with launches := s1.launches.map (fun x => if x.id = id then { x with released := true } else x) }) ∧
        (v ≠ BitVec.allOnes 64 → ¬ met → exec (.dependenceCellRead id) s = .next s1)) ∧
  (∀ (s : State) (die cluster : Nat), s.hostQs = [] → die < 8 → cluster < 16 →
    (s.urnHead die = none → exec (.gangPlacement die cluster) s = .next s) ∧
    ∀ h l, s.urnHead die = some h → s.launch h.launch = some l →
      (h.kind = 1 → exec (.gangPlacement die cluster) s = .next s) ∧
      (∀ g ps, h.kind ≠ 1 → l.coResident = false → l.gangs.find? (fun g => g.die == die && !g.placed) = some g →
        s.clusterSpots l (16 * die + cluster) = some ps →
        ∃ t ns, exec (.gangPlacement die cluster) s = .next t ∧
          t.launch l.id = some { l with gangs := gangsWith l g.num (fun x => { x with
            cluster := some (16 * die + cluster), die := die, placed := true, order := s.nextUid, spots := ps }) } ∧
          t.th = s.th ∧ t.others = s.others ++ ns ∧ ns.length = ((List.range ps.length).filter (fun i => decide (i % l.threadsPerCore < l.started))).length ∧
          ∀ x ∈ ns, Begins l g.num (l.image.extractLsb' 0 64) (l.image.extractLsb' 64 64) x) ∧
      (∀ plan, h.kind ≠ 1 → l.coResident = true → (∀ d ∈ l.dies, (s.urnHead d).map (·.launch) = some l.id) → s.planAll l cluster = some plan →
        ∃ t l', exec (.gangPlacement die cluster) s = .next t ∧ t.launch l.id = some l' ∧ ∀ x ∈ l'.gangs, x.placed = true ∧ x.cluster ≠ none)) ∧
  (∀ (s : State) (die launch gang : Nat),
    (s.urnHead die = none → exec (.park die launch gang) s = .next s) ∧
    ∀ h, s.urnHead die = some h →
      (s.headFits die h = true → exec (.park die launch gang) s = .next s) ∧
      ∀ l g, s.headFits die h = false → s.victim die h.prio = some (l, g) →
        (l.id ≠ launch ∨ g.num ≠ gang → exec (.park die launch gang) s = .next s) ∧
        (l.id = launch → g.num = gang → l.coResident = false →
          (s.parkPlaces l [g] = none → ∃ t, exec (.park die launch gang) s = .next t ∧ t = { s with dies := t.dies }) ∧
          (s.parkPlaces l [g] ≠ none → (s.settleGang l g).gangQuiet l g = false → exec (.park die launch gang) s = .next (s.settleGang l g)) ∧
          (s.parkPlaces l [g] ≠ none → (s.settleGang l g).gangQuiet l g = true →
            ∃ t l', exec (.park die launch gang) s = .next t ∧ t.launch l.id = some l' ∧
              (∀ x ∈ l'.gangs, x.num = g.num → x.parked = some g.die ∧ x.cluster = none) ∧
              (∀ x ∈ t.threads, x.launch = l.id → x.gang = g.num → isControl x.core = false → x.parked = true)))) ∧
  (∀ (s : State) (die cluster : Nat), die < 8 → cluster < 16 →
    (s.urnHead die = none → exec (.resume die cluster) s = .next s) ∧
    ∀ h l, s.urnHead die = some h → s.launch h.launch = some l →
      (h.kind ≠ 1 → exec (.resume die cluster) s = .next s) ∧
      (∀ g ps, h.kind = 1 → l.coResident = false → l.gangs.find? (fun g => g.num == h.gang) = some g →
        s.resumeSpots l g (16 * die + cluster) = some ps →
        ∃ t, exec (.resume die cluster) s = .next t ∧
          t.launch l.id = some { l with gangs := gangsWith l g.num (fun x => { x with
            parked := none, cluster := some (16 * die + cluster), die := die, order := s.nextUid, spots := ps }) } ∧
          (∀ x ∈ s.gangThreads l.id g.num, (∃ p ∈ g.spots.zip ps, p.1.core = x.core ∧ p.1.slot = x.slot) →
            ∀ y ∈ t.threads, y.uid = x.uid → y.parked = false ∧ y.csr.preempted = (if l.discards = [] then 1#2 else 3#2)))) ∧
  (∀ (s : State) (core slot : Nat),
    (s.occupied core slot = true ∨ s.taskSpot core slot = none → exec (.taskStart core slot) s = .next s) ∧
    ∀ l g p i k, s.occupied core slot = false → s.taskSpot core slot = some (l, g, p, i) →
      s.tasks.find? (fun k => k.launch == l.id && k.gang == g.num) = some k →
      ∃ t x, exec (.taskStart core slot) s = .next t ∧ t.tasks = s.tasks.erase k ∧ t.th = s.th ∧ t.others = s.others ++ [x] ∧
        Begins l g.num k.entry k.arg x ∧ x.core = core ∧ x.slot = slot ∧ x.parent = some k.parent) ∧
  (∀ (s : State) (id gang : Nat),
    (s.launch id = none → exec (.taskDeadlock id gang) s = .next s) ∧
    ∀ l g, s.launch id = some l → l.gangs.find? (fun g => g.num == gang) = some g →
      (s.deadlocked l g = false → exec (.taskDeadlock id gang) s = .next s) ∧
      (s.deadlocked l g = true → s.hostQs = [] → (s.ctxRec l.ctx).getLsbD 16 = true →
        ∃ t, exec (.taskDeadlock id gang) s = .next t ∧ Terminated s t l.ctx)) ∧
  (∀ (s : State) (id : Nat), s.hostQs = [] →
    (s.launch id = none → exec (.launchCompletion id) s = .next s) ∧
    ∀ l, s.launch id = some l →
      (l.gangs.all (·.done) = false → exec (.launchCompletion id) s = .next s) ∧
      (l.gangs ≠ [] → l.gangs.all (·.done) = true → s.tokenStalls l = false →
        ∃ t, exec (.launchCompletion id) s = .next t ∧ t.launches = s.launches.filter (fun x => x.id != l.id) ∧
          ∀ (d : BitVec 5) (k : Nat), l.token = .reg s.th.uid k → s.th.tokens.find? (fun x => x.2 == k) = some (d.toNat, k) →
            Wrote s t d (BitVec.ofNat 64 (2 ^ 62 + l.retired % 2 ^ 32))) ∧
      (∀ v root asid slot addr, l.gangs = [] → l.owed = some (v, root, asid) → l.token = .host slot addr → s.rootStalls root asid addr 1 = false →
        exec (.launchCompletion id) s =
          .next { (s.rootWrite8 root asid addr v).2 with launches := s.launches.filter (fun x => x.id != l.id) })) ∧
  (∀ (s : State) (slot : Nat),
    (64 ≤ slot ∨ (s.ctxRec slot).getLsbD 16 = true ∨ s.creationStalls slot = true → exec (.contextCreate slot) s = .next s) ∧
    ∀ st es s1, slot < 64 → (s.ctxRec slot).getLsbD 16 = false → s.creationStalls slot = false →
      (s.putCtx ⟨slot, s.ctxRec slot ||| (1#512 <<< 16), [], []⟩).createStatus slot = (st, es, s1) →
      ∃ t, exec (.contextCreate slot) s = .next t ∧ (t.ctxRec slot).getLsbD 16 = decide (st = 0) ∧
        (t.ctxRec slot).extractLsb' 24 8 = BitVec.ofNat 8 st ∧ (∀ n, n ≠ slot → t.ctxRec n = s.ctxRec n)) ∧
  (∀ (s : State) (slot : Nat),
    (64 ≤ slot → exec (.contextTerminate slot) s = .next s) ∧
    (s.hostQs = [] → (s.ctxRec slot).getLsbD 16 = false → exec (.contextTerminate slot) s = .next s) ∧
    (slot < 64 → s.hostQs = [] → (s.ctxRec slot).getLsbD 16 = true → ∃ t, exec (.contextTerminate slot) s = .next t ∧ Terminated s t slot)) ∧
  (∀ (s : State) (core : Nat) (v : Word),
    (4096 ≤ core ∨ s.resident core = true → exec (.maxlane core v) s = .next s) ∧
    (core < 4096 → s.resident core = false → ∃ t, exec (.maxlane core v) s = .next t ∧
      t.coreRec core = { s.coreRec core with maxlane := v.setWidth 2 } ∧ (∀ c, c ≠ core → t.coreRec c = s.coreRec c) ∧
      (∀ a, a / 131072 ≠ core → cellsRead t.scratch a = cellsRead s.scratch a) ∧
      (∀ x, x ∈ t.slices ↔ x ∈ s.slices ∧ (x.core = core → x.group < 2 ^ (v.toNat % 4))) ∧
      t = { s with cores := t.cores, scratch := t.scratch, slices := t.slices }) ∧
    (4096 ≤ core → exec (.dbudget core v) s = .next s) ∧
    (core < 4096 → ∃ t, exec (.dbudget core v) s = .next t ∧
      t.coreRec core = { s.govern core with dbudget := if 1024 < v.toNat then 1024#11 else v.setWidth 11 } ∧
      (∀ c, c ≠ core → t.coreRec c = s.coreRec c) ∧ t = { s with cores := t.cores })) ∧
  (∀ (s : State) (v : Word),
    let d := homeDie (v.toNat % 2 ^ 43)
    (v.toNat ∉ (s.die d).lost → exec (.lostLineClear v) s = .next s) ∧
    (v.toNat ∈ (s.die d).lost → ∃ t, exec (.lostLineClear v) s = .next t ∧ (∀ a, a ∈ (t.die d).lost ↔ a ∈ (s.die d).lost ∧ a ≠ v.toNat) ∧
      (∀ e, e ≠ d → t.die e = s.die e) ∧ t = { s with dies := t.dies, damage := s.damage.filter (· != .line (v.toNat / 128)) })) ∧
  (∀ (s : State) (v : Word),
    exec (.deviceResetWrite v) s = .next (if v = 1#64 then { s with cv := { s.cv with reset := true } } else s)) ∧
  (∀ (s : State) (offset size : Nat) (v : Word),
    (deviceLegal offset size true = false ∨ offset < 7 * 2 ^ 40 → exec (.deviceRegisterWrite offset size v) s = .next s) ∧
    (∀ o, o ∈ [0x10, 0x100, 0x3020, 0x5000] ∨ (0x10000 ≤ o ∧ o < 0x20000) → exec (.deviceRegisterWrite (7 * 2 ^ 40 + o) size v) s = .next s) ∧
    exec (.deviceRegisterWrite (7 * 2 ^ 40 + 0x3000) 8 v) s = .next { s with ringBase := v } ∧
    exec (.deviceRegisterWrite (7 * 2 ^ 40 + 0x3008) 8 v) s = .next { s with ringSize := v &&& 0xF#64 } ∧
    exec (.deviceRegisterWrite (7 * 2 ^ 40 + 0x3018) 8 v) s = .next { s with ringHead := v } ∧
    (∀ d, d < 8 → ∃ t, exec (.deviceRegisterWrite (7 * 2 ^ 40 + 0x4000 + 16 * d) 8 v) s = .next t ∧ t.die d = { s.die d with parkBase := v } ∧
      (∀ e, e ≠ d → t.die e = s.die e) ∧ t = { s with dies := t.dies }))

/-- R241, R249 to R253, R379 to R389, R414, R417, R420 to R422. What the model reads or chooses: the form of an event (log 1), control
cores and the place and entry of the firmware after a cold boot (log 4, 5), memory at a cold boot (log 6), a peer's line (log 26), a network
window's answer (log 31), a report's layout (log 32), operands that name nothing (log 33), and the ring that records a link (log 59). -/
def Obligations.BoundaryEvents : Prop :=
  (∀ (s : State) (line agent : Nat), 36864 ≤ agent → ∀ i ∈ [Instr.sharedRead line agent, .ownRead line agent, .writeBack line agent,
    .cleanEvict line agent, .forward line agent true, .forward line agent false, .invalidation line agent], exec i s = .next s) ∧
  (∀ (s : State) (line agent : Nat), agent < 36864 →
    (¬ HomeRequest s line agent → agent / 8 ≠ s.ident → ∀ i ∈ [Instr.sharedRead line agent, .ownRead line agent], exec i s = .next s) ∧
    (HomeRequest s line agent ∨ agent / 8 = s.ident → ∃ i, i < 4 ∧
      (s.holdsSector (line * 4 + i) agent = true → exec (.sharedRead line agent) s = .next { s with free := s.free + 1 }) ∧
      (s.holdsSector (line * 4 + i) agent = false → ReadBad s line →
        ∃ t, exec (.sharedRead line agent) s = .next t ∧ Ungranted s t line) ∧
      (s.holdsSector (line * 4 + i) agent = false → ¬ ReadBad s line → RoomFor s agent →
        ∃ t, exec (.sharedRead line agent) s = .next t ∧ Copied s t line agent true ∧ t.holdsSector (line * 4 + i) agent = true ∧
          t = { s with copies := t.copies, metas := t.metas, dies := t.dies, damage := t.damage, free := s.free + 1 } ∧
          (¬ HomeRequest s line agent → t.metas = s.metas) ∧
          ∀ x, HomeRequest s line agent → Meta.ofBits (s.metaBits line) = some x → SharedMeta s t line agent x)) ∧
    (HomeRequest s line agent ∨ agent / 8 = s.ident →
      (ReadBad s line → ∃ t, exec (.ownRead line agent) s = .next t ∧ Ungranted s t line) ∧
      (¬ ReadBad s line → RoomFor s agent →
        ∃ t, exec (.ownRead line agent) s = .next t ∧ (∀ b, t.hasCopy line b = (b == agent)) ∧ CopiesBut s t (fun n _ => n = line) ∧
          (∀ z ∈ t.damage, z ∈ s.damage) ∧
          t = { s with copies := t.copies, metas := t.metas, dies := t.dies, damage := t.damage, free := s.free + 1 } ∧
          (¬ HomeRequest s line agent → t.metas = s.metas) ∧
          ∀ x, HomeRequest s line agent → Meta.ofBits (s.metaBits line) = some x →
            t.metaBits line = (⟨.m, agent, 0, 0⟩ : Meta).bits ∧
            (t.die (homeDie (line * 128 % 2 ^ 43))).multicast = (s.die (homeDie (line * 128 % 2 ^ 43))).multicast +
              (if x.coh = .sw ∨ (x.coh = .o ∧ x.count ≠ 0) then 1 else 0))) ∧
    (¬ HomeRequest s line agent → s.hasCopy line agent = true → ∀ i ∈ [Instr.writeBack line agent, .cleanEvict line agent],
      ∃ t, exec i s = .next t ∧ Copied s t line agent false ∧ t = { s with copies := t.copies, dies := t.dies, damage := t.damage }) ∧
    (HomeRequest s line agent → s.hasCopy line agent = true → ReadBad s line →
      ∃ t, exec (.writeBack line agent) s = .next t ∧ Copied s t line agent false ∧ t.metas = s.metas ∧ SameMemory s t ∧ Lost s t line) ∧
    (∀ x, HomeRequest s line agent → s.hasCopy line agent = true → Meta.ofBits (s.metaBits line) = some x →
      let dirty := x.ptr = agent ∧ (x.coh = .m ∨ x.coh = .o)
      (dirty → ¬ ReadBad s line → ∃ t, exec (.writeBack line agent) s = .next t ∧ Copied s t line agent false ∧
        t = { s with copies := t.copies, metas := t.metas, dies := t.dies, damage := t.damage } ∧
        t.metaBits line = (if x.coh = .m then 0 else (⟨if x.count = 0 then .s else .sw, 0, x.mask, x.count⟩ : Meta).bits)) ∧
      (dirty → exec (.cleanEvict line agent) s = .next s) ∧
      (¬ dirty → ¬ ReadBad s line → ∃ t, exec (.writeBack line agent) s = .next t ∧ t = { s with dies := t.dies, damage := t.damage }) ∧
      (¬ dirty → ∃ t, exec (.cleanEvict line agent) s = .next t ∧ Copied s t line agent false ∧
        (x.ptr = agent ∧ x.coh = .e → t.metaBits line = 0) ∧ (¬(x.ptr = agent ∧ x.coh = .e) → t.metas = s.metas) ∧
        t = { s with copies := t.copies, metas := t.metas, dies := t.dies, damage := t.damage })) ∧
    (s.hasCopy line agent = false → exec (.writeBack line agent) s = .next s ∧ exec (.cleanEvict line agent) s = .next s) ∧
    exec (.forward line agent false) s = .next s ∧
    (∃ t, exec (.invalidation line agent) s = .next t ∧ Copied s t line agent false ∧
      t = { s with copies := t.copies, dies := t.dies, damage := t.damage }) ∧
    (∃ t, exec (.forward line agent true) s = .next t ∧ t.hasCopy line agent = false ∧ CopiesBut s t (fun n b => n = line ∧ b = agent) ∧
      SameMemory s t ∧ t.metas = s.metas ∧
      (s.dirtyBad line = false → t = { s with copies := t.copies, dies := t.dies, damage := t.damage }) ∧
      (∀ x, s.ownLine line = true → s.dirtyBad line = true → Meta.ofBits (s.metaBits line) = some x → x.ptr = agent → Lost s t line))) ∧
  (∀ (s : State) (die : Nat),
    (8 ≤ die → exec (.memoryScrub die) s = .next s) ∧
    (die < 8 → ∃ t, exec (.memoryScrub die) s = .next t ∧ t.damage = s.damage.filter (fun x => !s.softOn die x) ∧ SameMemory s t ∧
      (t.die die).scrubbed = (s.die die).scrubbed + 1 ∧ (t.die die).corrected = (s.die die).corrected + (s.damage.filter (s.softOn die)).length ∧
      ∀ n, Damage.line n ∈ s.damage ∨ Meta.ofBits (s.metaBits n) = none → s.homeOf n = some die →
        (s.die die).lost.length + s.damage.length + s.metas.length ≤ 1024 → n * 128 ∈ (t.die die).lost)) ∧
  (∀ (s : State) (port : Bool) (expected new : Word),
    (∃ t, exec (.mgmtSemaphoreCas port expected new) s = .next t ∧ t.replies = s.replies ++ [.old port s.mgmt] ∧
      (s.mgmt = expected → SwapAllowed s.mgmt new port → t.mgmt = new) ∧ (¬(s.mgmt = expected ∧ SwapAllowed s.mgmt new port) → t.mgmt = s.mgmt) ∧
      t = { s with mgmt := t.mgmt, replies := t.replies, dies := t.dies }) ∧
    (Holder s port → exec (.holderLinkDown port) s = .next { s with mgmt := s.mgmt ||| 4#64 }) ∧
    (¬ Holder s port → exec (.holderLinkDown port) s = .next s)) ∧
  (∀ (s : State) (port : Bool) (image : List Byte) (stage : Nat) (value : Word),
    (¬ Holder s port → ∀ i ∈ [Instr.stageImage port image, .commitVersion port stage, .setIdentity port value, .mgmtDeviceReset port],
      exec i s = .next (Told s (.notHolder port))) ∧
    (Holder s port →
      exec (.stageImage port image) s = .next { Told s (.done port) with flash := s.flash ++ [image] } ∧
      (1 ≤ stage → stage ≤ s.stage → stage ≤ 3 → ∃ t, exec (.commitVersion port stage) s = .next t ∧
        (∀ k, k < 3 → vget t.rollback k 0 = if k + 1 = stage then max (vget s.rollback k 0) (vget s.versions k 0) else vget s.rollback k 0) ∧
        t = { Told s (.done port) with rollback := t.rollback }) ∧
      (stage = 0 ∨ s.stage < stage → exec (.commitVersion port stage) s = .next (Told s (.done port))) ∧
      (4608 ≤ value.toNat ∨ s.identity.getLsbD 15 = true → exec (.setIdentity port value) s = .next (Told s (.refused port))) ∧
      (value.toNat < 4608 → s.identity.getLsbD 15 = false → ∃ t, exec (.setIdentity port value) s = .next t ∧
        t.identity = value + 0x8000#64 ∧ t.th = s.th ∧ t.scratch = s.scratch ∧ t.replies = s.replies ++ [.done port] ∧
        (Memory.wf s.mem = true → ∀ x, x < 2 ^ 43 → cellsRead t.mem (value.toNat * 2 ^ 43 + x) = cellsRead s.mem (s.ident * 2 ^ 43 + x))) ∧
      exec (.mgmtDeviceReset port) s = .next { Told s (.done port) with cv := { s.cv with reset := true } })) ∧
  (∀ (s : State) (port : Bool) (nonce : BitVec 256),
    let fresh := s.leaves < 1024 ∧ s.bootFuses ≠ 0
    (∃ t body sig lms, exec (.attestationRequest port nonce) s = .next t ∧ t.replies = s.replies ++ [.report port body sig lms] ∧
      (∀ i, i < 32 → body[i]? = some (nonce.extractLsb' (8 * i) 8)) ∧ (lms.isSome = true ↔ fresh) ∧
      (fresh → t.leaves = s.leaves + 1) ∧ (¬ fresh → t.leaves = s.leaves) ∧ t = { s with leaves := t.leaves, replies := t.replies }) ∧
    exec (.blackBoxRead port) s = .next (Told s (.blackBox port (s.dies.toList.map (·.bb)) s.bbFlash))) ∧
  (∀ (s : State) (port : Nat) (peer : BitVec 16) (good : Bool),
    (18 ≤ port → ∀ i ∈ [Instr.linkTraining port peer, .flitReplay port good, .fabricLinkDown port], exec i s = .next s) ∧
    (s.identity.getLsbD 15 = false → exec (.linkTraining port peer) s = .next s) ∧
    (port < 18 → s.identity.getLsbD 15 = true →
      let fits := peer.getLsbD 15 = true ∧ peer.toNat % 8192 ≠ s.ident
      let again := s.fabric.getLsbD port = true ∨ vget s.replays port 0 = 8
      ∃ t, exec (.linkTraining port peer) s = .next t ∧ t = { s with fabric := t.fabric, replays := t.replays, dies := t.dies } ∧
        (fits → PortSet s t port true ∧ vget t.replays port 0 = 0) ∧ (¬ fits → PortSet s t port false) ∧
        (¬ fits ∨ again → Logged s t 0x08#16 0 (BitVec.ofNat 64 port)) ∧ (fits → ¬ again → t.dies = s.dies)) ∧
    (port < 18 → s.fabric.getLsbD port = false → exec (.flitReplay port good) s = .next s ∧ exec (.fabricLinkDown port) s = .next s) ∧
    (port < 18 → s.fabric.getLsbD port = true →
      let down : State → Prop := fun t => PortSet s t port false ∧ vget t.replays port 0 = 8 ∧ Logged s t 0x08#16 0 (BitVec.ofNat 64 port)
      (∃ t, exec (.flitReplay port good) s = .next t ∧ t = { s with fabric := t.fabric, replays := t.replays, dies := t.dies } ∧
        (good = true → vget t.replays port 0 = 0 ∧ t.fabric = s.fabric ∧ t.dies = s.dies) ∧
        (good = false → vget s.replays port 0 < 7 →
          vget t.replays port 0 = vget s.replays port 0 + 1 ∧ t.fabric = s.fabric ∧ t.dies = s.dies) ∧
        (good = false → 7 ≤ vget s.replays port 0 → down t)) ∧
      (∃ t, exec (.fabricLinkDown port) s = .next t ∧ down t ∧ t = { s with fabric := t.fabric, replays := t.replays, dies := t.dies }))) ∧
  (∀ s : State, ∃ t, exec .coldBoot s = .next t ∧ t.scratch = [] ∧ t.packed = [] ∧ t.damage = [] ∧
    t.identity = 0 ∧ t.mgmt = 0 ∧ t.fabric = 0 ∧ t.launches = [] ∧ t.queues = [] ∧ t.ctxs = [] ∧ t.flash = s.flash ∧ t.rollback = s.rollback ∧
    t.bootFuses = (if s.bootFuses < 1024 then s.bootFuses + 1 else s.bootFuses) ∧ (∀ d, d < 9 → (t.die d).wear = (s.die d).wear) ∧
    t.stage ≤ 3 ∧ t.failing = (if t.stage = 3 then 0 else t.stage + 1) ∧
    (0 < t.stage ↔ ∃ im, s.stageOf 1 = some im ∧ imageRuns 1 (vget s.rollback 0 0) im = true) ∧ (t.stage = 0 → t.mem = []) ∧
    t.th = { Thread.resetControl 0 with
      run := if t.stage = 3 then .ready else .halted
      pc := if t.stage = 0 then 0 else Config.firmwareEntry &&& ~~~(15#64)
      priv := { Priv.reset with ptroot := if t.stage = 0 then 0 else Config.firmwareRoot &&& ~~~(0xFFFF#64) } }) ∧
  (∀ (s : State) (die : Nat) (v : BitVec 16) (firmware : Bool),
    (9 ≤ die ∨ ((s.die die).wear ≤ v ∧ firmware = false) → exec (.wearUpdate die v firmware) s = .next s) ∧
    (die < 9 → v < (s.die die).wear ∨ firmware = true → ∃ t, exec (.wearUpdate die v firmware) s = .next t ∧
      (∀ e, (t.die e).wear = if e = die then v else (s.die e).wear) ∧ t = { s with dies := t.dies })) ∧
  (∀ (s : State) (port : Bool) (off : Nat) (v : BitVec 512),
    let waiting := s.netOut.find? (fun a => a.port == port && a.off == off && !a.store)
    (waiting = none → exec (.networkWindowResponse port off v) s = .next s) ∧
    ∀ a, waiting = some a → exec (.networkWindowResponse port off v) s =
      .next { s with netOut := s.netOut.erase a, netIn := s.netIn ++ [{ a with data := v &&& BitVec.ofNat 512 (2 ^ (8 * a.size) - 1) }] })

/-- R23, R32, R417: what a step does with the word it fetches. The order of a step's parts is the model's (log 1, 2), and so are the other bits of a register error's detail (log 47). -/
def Obligations.StepRunsDecoded : Prop :=
  (∀ (s s1 u : State) (w : BitVec 32) (i : Instr), Fetched s s1 w i → SoundRegs s1 → exec i { s1 with cv := opened s1 w i } = .next u →
    (u.cv.wait = none → step s = s.settle (s1.endConvoy (u.mendStored 0) s1.nextUid (lonelyWords w))) ∧
    (∀ x, u.cv.wait = some x → step s = s.settle (s1.endConvoy
      { s1 with cv := { opened s1 w i with noting := true, wait := some x }, free := u.free, woken := u.woken } s1.nextUid (lonelyWords w))) ∧
    (u.cv = { opened s1 w i with kept := u.cv.kept } →
      (∀ y ∈ u.threads, y.parked = true → ∀ z ∈ s.threads, z.uid = y.uid → z.tokens = y.tokens) → ∃ t, step s = .next t ∧
      t.th.pc = s1.th.pc + 16 ∧ t.th.regs = u.th.regs ∧ t.th.vregs = u.th.vregs ∧ t.th.csr = { u.th.csr with vstart := 0, cvret := u.th.csr.cvret + 1 } ∧
      SameMemory u t ∧ (∀ z ∈ t.damage, z ∈ u.damage) ∧ t = { u with th := t.th, damage := t.damage, cv := Convoy.empty })) ∧
  (∀ (s s1 u : State) (w : BitVec 32) (i : Instr) (d : BitVec 5), Fetched s s1 w i → d ∈ (traits i).reads → d ≠ 0 →
    .reg s1.th.uid 2 d.toNat 0 ∈ s1.damage → exec i { s1 with cv := opened s1 w i } = .next u → u.cv.fault = none →
    let v := s1.th.csr.vstart.toNat
    ∃ x : Word, x.extractLsb' 59 5 = 6#5 ∧ step s = s.settle (s1.faultAt
      ({ s1 with cv := { opened s1 w i with fault := some ⟨0x07, v, 0, x⟩, limit := some v }, free := s1.free + 2 }.chargeRest
        (lonelyWords w) ⟨0x07, v, 0, x⟩) false ⟨0x07, v, 0, x⟩)) ∧
  (∀ (s u : State) (e : Instr) (rest : List Instr), s.agenda = e :: rest →
    let r : State := { s with agenda := rest }
    let selects : Option Nat := match e with
      | .convoyIssue core | .issueAgeing core _ => some core
      | _ => none
    ((traits e).event = true → exec e ((selects.map r.scout).getD r) = .next u → step s = s.settle u) ∧
    ((traits e).event = false → step s = s.settle r)) ∧
  (∀ s : State, s.agenda = [] → (seen s).pick (seen s).th.core = none → step s = s.settle (seen s).tick)

/-- R29, R55, R56: no bit of an encoding is dropped. -/
def Obligations.DecodeEncode : Prop :=
  ∀ i : Instr, i.wf = true → i.isWord = true → decodeWord (encode i) = .ok i

/-- R29, R55, R56, R64: fields as the formats lay them out. -/
def Obligations.DecodeSanity : Prop :=
  decodeWord (0x01#6 ++ 3#5 ++ 4#5 ++ 5#5 ++ 0#5 ++ 0#6) = .ok (.add 3 4 5) ∧
  decodeWord (0x02#6 ++ 3#5 ++ 3#5 ++ 0xFFFF#16) = .ok (.addi 3 3 0xFFFF) ∧
  decodeWord (0x0A#6 ++ 7#5 ++ 0x100001#21) = .ok (.lui 7 0x100001) ∧
  decodeWord (0x12#6 ++ 1#5 ++ 2#5 ++ 15#4 ++ 0xFF8#12) = .ok (.ldd 1 2 15 0xFF8) ∧
  decodeWord (0x18#6 ++ 6#5 ++ 7#5 ++ 0x8000#16) = .ok (.bne 6 7 0x8000) ∧
  decodeWord (0x1E#6 ++ 0x2000001#26) = .ok (.jal 0x2000001) ∧
  decodeWord (0x20#6 ++ 4#5 ++ 0#5 ++ 0x800#12 ++ 0#4) = .ok (.csrr 4 0x800) ∧
  decodeWord (0x24#6 ++ 8#5 ++ 16#5 ++ 24#5 ++ 2#3 ++ 5#3 ++ 1#1 ++ 0#1 ++ 2#3) = .ok (.vfmul 8 16 24 2 5 1 0) ∧
  decodeWord (0x2E#6 ++ 8#5 ++ 2#5 ++ 16#5 ++ 1#3 ++ 3#4 ++ 13#4) = .ok (.vldx 8 2 16 1 3 13) ∧
  decodeWord (0x36#6 ++ 5#3 ++ 2#3 ++ 8#5 ++ 16#5 ++ 9#5 ++ 2#5) = .ok (.dmac 5 2 8 16 9) ∧
  decodeWord (0x39#6 ++ 3#5 ++ 4#5 ++ 5#5 ++ 6#4 ++ 0#2 ++ 1#5) = .ok (.amoadd 3 4 5 6 0 1) ∧
  decodeWord (0x3B#6 ++ 0xA5F0#16 ++ 9#4 ++ 1#3 ++ 0#3) = .ok (.fenceRel 0xA5F0 9) ∧
  decodeWord (0x3E#6 ++ 1#5 ++ 2#5 ++ 3#5 ++ 31#6 ++ 0#5) = .ok (.copy 1 2 3 31) ∧
  decodeWord (0x3F#6 ++ 0#5 ++ 6#5 ++ 0#5 ++ 5#11) = .ok (.engrst 6) ∧
  decodeWord (0x3F#6 ++ 2#5 ++ 6#5 ++ 0#5 ++ 7#11) = .ok (.migrate 2 6) ∧
  decodeWord 0x00000000 = .error ⟨0, 0⟩ ∧ decodeWord 0x04642840 = .error ⟨2, 0⟩ ∧ decodeWord 0x04642818 = .error ⟨1, 0⟩ ∧
  decodeWord 0x1C83C001 = .error ⟨7, 0⟩ ∧ decodeWord 0xE4642B15 = .error ⟨1, 0⟩

/-- R113, R382, R394, R419, R422: reset. The pc, the scalar registers and the other control cores are log 4 and 5. -/
def Obligations.ResetState : Prop :=
  State.reset.th.priv = ⟨true, 0x8#64, 0, 0, 0, 3#2, 0, 0, 1024#11, 0⟩ ∧ State.reset.privileged = true ∧
  State.reset.identity = 0 ∧ State.reset.mgmt = 0 ∧ State.reset.fabric = 0 ∧ State.reset.ringTail = 0 ∧ State.reset.ringHead = 0 ∧ State.reset.ringSize = 0 ∧
  (∀ d, d < 9 → (State.reset.die d).cycle = 0 ∧ (State.reset.die d).corrected = 0 ∧ (State.reset.die d).wear = 0xFFFF#16) ∧
  State.reset.threads.length = 16 ∧ State.reset.th.core = 4096 ∧ State.reset.th.run = .ready ∧ (∀ x ∈ State.reset.others, 4096 < x.core ∧ x.run = .halted) ∧
  (∀ c, State.reset.coreRec c = ⟨c, 3#2, 1024#11, 1024#11, 0, false, 0, 0, []⟩) ∧
  State.reset.launches = [] ∧ State.reset.tasks = [] ∧ State.reset.queues = [] ∧ State.reset.ctxs = [] ∧ State.reset.bars = [] ∧ State.reset.sems = [] ∧
  State.reset.sectors = [] ∧ State.reset.tlb = [] ∧ State.reset.copies = [] ∧ (∀ n, State.reset.metaBits n = 0) ∧
  State.reset.th.pc = 0 ∧ (∀ d, State.reset.reg d = 0) ∧ State.reset.MemWf ∧ State.reset.PcAligned

/-- Every instruction and event completes, traps or waits (R24, R391, R395); equal memories are equal data (log 6). -/
def Obligations.StepKeepsMemory : Prop :=
  ∀ s : State, s.MemWf → ∃ t, step s = .next t ∧ t.MemWf

/-- R22: bits [3:0] of every program counter stay zero. -/
def Obligations.StepKeepsPc : Prop :=
  ∀ s t : State, s.PcAligned → step s = .next t → t.PcAligned
end

