-- ==== Sys2Proof/Laws/Memory.lean ====
section
/-! SUPPORT. The laws of the byte stores: a read after a write, and the canonical form, which every memory operation keeps (log 6). -/

namespace Sys2Proof.Machine

open Sys2Proof

/-! ## Read after write -/

theorem cellsRead_filter (m : List Host.Cell) (p : Host.Cell → Bool) (a : Nat) (h : ∀ v, p (a, v) = true) :
    cellsRead (m.filter p) a = cellsRead m a := by
  induction m with
  | nil => rfl
  | cons c t ih =>
    obtain ⟨x, b⟩ := c
    by_cases e : a = x
    · subst e; simp [List.filter, h b, cellsRead]
    · by_cases q : p (x, b) = true
      · simp [List.filter, q, cellsRead, e, ih]
      · simp [List.filter, q, cellsRead, e, ih]

theorem cellsRead_filter_none (m : List Host.Cell) (p : Host.Cell → Bool) (a : Nat) (h : ∀ v, p (a, v) = false) :
    cellsRead (m.filter p) a = blankByte := by
  induction m with
  | nil => rfl
  | cons c t ih =>
    obtain ⟨x, b⟩ := c
    by_cases e : a = x
    · subst e; simp [List.filter, h b, ih]
    · by_cases q : p (x, b) = true
      · simp [List.filter, q, cellsRead, e, ih]
      · simp [List.filter, q, ih]

theorem cellsRead_insert_other (m : List Host.Cell) (a : Nat) (v : Byte) (y : Nat) (h : y ≠ a) :
    cellsRead (cellsInsert m a v) y = cellsRead m y := by
  induction m with
  | nil => simp [cellsInsert, cellsRead, h]
  | cons c t ih =>
    obtain ⟨x, b⟩ := c
    unfold cellsInsert
    split
    · simp [cellsRead, h]
    · simp [cellsRead, ih]

theorem cellsRead_insert_same (m : List Host.Cell) (a : Nat) (v : Byte) (h : ∀ c ∈ m, c.1 ≠ a) :
    cellsRead (cellsInsert m a v) a = v := by
  induction m with
  | nil => simp [cellsInsert, cellsRead]
  | cons c t ih =>
    obtain ⟨x, b⟩ := c
    have hx : a ≠ x := fun e => h (x, b) (by simp) e.symm
    unfold cellsInsert
    split
    · simp [cellsRead]
    · simp [cellsRead, hx, ih (fun c hc => h c (by simp [hc]))]

/-- A read gives what the last write to the address stored, and every other address reads as before, in any store. -/
theorem cellsRead_write (m : List Host.Cell) (a : Nat) (v : Byte) (y : Nat) :
    cellsRead (cellsWrite m a v) y = if y = a then v else cellsRead m y := by
  unfold cellsWrite
  by_cases e : y = a
  · subst e
    by_cases z : v = blankByte
    · simp [z]
      exact cellsRead_filter_none m _ y (by simp)
    · simp [z]
      exact cellsRead_insert_same _ y v (by simp)
  · by_cases z : v = blankByte
    · simp [z, e]
      exact cellsRead_filter m _ y (by simp [e])
    · simp [z, e, cellsRead_insert_other _ a v y e]
      exact cellsRead_filter m _ y (by simp [e])

/-- The byte that a masked store leaves: the stored bits where the mask selects, the old ones elsewhere. -/
def mergedByte (old : Byte) (v mask : Nat) : Byte := (old &&& ~~~(BitVec.ofNat 8 mask)) ||| (BitVec.ofNat 8 v &&& BitVec.ofNat 8 mask)

/-- A masked store of `n` bytes changes exactly those bytes, each by its part of value and mask. -/
theorem cellsRead_merge (m : List Host.Cell) (a v mask n y : Nat) :
    cellsRead (cellsMerge m a v mask n) y =
      if a ≤ y ∧ y < a + n then mergedByte (cellsRead m y) (v / 256 ^ (y - a)) (mask / 256 ^ (y - a)) else cellsRead m y := by
  induction n generalizing m a v mask with
  | zero => rw [if_neg (by omega)]; rfl
  | succ n ih =>
    simp only [cellsMerge]
    rw [ih]
    have one : ∀ z, cellsRead (if BitVec.ofNat 8 mask = 0 then m else
        cellsWrite m a ((cellsRead m a &&& ~~~(BitVec.ofNat 8 mask)) ||| (BitVec.ofNat 8 v &&& BitVec.ofNat 8 mask))) z =
        if z = a then mergedByte (cellsRead m a) v mask else cellsRead m z := by
      intro z
      split
      · rename_i h
        by_cases e : z = a
        · subst e
          have full : ∀ b : Byte, b = (b &&& ~~~(0#8)) ||| (BitVec.ofNat 8 v &&& 0#8) := by intro b; simp; exact (BitVec.and_allOnes (x := b)).symm
          simp only [mergedByte, h, if_true]
          exact full _
        · simp [e]
      · rw [cellsRead_write]; rfl
    rw [one]
    by_cases h1 : y = a
    · subst h1
      have : ¬ (y + 1 ≤ y) := by omega
      simp [this]
    · by_cases h2 : a + 1 ≤ y ∧ y < a + 1 + n
      · have h3 : a ≤ y ∧ y < a + (n + 1) := by omega
        have h4 : y - a = (y - (a + 1)) + 1 := by omega
        simp only [h2, h3, h1, and_self, if_true, if_false, h4, Nat.pow_succ]
        rw [Nat.mul_comm, ← Nat.div_div_eq_div_mul, ← Nat.div_div_eq_div_mul]
      · have h3 : ¬ (a ≤ y ∧ y < a + (n + 1)) := by omega
        rw [if_neg h2, if_neg h3, if_neg h1]

/-- Bytes outside a masked store read as before. -/
theorem cellsRead_merge_other (m : List Host.Cell) (a v mask n y : Nat) (h : y < a ∨ a + n ≤ y) :
    cellsRead (cellsMerge m a v mask n) y = cellsRead m y := by
  rw [cellsRead_merge, if_neg (by omega)]

/-- A number of `n` bytes is the number of its bytes. -/
theorem cellsReadNat_lt (m : List Host.Cell) (a n : Nat) : cellsReadNat m a n < 256 ^ n := by
  induction n generalizing a with
  | zero => simp [cellsReadNat]
  | succ n ih =>
    have := ih (a + 1)
    have b := (cellsRead m a).isLt
    simp only [cellsReadNat, Nat.pow_succ]
    omega

/-- Byte `i` of a number read at an address. -/
theorem cellsReadNat_byte (m : List Host.Cell) (a n i : Nat) (h : i < n) :
    cellsReadNat m a n / 256 ^ i % 256 = (cellsRead m (a + i)).toNat := by
  induction n generalizing a i with
  | zero => omega
  | succ n ih =>
    have b := (cellsRead m a).isLt
    cases i with
    | zero => simp only [cellsReadNat, Nat.pow_zero, Nat.div_one, Nat.add_zero]; omega
    | succ i =>
      have := ih (a + 1) i (by omega)
      rw [show a + (i + 1) = a + 1 + i by omega, ← this]
      simp only [cellsReadNat, Nat.pow_succ]
      rw [Nat.mul_comm (256 ^ i) 256, ← Nat.div_div_eq_div_mul]
      congr 2
      omega

/-- Two stores that agree on `n` bytes give the same number. -/
theorem cellsReadNat_congr (m m' : List Host.Cell) (a n : Nat) (h : ∀ i, i < n → cellsRead m (a + i) = cellsRead m' (a + i)) :
    cellsReadNat m a n = cellsReadNat m' a n := by
  induction n generalizing a with
  | zero => rfl
  | succ n ih =>
    have h0 := h 0 (by omega)
    simp only [Nat.add_zero] at h0
    simp only [cellsReadNat, h0]
    rw [ih (a + 1) (fun i hi => by have := h (i + 1) (by omega); rwa [show a + (i + 1) = a + 1 + i by omega] at this)]

/-! ## The canonical form -/

theorem cellsWfFrom_mono (m : List Host.Cell) (lo lo' : Nat) (h : lo' ≤ lo) (w : cellsWfFrom lo m = true) : cellsWfFrom lo' m = true := by
  cases m with
  | nil => rfl
  | cons c t =>
    obtain ⟨x, b⟩ := c
    simp only [cellsWfFrom, Bool.and_eq_true, decide_eq_true_eq] at w ⊢
    exact ⟨⟨by omega, w.1.2⟩, w.2⟩

theorem cellsWfFrom_filter (m : List Host.Cell) (p : Host.Cell → Bool) (lo : Nat) (w : cellsWfFrom lo m = true) :
    cellsWfFrom lo (m.filter p) = true := by
  induction m generalizing lo with
  | nil => rfl
  | cons c t ih =>
    obtain ⟨x, b⟩ := c
    simp only [cellsWfFrom, Bool.and_eq_true, decide_eq_true_eq] at w
    by_cases q : p (x, b) = true
    · simp only [List.filter, q, cellsWfFrom, Bool.and_eq_true, decide_eq_true_eq]
      exact ⟨w.1, ih (x + 1) w.2⟩
    · simp only [List.filter, q]
      exact ih lo (cellsWfFrom_mono t (x + 1) lo (by omega) w.2)

theorem cellsWfFrom_insert (m : List Host.Cell) (a : Nat) (v : Byte) (lo : Nat) (w : cellsWfFrom lo m = true)
    (h : ∀ c ∈ m, c.1 ≠ a) (hl : lo ≤ a) (hv : v ≠ blankByte) : cellsWfFrom lo (cellsInsert m a v) = true := by
  induction m generalizing lo with
  | nil => simp [cellsInsert, cellsWfFrom, hl, hv]
  | cons c t ih =>
    obtain ⟨x, b⟩ := c
    have hx : x ≠ a := h (x, b) (by simp)
    simp only [cellsWfFrom, Bool.and_eq_true, decide_eq_true_eq] at w
    unfold cellsInsert
    split
    · simp only [cellsWfFrom, Bool.and_eq_true, decide_eq_true_eq]
      exact ⟨⟨hl, hv⟩, ⟨by omega, w.1.2⟩, w.2⟩
    · simp only [cellsWfFrom, Bool.and_eq_true, decide_eq_true_eq]
      exact ⟨w.1, ih (x + 1) w.2 (fun c hc => h c (by simp [hc])) (by omega)⟩

/-- Writing one byte keeps the canonical form. -/
theorem Memory.wf_write (m : List Host.Cell) (a : Nat) (v : Byte) (h : Memory.wf m = true) : Memory.wf (cellsWrite m a v) = true := by
  unfold cellsWrite Memory.wf at *
  by_cases z : v = blankByte
  · simp only [z, if_true]; exact cellsWfFrom_filter m _ 0 h
  · simp only [z, if_false]
    exact cellsWfFrom_insert _ a v 0 (cellsWfFrom_filter m _ 0 h) (by simp) (Nat.zero_le a) z

/-- A masked store keeps the canonical form. -/
theorem Memory.wf_merge (m : List Host.Cell) (a v mask n : Nat) (h : Memory.wf m = true) : Memory.wf (cellsMerge m a v mask n) = true := by
  induction n generalizing m a v mask with
  | zero => exact h
  | succ n ih =>
    simp only [cellsMerge]
    apply ih
    split
    · exact h
    · exact Memory.wf_write _ _ _ h

/-- Dropping entries keeps the canonical form. -/
theorem Memory.wf_filter (m : List Host.Cell) (p : Host.Cell → Bool) (h : Memory.wf m = true) : Memory.wf (m.filter p) = true :=
  cellsWfFrom_filter m p 0 h

/-- Writing a list of cells, each at its own place, keeps the canonical form. -/
theorem Memory.wf_foldl {α : Type} (l : List α) (f : α → Nat) (g : α → Byte) (m : List Host.Cell) (h : Memory.wf m = true) :
    Memory.wf (l.foldl (fun m c => cellsWrite m (f c) (g c)) m) = true := by
  induction l generalizing m with
  | nil => exact h
  | cons c t ih => exact ih _ (Memory.wf_write m _ _ h)

/-- The empty store is in the canonical form. -/
theorem Memory.wf_nil : Memory.wf [] = true := rfl

/-- A listed byte of a canonical store is not blank, and is what its address reads as. -/
theorem cellsRead_of_mem (m : List Host.Cell) (lo : Nat) (w : cellsWfFrom lo m = true) (x : Nat) (b : Byte) (h : (x, b) ∈ m) :
    lo ≤ x ∧ b ≠ blankByte ∧ cellsRead m x = b := by
  induction m generalizing lo with
  | nil => cases h
  | cons c t ih =>
    obtain ⟨y, d⟩ := c
    simp only [cellsWfFrom, Bool.and_eq_true, decide_eq_true_eq] at w
    rcases List.mem_cons.mp h with e | e
    · cases e
      exact ⟨w.1.1, by simpa using w.1.2, by simp [cellsRead]⟩
    · have := ih (y + 1) w.2 e
      have hne : x ≠ y := by omega
      exact ⟨by omega, this.2.1, by simp [cellsRead, hne, this.2.2]⟩

/-- Equal reads of canonical stores make equal stores. -/
theorem Memory.wf_ext (m m' : List Host.Cell) (h : Memory.wf m = true) (h' : Memory.wf m' = true)
    (e : ∀ a, cellsRead m a = cellsRead m' a) : m = m' := by
  suffices ∀ (m m' : List Host.Cell) (lo lo' : Nat), cellsWfFrom lo m = true → cellsWfFrom lo' m' = true →
      (∀ a, cellsRead m a = cellsRead m' a) → m = m' from this m m' 0 0 h h' e
  intro m
  induction m with
  | nil =>
    intro m' lo lo' _ w' e
    cases m' with
    | nil => rfl
    | cons c t =>
      obtain ⟨y, d⟩ := c
      have := cellsRead_of_mem _ lo' w' y d (by simp)
      have q := e y
      rw [this.2.2] at q
      exact absurd q.symm this.2.1
  | cons c t ih =>
    obtain ⟨x, b⟩ := c
    intro m' lo lo' w w' e
    have hx := cellsRead_of_mem _ lo w x b (by simp)
    cases m' with
    | nil =>
      have q := e x
      rw [hx.2.2] at q
      exact absurd q hx.2.1
    | cons c' t' =>
      obtain ⟨y, d⟩ := c'
      have hy := cellsRead_of_mem _ lo' w' y d (by simp)
      simp only [cellsWfFrom, Bool.and_eq_true, decide_eq_true_eq] at w w'
      have low : ∀ (z : Nat) (l : List Host.Cell) (k : Nat), cellsWfFrom k l = true → z < k → cellsRead l z = blankByte := by
        intro z l
        induction l with
        | nil => intros; rfl
        | cons c l ihl =>
          obtain ⟨p, q⟩ := c
          intro k wk hz
          simp only [cellsWfFrom, Bool.and_eq_true, decide_eq_true_eq] at wk
          have : z ≠ p := by omega
          simp only [cellsRead, this, if_false]
          exact ihl (p + 1) wk.2 (by omega)
      have hxy : x = y := by
        rcases Nat.lt_trichotomy x y with l | l | l
        · have q := e x
          rw [hx.2.2] at q
          simp only [cellsRead, show x ≠ y by omega, if_false] at q
          rw [low x t' (y + 1) w'.2 (by omega)] at q
          exact absurd q hx.2.1
        · exact l
        · have q := e y
          rw [hy.2.2] at q
          simp only [cellsRead, show y ≠ x by omega, if_false] at q
          rw [low y t (x + 1) w.2 (by omega)] at q
          exact absurd q.symm hy.2.1
      subst hxy
      have hbd : b = d := by
        have q := e x
        simpa [cellsRead] using q
      subst hbd
      congr 1
      apply ih t' (x + 1) (x + 1) w.2 w'.2
      intro a
      by_cases ha : a = x
      · subst ha
        rw [low a t (a + 1) w.2 (by omega), low a t' (a + 1) w'.2 (by omega)]
      · have q := e a
        simpa [cellsRead, ha] using q

end Sys2Proof.Machine
end

