-- ==== Sys2Proof/Laws/State.lean ====
section
/-! SUPPORT. What each update of the state leaves alone, field by field, so that no proof unfolds a record update. -/

namespace Sys2Proof.Machine

open Sys2Proof

/-! ## onTh -/

@[simp] theorem State.onTh_others (s : State) (f : Thread → Thread) : (s.onTh f).others = s.others := rfl
@[simp] theorem State.onTh_nextUid (s : State) (f : Thread → Thread) : (s.onTh f).nextUid = s.nextUid := rfl
@[simp] theorem State.onTh_mem (s : State) (f : Thread → Thread) : (s.onTh f).mem = s.mem := rfl
@[simp] theorem State.onTh_scratch (s : State) (f : Thread → Thread) : (s.onTh f).scratch = s.scratch := rfl
@[simp] theorem State.onTh_metas (s : State) (f : Thread → Thread) : (s.onTh f).metas = s.metas := rfl
@[simp] theorem State.onTh_copies (s : State) (f : Thread → Thread) : (s.onTh f).copies = s.copies := rfl
@[simp] theorem State.onTh_sectors (s : State) (f : Thread → Thread) : (s.onTh f).sectors = s.sectors := rfl
@[simp] theorem State.onTh_ro (s : State) (f : Thread → Thread) : (s.onTh f).ro = s.ro := rfl
@[simp] theorem State.onTh_icache (s : State) (f : Thread → Thread) : (s.onTh f).icache = s.icache := rfl
@[simp] theorem State.onTh_tlb (s : State) (f : Thread → Thread) : (s.onTh f).tlb = s.tlb := rfl
@[simp] theorem State.onTh_slices (s : State) (f : Thread → Thread) : (s.onTh f).slices = s.slices := rfl
@[simp] theorem State.onTh_walks (s : State) (f : Thread → Thread) : (s.onTh f).walks = s.walks := rfl
@[simp] theorem State.onTh_woken (s : State) (f : Thread → Thread) : (s.onTh f).woken = s.woken := rfl
@[simp] theorem State.onTh_cores (s : State) (f : Thread → Thread) : (s.onTh f).cores = s.cores := rfl
@[simp] theorem State.onTh_dies (s : State) (f : Thread → Thread) : (s.onTh f).dies = s.dies := rfl
@[simp] theorem State.onTh_ctxs (s : State) (f : Thread → Thread) : (s.onTh f).ctxs = s.ctxs := rfl
@[simp] theorem State.onTh_launches (s : State) (f : Thread → Thread) : (s.onTh f).launches = s.launches := rfl
@[simp] theorem State.onTh_nextLaunch (s : State) (f : Thread → Thread) : (s.onTh f).nextLaunch = s.nextLaunch := rfl
@[simp] theorem State.onTh_tasks (s : State) (f : Thread → Thread) : (s.onTh f).tasks = s.tasks := rfl
@[simp] theorem State.onTh_sems (s : State) (f : Thread → Thread) : (s.onTh f).sems = s.sems := rfl
@[simp] theorem State.onTh_bars (s : State) (f : Thread → Thread) : (s.onTh f).bars = s.bars := rfl
@[simp] theorem State.onTh_queues (s : State) (f : Thread → Thread) : (s.onTh f).queues = s.queues := rfl
@[simp] theorem State.onTh_packed (s : State) (f : Thread → Thread) : (s.onTh f).packed = s.packed := rfl
@[simp] theorem State.onTh_hostQs (s : State) (f : Thread → Thread) : (s.onTh f).hostQs = s.hostQs := rfl
@[simp] theorem State.onTh_netOut (s : State) (f : Thread → Thread) : (s.onTh f).netOut = s.netOut := rfl
@[simp] theorem State.onTh_netIn (s : State) (f : Thread → Thread) : (s.onTh f).netIn = s.netIn := rfl
@[simp] theorem State.onTh_ringBase (s : State) (f : Thread → Thread) : (s.onTh f).ringBase = s.ringBase := rfl
@[simp] theorem State.onTh_ringSize (s : State) (f : Thread → Thread) : (s.onTh f).ringSize = s.ringSize := rfl
@[simp] theorem State.onTh_ringTail (s : State) (f : Thread → Thread) : (s.onTh f).ringTail = s.ringTail := rfl
@[simp] theorem State.onTh_ringHead (s : State) (f : Thread → Thread) : (s.onTh f).ringHead = s.ringHead := rfl
@[simp] theorem State.onTh_ringWait (s : State) (f : Thread → Thread) : (s.onTh f).ringWait = s.ringWait := rfl
@[simp] theorem State.onTh_mgmt (s : State) (f : Thread → Thread) : (s.onTh f).mgmt = s.mgmt := rfl
@[simp] theorem State.onTh_identity (s : State) (f : Thread → Thread) : (s.onTh f).identity = s.identity := rfl
@[simp] theorem State.onTh_fabric (s : State) (f : Thread → Thread) : (s.onTh f).fabric = s.fabric := rfl
@[simp] theorem State.onTh_replays (s : State) (f : Thread → Thread) : (s.onTh f).replays = s.replays := rfl
@[simp] theorem State.onTh_measures (s : State) (f : Thread → Thread) : (s.onTh f).measures = s.measures := rfl
@[simp] theorem State.onTh_versions (s : State) (f : Thread → Thread) : (s.onTh f).versions = s.versions := rfl
@[simp] theorem State.onTh_rollback (s : State) (f : Thread → Thread) : (s.onTh f).rollback = s.rollback := rfl
@[simp] theorem State.onTh_stage (s : State) (f : Thread → Thread) : (s.onTh f).stage = s.stage := rfl
@[simp] theorem State.onTh_failing (s : State) (f : Thread → Thread) : (s.onTh f).failing = s.failing := rfl
@[simp] theorem State.onTh_bootFuses (s : State) (f : Thread → Thread) : (s.onTh f).bootFuses = s.bootFuses := rfl
@[simp] theorem State.onTh_leaves (s : State) (f : Thread → Thread) : (s.onTh f).leaves = s.leaves := rfl
@[simp] theorem State.onTh_flash (s : State) (f : Thread → Thread) : (s.onTh f).flash = s.flash := rfl
@[simp] theorem State.onTh_bbFlash (s : State) (f : Thread → Thread) : (s.onTh f).bbFlash = s.bbFlash := rfl
@[simp] theorem State.onTh_replies (s : State) (f : Thread → Thread) : (s.onTh f).replies = s.replies := rfl
@[simp] theorem State.onTh_damage (s : State) (f : Thread → Thread) : (s.onTh f).damage = s.damage := rfl
@[simp] theorem State.onTh_cv (s : State) (f : Thread → Thread) : (s.onTh f).cv = s.cv := rfl
@[simp] theorem State.onTh_agenda (s : State) (f : Thread → Thread) : (s.onTh f).agenda = s.agenda := rfl
@[simp] theorem State.onTh_free (s : State) (f : Thread → Thread) : (s.onTh f).free = s.free := rfl

/-! ## onCsr -/

@[simp] theorem State.onCsr_others (s : State) (f : Csrs → Csrs) : (s.onCsr f).others = s.others := rfl
@[simp] theorem State.onCsr_nextUid (s : State) (f : Csrs → Csrs) : (s.onCsr f).nextUid = s.nextUid := rfl
@[simp] theorem State.onCsr_mem (s : State) (f : Csrs → Csrs) : (s.onCsr f).mem = s.mem := rfl
@[simp] theorem State.onCsr_scratch (s : State) (f : Csrs → Csrs) : (s.onCsr f).scratch = s.scratch := rfl
@[simp] theorem State.onCsr_metas (s : State) (f : Csrs → Csrs) : (s.onCsr f).metas = s.metas := rfl
@[simp] theorem State.onCsr_copies (s : State) (f : Csrs → Csrs) : (s.onCsr f).copies = s.copies := rfl
@[simp] theorem State.onCsr_sectors (s : State) (f : Csrs → Csrs) : (s.onCsr f).sectors = s.sectors := rfl
@[simp] theorem State.onCsr_ro (s : State) (f : Csrs → Csrs) : (s.onCsr f).ro = s.ro := rfl
@[simp] theorem State.onCsr_icache (s : State) (f : Csrs → Csrs) : (s.onCsr f).icache = s.icache := rfl
@[simp] theorem State.onCsr_tlb (s : State) (f : Csrs → Csrs) : (s.onCsr f).tlb = s.tlb := rfl
@[simp] theorem State.onCsr_slices (s : State) (f : Csrs → Csrs) : (s.onCsr f).slices = s.slices := rfl
@[simp] theorem State.onCsr_walks (s : State) (f : Csrs → Csrs) : (s.onCsr f).walks = s.walks := rfl
@[simp] theorem State.onCsr_woken (s : State) (f : Csrs → Csrs) : (s.onCsr f).woken = s.woken := rfl
@[simp] theorem State.onCsr_cores (s : State) (f : Csrs → Csrs) : (s.onCsr f).cores = s.cores := rfl
@[simp] theorem State.onCsr_dies (s : State) (f : Csrs → Csrs) : (s.onCsr f).dies = s.dies := rfl
@[simp] theorem State.onCsr_ctxs (s : State) (f : Csrs → Csrs) : (s.onCsr f).ctxs = s.ctxs := rfl
@[simp] theorem State.onCsr_launches (s : State) (f : Csrs → Csrs) : (s.onCsr f).launches = s.launches := rfl
@[simp] theorem State.onCsr_nextLaunch (s : State) (f : Csrs → Csrs) : (s.onCsr f).nextLaunch = s.nextLaunch := rfl
@[simp] theorem State.onCsr_tasks (s : State) (f : Csrs → Csrs) : (s.onCsr f).tasks = s.tasks := rfl
@[simp] theorem State.onCsr_sems (s : State) (f : Csrs → Csrs) : (s.onCsr f).sems = s.sems := rfl
@[simp] theorem State.onCsr_bars (s : State) (f : Csrs → Csrs) : (s.onCsr f).bars = s.bars := rfl
@[simp] theorem State.onCsr_queues (s : State) (f : Csrs → Csrs) : (s.onCsr f).queues = s.queues := rfl
@[simp] theorem State.onCsr_packed (s : State) (f : Csrs → Csrs) : (s.onCsr f).packed = s.packed := rfl
@[simp] theorem State.onCsr_hostQs (s : State) (f : Csrs → Csrs) : (s.onCsr f).hostQs = s.hostQs := rfl
@[simp] theorem State.onCsr_netOut (s : State) (f : Csrs → Csrs) : (s.onCsr f).netOut = s.netOut := rfl
@[simp] theorem State.onCsr_netIn (s : State) (f : Csrs → Csrs) : (s.onCsr f).netIn = s.netIn := rfl
@[simp] theorem State.onCsr_ringBase (s : State) (f : Csrs → Csrs) : (s.onCsr f).ringBase = s.ringBase := rfl
@[simp] theorem State.onCsr_ringSize (s : State) (f : Csrs → Csrs) : (s.onCsr f).ringSize = s.ringSize := rfl
@[simp] theorem State.onCsr_ringTail (s : State) (f : Csrs → Csrs) : (s.onCsr f).ringTail = s.ringTail := rfl
@[simp] theorem State.onCsr_ringHead (s : State) (f : Csrs → Csrs) : (s.onCsr f).ringHead = s.ringHead := rfl
@[simp] theorem State.onCsr_ringWait (s : State) (f : Csrs → Csrs) : (s.onCsr f).ringWait = s.ringWait := rfl
@[simp] theorem State.onCsr_mgmt (s : State) (f : Csrs → Csrs) : (s.onCsr f).mgmt = s.mgmt := rfl
@[simp] theorem State.onCsr_identity (s : State) (f : Csrs → Csrs) : (s.onCsr f).identity = s.identity := rfl
@[simp] theorem State.onCsr_fabric (s : State) (f : Csrs → Csrs) : (s.onCsr f).fabric = s.fabric := rfl
@[simp] theorem State.onCsr_replays (s : State) (f : Csrs → Csrs) : (s.onCsr f).replays = s.replays := rfl
@[simp] theorem State.onCsr_measures (s : State) (f : Csrs → Csrs) : (s.onCsr f).measures = s.measures := rfl
@[simp] theorem State.onCsr_versions (s : State) (f : Csrs → Csrs) : (s.onCsr f).versions = s.versions := rfl
@[simp] theorem State.onCsr_rollback (s : State) (f : Csrs → Csrs) : (s.onCsr f).rollback = s.rollback := rfl
@[simp] theorem State.onCsr_stage (s : State) (f : Csrs → Csrs) : (s.onCsr f).stage = s.stage := rfl
@[simp] theorem State.onCsr_failing (s : State) (f : Csrs → Csrs) : (s.onCsr f).failing = s.failing := rfl
@[simp] theorem State.onCsr_bootFuses (s : State) (f : Csrs → Csrs) : (s.onCsr f).bootFuses = s.bootFuses := rfl
@[simp] theorem State.onCsr_leaves (s : State) (f : Csrs → Csrs) : (s.onCsr f).leaves = s.leaves := rfl
@[simp] theorem State.onCsr_flash (s : State) (f : Csrs → Csrs) : (s.onCsr f).flash = s.flash := rfl
@[simp] theorem State.onCsr_bbFlash (s : State) (f : Csrs → Csrs) : (s.onCsr f).bbFlash = s.bbFlash := rfl
@[simp] theorem State.onCsr_replies (s : State) (f : Csrs → Csrs) : (s.onCsr f).replies = s.replies := rfl
@[simp] theorem State.onCsr_damage (s : State) (f : Csrs → Csrs) : (s.onCsr f).damage = s.damage := rfl
@[simp] theorem State.onCsr_cv (s : State) (f : Csrs → Csrs) : (s.onCsr f).cv = s.cv := rfl
@[simp] theorem State.onCsr_agenda (s : State) (f : Csrs → Csrs) : (s.onCsr f).agenda = s.agenda := rfl
@[simp] theorem State.onCsr_free (s : State) (f : Csrs → Csrs) : (s.onCsr f).free = s.free := rfl

/-! ## onCv -/

@[simp] theorem State.onCv_th (s : State) (f : Convoy → Convoy) : (s.onCv f).th = s.th := rfl
@[simp] theorem State.onCv_others (s : State) (f : Convoy → Convoy) : (s.onCv f).others = s.others := rfl
@[simp] theorem State.onCv_nextUid (s : State) (f : Convoy → Convoy) : (s.onCv f).nextUid = s.nextUid := rfl
@[simp] theorem State.onCv_mem (s : State) (f : Convoy → Convoy) : (s.onCv f).mem = s.mem := rfl
@[simp] theorem State.onCv_scratch (s : State) (f : Convoy → Convoy) : (s.onCv f).scratch = s.scratch := rfl
@[simp] theorem State.onCv_metas (s : State) (f : Convoy → Convoy) : (s.onCv f).metas = s.metas := rfl
@[simp] theorem State.onCv_copies (s : State) (f : Convoy → Convoy) : (s.onCv f).copies = s.copies := rfl
@[simp] theorem State.onCv_sectors (s : State) (f : Convoy → Convoy) : (s.onCv f).sectors = s.sectors := rfl
@[simp] theorem State.onCv_ro (s : State) (f : Convoy → Convoy) : (s.onCv f).ro = s.ro := rfl
@[simp] theorem State.onCv_icache (s : State) (f : Convoy → Convoy) : (s.onCv f).icache = s.icache := rfl
@[simp] theorem State.onCv_tlb (s : State) (f : Convoy → Convoy) : (s.onCv f).tlb = s.tlb := rfl
@[simp] theorem State.onCv_slices (s : State) (f : Convoy → Convoy) : (s.onCv f).slices = s.slices := rfl
@[simp] theorem State.onCv_walks (s : State) (f : Convoy → Convoy) : (s.onCv f).walks = s.walks := rfl
@[simp] theorem State.onCv_woken (s : State) (f : Convoy → Convoy) : (s.onCv f).woken = s.woken := rfl
@[simp] theorem State.onCv_cores (s : State) (f : Convoy → Convoy) : (s.onCv f).cores = s.cores := rfl
@[simp] theorem State.onCv_dies (s : State) (f : Convoy → Convoy) : (s.onCv f).dies = s.dies := rfl
@[simp] theorem State.onCv_ctxs (s : State) (f : Convoy → Convoy) : (s.onCv f).ctxs = s.ctxs := rfl
@[simp] theorem State.onCv_launches (s : State) (f : Convoy → Convoy) : (s.onCv f).launches = s.launches := rfl
@[simp] theorem State.onCv_nextLaunch (s : State) (f : Convoy → Convoy) : (s.onCv f).nextLaunch = s.nextLaunch := rfl
@[simp] theorem State.onCv_tasks (s : State) (f : Convoy → Convoy) : (s.onCv f).tasks = s.tasks := rfl
@[simp] theorem State.onCv_sems (s : State) (f : Convoy → Convoy) : (s.onCv f).sems = s.sems := rfl
@[simp] theorem State.onCv_bars (s : State) (f : Convoy → Convoy) : (s.onCv f).bars = s.bars := rfl
@[simp] theorem State.onCv_queues (s : State) (f : Convoy → Convoy) : (s.onCv f).queues = s.queues := rfl
@[simp] theorem State.onCv_packed (s : State) (f : Convoy → Convoy) : (s.onCv f).packed = s.packed := rfl
@[simp] theorem State.onCv_hostQs (s : State) (f : Convoy → Convoy) : (s.onCv f).hostQs = s.hostQs := rfl
@[simp] theorem State.onCv_netOut (s : State) (f : Convoy → Convoy) : (s.onCv f).netOut = s.netOut := rfl
@[simp] theorem State.onCv_netIn (s : State) (f : Convoy → Convoy) : (s.onCv f).netIn = s.netIn := rfl
@[simp] theorem State.onCv_ringBase (s : State) (f : Convoy → Convoy) : (s.onCv f).ringBase = s.ringBase := rfl
@[simp] theorem State.onCv_ringSize (s : State) (f : Convoy → Convoy) : (s.onCv f).ringSize = s.ringSize := rfl
@[simp] theorem State.onCv_ringTail (s : State) (f : Convoy → Convoy) : (s.onCv f).ringTail = s.ringTail := rfl
@[simp] theorem State.onCv_ringHead (s : State) (f : Convoy → Convoy) : (s.onCv f).ringHead = s.ringHead := rfl
@[simp] theorem State.onCv_ringWait (s : State) (f : Convoy → Convoy) : (s.onCv f).ringWait = s.ringWait := rfl
@[simp] theorem State.onCv_mgmt (s : State) (f : Convoy → Convoy) : (s.onCv f).mgmt = s.mgmt := rfl
@[simp] theorem State.onCv_identity (s : State) (f : Convoy → Convoy) : (s.onCv f).identity = s.identity := rfl
@[simp] theorem State.onCv_fabric (s : State) (f : Convoy → Convoy) : (s.onCv f).fabric = s.fabric := rfl
@[simp] theorem State.onCv_replays (s : State) (f : Convoy → Convoy) : (s.onCv f).replays = s.replays := rfl
@[simp] theorem State.onCv_measures (s : State) (f : Convoy → Convoy) : (s.onCv f).measures = s.measures := rfl
@[simp] theorem State.onCv_versions (s : State) (f : Convoy → Convoy) : (s.onCv f).versions = s.versions := rfl
@[simp] theorem State.onCv_rollback (s : State) (f : Convoy → Convoy) : (s.onCv f).rollback = s.rollback := rfl
@[simp] theorem State.onCv_stage (s : State) (f : Convoy → Convoy) : (s.onCv f).stage = s.stage := rfl
@[simp] theorem State.onCv_failing (s : State) (f : Convoy → Convoy) : (s.onCv f).failing = s.failing := rfl
@[simp] theorem State.onCv_bootFuses (s : State) (f : Convoy → Convoy) : (s.onCv f).bootFuses = s.bootFuses := rfl
@[simp] theorem State.onCv_leaves (s : State) (f : Convoy → Convoy) : (s.onCv f).leaves = s.leaves := rfl
@[simp] theorem State.onCv_flash (s : State) (f : Convoy → Convoy) : (s.onCv f).flash = s.flash := rfl
@[simp] theorem State.onCv_bbFlash (s : State) (f : Convoy → Convoy) : (s.onCv f).bbFlash = s.bbFlash := rfl
@[simp] theorem State.onCv_replies (s : State) (f : Convoy → Convoy) : (s.onCv f).replies = s.replies := rfl
@[simp] theorem State.onCv_damage (s : State) (f : Convoy → Convoy) : (s.onCv f).damage = s.damage := rfl
@[simp] theorem State.onCv_agenda (s : State) (f : Convoy → Convoy) : (s.onCv f).agenda = s.agenda := rfl
@[simp] theorem State.onCv_free (s : State) (f : Convoy → Convoy) : (s.onCv f).free = s.free := rfl

/-! ## setReg -/

@[simp] theorem State.setReg_others (s : State) (d : BitVec 5) (v : Word) : (s.setReg d v).others = s.others := rfl
@[simp] theorem State.setReg_nextUid (s : State) (d : BitVec 5) (v : Word) : (s.setReg d v).nextUid = s.nextUid := rfl
@[simp] theorem State.setReg_mem (s : State) (d : BitVec 5) (v : Word) : (s.setReg d v).mem = s.mem := rfl
@[simp] theorem State.setReg_scratch (s : State) (d : BitVec 5) (v : Word) : (s.setReg d v).scratch = s.scratch := rfl
@[simp] theorem State.setReg_metas (s : State) (d : BitVec 5) (v : Word) : (s.setReg d v).metas = s.metas := rfl
@[simp] theorem State.setReg_copies (s : State) (d : BitVec 5) (v : Word) : (s.setReg d v).copies = s.copies := rfl
@[simp] theorem State.setReg_sectors (s : State) (d : BitVec 5) (v : Word) : (s.setReg d v).sectors = s.sectors := rfl
@[simp] theorem State.setReg_ro (s : State) (d : BitVec 5) (v : Word) : (s.setReg d v).ro = s.ro := rfl
@[simp] theorem State.setReg_icache (s : State) (d : BitVec 5) (v : Word) : (s.setReg d v).icache = s.icache := rfl
@[simp] theorem State.setReg_tlb (s : State) (d : BitVec 5) (v : Word) : (s.setReg d v).tlb = s.tlb := rfl
@[simp] theorem State.setReg_slices (s : State) (d : BitVec 5) (v : Word) : (s.setReg d v).slices = s.slices := rfl
@[simp] theorem State.setReg_walks (s : State) (d : BitVec 5) (v : Word) : (s.setReg d v).walks = s.walks := rfl
@[simp] theorem State.setReg_woken (s : State) (d : BitVec 5) (v : Word) : (s.setReg d v).woken = s.woken := rfl
@[simp] theorem State.setReg_cores (s : State) (d : BitVec 5) (v : Word) : (s.setReg d v).cores = s.cores := rfl
@[simp] theorem State.setReg_dies (s : State) (d : BitVec 5) (v : Word) : (s.setReg d v).dies = s.dies := rfl
@[simp] theorem State.setReg_ctxs (s : State) (d : BitVec 5) (v : Word) : (s.setReg d v).ctxs = s.ctxs := rfl
@[simp] theorem State.setReg_launches (s : State) (d : BitVec 5) (v : Word) : (s.setReg d v).launches = s.launches := rfl
@[simp] theorem State.setReg_nextLaunch (s : State) (d : BitVec 5) (v : Word) : (s.setReg d v).nextLaunch = s.nextLaunch := rfl
@[simp] theorem State.setReg_tasks (s : State) (d : BitVec 5) (v : Word) : (s.setReg d v).tasks = s.tasks := rfl
@[simp] theorem State.setReg_sems (s : State) (d : BitVec 5) (v : Word) : (s.setReg d v).sems = s.sems := rfl
@[simp] theorem State.setReg_bars (s : State) (d : BitVec 5) (v : Word) : (s.setReg d v).bars = s.bars := rfl
@[simp] theorem State.setReg_queues (s : State) (d : BitVec 5) (v : Word) : (s.setReg d v).queues = s.queues := rfl
@[simp] theorem State.setReg_packed (s : State) (d : BitVec 5) (v : Word) : (s.setReg d v).packed = s.packed := rfl
@[simp] theorem State.setReg_hostQs (s : State) (d : BitVec 5) (v : Word) : (s.setReg d v).hostQs = s.hostQs := rfl
@[simp] theorem State.setReg_netOut (s : State) (d : BitVec 5) (v : Word) : (s.setReg d v).netOut = s.netOut := rfl
@[simp] theorem State.setReg_netIn (s : State) (d : BitVec 5) (v : Word) : (s.setReg d v).netIn = s.netIn := rfl
@[simp] theorem State.setReg_ringBase (s : State) (d : BitVec 5) (v : Word) : (s.setReg d v).ringBase = s.ringBase := rfl
@[simp] theorem State.setReg_ringSize (s : State) (d : BitVec 5) (v : Word) : (s.setReg d v).ringSize = s.ringSize := rfl
@[simp] theorem State.setReg_ringTail (s : State) (d : BitVec 5) (v : Word) : (s.setReg d v).ringTail = s.ringTail := rfl
@[simp] theorem State.setReg_ringHead (s : State) (d : BitVec 5) (v : Word) : (s.setReg d v).ringHead = s.ringHead := rfl
@[simp] theorem State.setReg_ringWait (s : State) (d : BitVec 5) (v : Word) : (s.setReg d v).ringWait = s.ringWait := rfl
@[simp] theorem State.setReg_mgmt (s : State) (d : BitVec 5) (v : Word) : (s.setReg d v).mgmt = s.mgmt := rfl
@[simp] theorem State.setReg_identity (s : State) (d : BitVec 5) (v : Word) : (s.setReg d v).identity = s.identity := rfl
@[simp] theorem State.setReg_fabric (s : State) (d : BitVec 5) (v : Word) : (s.setReg d v).fabric = s.fabric := rfl
@[simp] theorem State.setReg_replays (s : State) (d : BitVec 5) (v : Word) : (s.setReg d v).replays = s.replays := rfl
@[simp] theorem State.setReg_measures (s : State) (d : BitVec 5) (v : Word) : (s.setReg d v).measures = s.measures := rfl
@[simp] theorem State.setReg_versions (s : State) (d : BitVec 5) (v : Word) : (s.setReg d v).versions = s.versions := rfl
@[simp] theorem State.setReg_rollback (s : State) (d : BitVec 5) (v : Word) : (s.setReg d v).rollback = s.rollback := rfl
@[simp] theorem State.setReg_stage (s : State) (d : BitVec 5) (v : Word) : (s.setReg d v).stage = s.stage := rfl
@[simp] theorem State.setReg_failing (s : State) (d : BitVec 5) (v : Word) : (s.setReg d v).failing = s.failing := rfl
@[simp] theorem State.setReg_bootFuses (s : State) (d : BitVec 5) (v : Word) : (s.setReg d v).bootFuses = s.bootFuses := rfl
@[simp] theorem State.setReg_leaves (s : State) (d : BitVec 5) (v : Word) : (s.setReg d v).leaves = s.leaves := rfl
@[simp] theorem State.setReg_flash (s : State) (d : BitVec 5) (v : Word) : (s.setReg d v).flash = s.flash := rfl
@[simp] theorem State.setReg_bbFlash (s : State) (d : BitVec 5) (v : Word) : (s.setReg d v).bbFlash = s.bbFlash := rfl
@[simp] theorem State.setReg_replies (s : State) (d : BitVec 5) (v : Word) : (s.setReg d v).replies = s.replies := rfl
@[simp] theorem State.setReg_damage (s : State) (d : BitVec 5) (v : Word) : (s.setReg d v).damage = s.damage := rfl
@[simp] theorem State.setReg_cv (s : State) (d : BitVec 5) (v : Word) : (s.setReg d v).cv = s.cv := rfl
@[simp] theorem State.setReg_agenda (s : State) (d : BitVec 5) (v : Word) : (s.setReg d v).agenda = s.agenda := rfl
@[simp] theorem State.setReg_free (s : State) (d : BitVec 5) (v : Word) : (s.setReg d v).free = s.free := rfl

/-! ## orFlags -/

@[simp] theorem State.orFlags_others (s : State) (f : BitVec 6) : (s.orFlags f).others = s.others := rfl
@[simp] theorem State.orFlags_nextUid (s : State) (f : BitVec 6) : (s.orFlags f).nextUid = s.nextUid := rfl
@[simp] theorem State.orFlags_mem (s : State) (f : BitVec 6) : (s.orFlags f).mem = s.mem := rfl
@[simp] theorem State.orFlags_scratch (s : State) (f : BitVec 6) : (s.orFlags f).scratch = s.scratch := rfl
@[simp] theorem State.orFlags_metas (s : State) (f : BitVec 6) : (s.orFlags f).metas = s.metas := rfl
@[simp] theorem State.orFlags_copies (s : State) (f : BitVec 6) : (s.orFlags f).copies = s.copies := rfl
@[simp] theorem State.orFlags_sectors (s : State) (f : BitVec 6) : (s.orFlags f).sectors = s.sectors := rfl
@[simp] theorem State.orFlags_ro (s : State) (f : BitVec 6) : (s.orFlags f).ro = s.ro := rfl
@[simp] theorem State.orFlags_icache (s : State) (f : BitVec 6) : (s.orFlags f).icache = s.icache := rfl
@[simp] theorem State.orFlags_tlb (s : State) (f : BitVec 6) : (s.orFlags f).tlb = s.tlb := rfl
@[simp] theorem State.orFlags_slices (s : State) (f : BitVec 6) : (s.orFlags f).slices = s.slices := rfl
@[simp] theorem State.orFlags_walks (s : State) (f : BitVec 6) : (s.orFlags f).walks = s.walks := rfl
@[simp] theorem State.orFlags_woken (s : State) (f : BitVec 6) : (s.orFlags f).woken = s.woken := rfl
@[simp] theorem State.orFlags_cores (s : State) (f : BitVec 6) : (s.orFlags f).cores = s.cores := rfl
@[simp] theorem State.orFlags_dies (s : State) (f : BitVec 6) : (s.orFlags f).dies = s.dies := rfl
@[simp] theorem State.orFlags_ctxs (s : State) (f : BitVec 6) : (s.orFlags f).ctxs = s.ctxs := rfl
@[simp] theorem State.orFlags_launches (s : State) (f : BitVec 6) : (s.orFlags f).launches = s.launches := rfl
@[simp] theorem State.orFlags_nextLaunch (s : State) (f : BitVec 6) : (s.orFlags f).nextLaunch = s.nextLaunch := rfl
@[simp] theorem State.orFlags_tasks (s : State) (f : BitVec 6) : (s.orFlags f).tasks = s.tasks := rfl
@[simp] theorem State.orFlags_sems (s : State) (f : BitVec 6) : (s.orFlags f).sems = s.sems := rfl
@[simp] theorem State.orFlags_bars (s : State) (f : BitVec 6) : (s.orFlags f).bars = s.bars := rfl
@[simp] theorem State.orFlags_queues (s : State) (f : BitVec 6) : (s.orFlags f).queues = s.queues := rfl
@[simp] theorem State.orFlags_packed (s : State) (f : BitVec 6) : (s.orFlags f).packed = s.packed := rfl
@[simp] theorem State.orFlags_hostQs (s : State) (f : BitVec 6) : (s.orFlags f).hostQs = s.hostQs := rfl
@[simp] theorem State.orFlags_netOut (s : State) (f : BitVec 6) : (s.orFlags f).netOut = s.netOut := rfl
@[simp] theorem State.orFlags_netIn (s : State) (f : BitVec 6) : (s.orFlags f).netIn = s.netIn := rfl
@[simp] theorem State.orFlags_ringBase (s : State) (f : BitVec 6) : (s.orFlags f).ringBase = s.ringBase := rfl
@[simp] theorem State.orFlags_ringSize (s : State) (f : BitVec 6) : (s.orFlags f).ringSize = s.ringSize := rfl
@[simp] theorem State.orFlags_ringTail (s : State) (f : BitVec 6) : (s.orFlags f).ringTail = s.ringTail := rfl
@[simp] theorem State.orFlags_ringHead (s : State) (f : BitVec 6) : (s.orFlags f).ringHead = s.ringHead := rfl
@[simp] theorem State.orFlags_ringWait (s : State) (f : BitVec 6) : (s.orFlags f).ringWait = s.ringWait := rfl
@[simp] theorem State.orFlags_mgmt (s : State) (f : BitVec 6) : (s.orFlags f).mgmt = s.mgmt := rfl
@[simp] theorem State.orFlags_identity (s : State) (f : BitVec 6) : (s.orFlags f).identity = s.identity := rfl
@[simp] theorem State.orFlags_fabric (s : State) (f : BitVec 6) : (s.orFlags f).fabric = s.fabric := rfl
@[simp] theorem State.orFlags_replays (s : State) (f : BitVec 6) : (s.orFlags f).replays = s.replays := rfl
@[simp] theorem State.orFlags_measures (s : State) (f : BitVec 6) : (s.orFlags f).measures = s.measures := rfl
@[simp] theorem State.orFlags_versions (s : State) (f : BitVec 6) : (s.orFlags f).versions = s.versions := rfl
@[simp] theorem State.orFlags_rollback (s : State) (f : BitVec 6) : (s.orFlags f).rollback = s.rollback := rfl
@[simp] theorem State.orFlags_stage (s : State) (f : BitVec 6) : (s.orFlags f).stage = s.stage := rfl
@[simp] theorem State.orFlags_failing (s : State) (f : BitVec 6) : (s.orFlags f).failing = s.failing := rfl
@[simp] theorem State.orFlags_bootFuses (s : State) (f : BitVec 6) : (s.orFlags f).bootFuses = s.bootFuses := rfl
@[simp] theorem State.orFlags_leaves (s : State) (f : BitVec 6) : (s.orFlags f).leaves = s.leaves := rfl
@[simp] theorem State.orFlags_flash (s : State) (f : BitVec 6) : (s.orFlags f).flash = s.flash := rfl
@[simp] theorem State.orFlags_bbFlash (s : State) (f : BitVec 6) : (s.orFlags f).bbFlash = s.bbFlash := rfl
@[simp] theorem State.orFlags_replies (s : State) (f : BitVec 6) : (s.orFlags f).replies = s.replies := rfl
@[simp] theorem State.orFlags_damage (s : State) (f : BitVec 6) : (s.orFlags f).damage = s.damage := rfl
@[simp] theorem State.orFlags_cv (s : State) (f : BitVec 6) : (s.orFlags f).cv = s.cv := rfl
@[simp] theorem State.orFlags_agenda (s : State) (f : BitVec 6) : (s.orFlags f).agenda = s.agenda := rfl
@[simp] theorem State.orFlags_free (s : State) (f : BitVec 6) : (s.orFlags f).free = s.free := rfl

/-! ## onThreads -/

@[simp] theorem State.onThreads_nextUid (s : State) (p : Thread → Bool) (f : Thread → Thread) : (s.onThreads p f).nextUid = s.nextUid := rfl
@[simp] theorem State.onThreads_mem (s : State) (p : Thread → Bool) (f : Thread → Thread) : (s.onThreads p f).mem = s.mem := rfl
@[simp] theorem State.onThreads_scratch (s : State) (p : Thread → Bool) (f : Thread → Thread) : (s.onThreads p f).scratch = s.scratch := rfl
@[simp] theorem State.onThreads_metas (s : State) (p : Thread → Bool) (f : Thread → Thread) : (s.onThreads p f).metas = s.metas := rfl
@[simp] theorem State.onThreads_copies (s : State) (p : Thread → Bool) (f : Thread → Thread) : (s.onThreads p f).copies = s.copies := rfl
@[simp] theorem State.onThreads_sectors (s : State) (p : Thread → Bool) (f : Thread → Thread) : (s.onThreads p f).sectors = s.sectors := rfl
@[simp] theorem State.onThreads_ro (s : State) (p : Thread → Bool) (f : Thread → Thread) : (s.onThreads p f).ro = s.ro := rfl
@[simp] theorem State.onThreads_icache (s : State) (p : Thread → Bool) (f : Thread → Thread) : (s.onThreads p f).icache = s.icache := rfl
@[simp] theorem State.onThreads_tlb (s : State) (p : Thread → Bool) (f : Thread → Thread) : (s.onThreads p f).tlb = s.tlb := rfl
@[simp] theorem State.onThreads_slices (s : State) (p : Thread → Bool) (f : Thread → Thread) : (s.onThreads p f).slices = s.slices := rfl
@[simp] theorem State.onThreads_walks (s : State) (p : Thread → Bool) (f : Thread → Thread) : (s.onThreads p f).walks = s.walks := rfl
@[simp] theorem State.onThreads_woken (s : State) (p : Thread → Bool) (f : Thread → Thread) : (s.onThreads p f).woken = s.woken := rfl
@[simp] theorem State.onThreads_cores (s : State) (p : Thread → Bool) (f : Thread → Thread) : (s.onThreads p f).cores = s.cores := rfl
@[simp] theorem State.onThreads_dies (s : State) (p : Thread → Bool) (f : Thread → Thread) : (s.onThreads p f).dies = s.dies := rfl
@[simp] theorem State.onThreads_ctxs (s : State) (p : Thread → Bool) (f : Thread → Thread) : (s.onThreads p f).ctxs = s.ctxs := rfl
@[simp] theorem State.onThreads_launches (s : State) (p : Thread → Bool) (f : Thread → Thread) : (s.onThreads p f).launches = s.launches := rfl
@[simp] theorem State.onThreads_nextLaunch (s : State) (p : Thread → Bool) (f : Thread → Thread) : (s.onThreads p f).nextLaunch = s.nextLaunch := rfl
@[simp] theorem State.onThreads_tasks (s : State) (p : Thread → Bool) (f : Thread → Thread) : (s.onThreads p f).tasks = s.tasks := rfl
@[simp] theorem State.onThreads_sems (s : State) (p : Thread → Bool) (f : Thread → Thread) : (s.onThreads p f).sems = s.sems := rfl
@[simp] theorem State.onThreads_bars (s : State) (p : Thread → Bool) (f : Thread → Thread) : (s.onThreads p f).bars = s.bars := rfl
@[simp] theorem State.onThreads_queues (s : State) (p : Thread → Bool) (f : Thread → Thread) : (s.onThreads p f).queues = s.queues := rfl
@[simp] theorem State.onThreads_packed (s : State) (p : Thread → Bool) (f : Thread → Thread) : (s.onThreads p f).packed = s.packed := rfl
@[simp] theorem State.onThreads_hostQs (s : State) (p : Thread → Bool) (f : Thread → Thread) : (s.onThreads p f).hostQs = s.hostQs := rfl
@[simp] theorem State.onThreads_netOut (s : State) (p : Thread → Bool) (f : Thread → Thread) : (s.onThreads p f).netOut = s.netOut := rfl
@[simp] theorem State.onThreads_netIn (s : State) (p : Thread → Bool) (f : Thread → Thread) : (s.onThreads p f).netIn = s.netIn := rfl
@[simp] theorem State.onThreads_ringBase (s : State) (p : Thread → Bool) (f : Thread → Thread) : (s.onThreads p f).ringBase = s.ringBase := rfl
@[simp] theorem State.onThreads_ringSize (s : State) (p : Thread → Bool) (f : Thread → Thread) : (s.onThreads p f).ringSize = s.ringSize := rfl
@[simp] theorem State.onThreads_ringTail (s : State) (p : Thread → Bool) (f : Thread → Thread) : (s.onThreads p f).ringTail = s.ringTail := rfl
@[simp] theorem State.onThreads_ringHead (s : State) (p : Thread → Bool) (f : Thread → Thread) : (s.onThreads p f).ringHead = s.ringHead := rfl
@[simp] theorem State.onThreads_ringWait (s : State) (p : Thread → Bool) (f : Thread → Thread) : (s.onThreads p f).ringWait = s.ringWait := rfl
@[simp] theorem State.onThreads_mgmt (s : State) (p : Thread → Bool) (f : Thread → Thread) : (s.onThreads p f).mgmt = s.mgmt := rfl
@[simp] theorem State.onThreads_identity (s : State) (p : Thread → Bool) (f : Thread → Thread) : (s.onThreads p f).identity = s.identity := rfl
@[simp] theorem State.onThreads_fabric (s : State) (p : Thread → Bool) (f : Thread → Thread) : (s.onThreads p f).fabric = s.fabric := rfl
@[simp] theorem State.onThreads_replays (s : State) (p : Thread → Bool) (f : Thread → Thread) : (s.onThreads p f).replays = s.replays := rfl
@[simp] theorem State.onThreads_measures (s : State) (p : Thread → Bool) (f : Thread → Thread) : (s.onThreads p f).measures = s.measures := rfl
@[simp] theorem State.onThreads_versions (s : State) (p : Thread → Bool) (f : Thread → Thread) : (s.onThreads p f).versions = s.versions := rfl
@[simp] theorem State.onThreads_rollback (s : State) (p : Thread → Bool) (f : Thread → Thread) : (s.onThreads p f).rollback = s.rollback := rfl
@[simp] theorem State.onThreads_stage (s : State) (p : Thread → Bool) (f : Thread → Thread) : (s.onThreads p f).stage = s.stage := rfl
@[simp] theorem State.onThreads_failing (s : State) (p : Thread → Bool) (f : Thread → Thread) : (s.onThreads p f).failing = s.failing := rfl
@[simp] theorem State.onThreads_bootFuses (s : State) (p : Thread → Bool) (f : Thread → Thread) : (s.onThreads p f).bootFuses = s.bootFuses := rfl
@[simp] theorem State.onThreads_leaves (s : State) (p : Thread → Bool) (f : Thread → Thread) : (s.onThreads p f).leaves = s.leaves := rfl
@[simp] theorem State.onThreads_flash (s : State) (p : Thread → Bool) (f : Thread → Thread) : (s.onThreads p f).flash = s.flash := rfl
@[simp] theorem State.onThreads_bbFlash (s : State) (p : Thread → Bool) (f : Thread → Thread) : (s.onThreads p f).bbFlash = s.bbFlash := rfl
@[simp] theorem State.onThreads_replies (s : State) (p : Thread → Bool) (f : Thread → Thread) : (s.onThreads p f).replies = s.replies := rfl
@[simp] theorem State.onThreads_damage (s : State) (p : Thread → Bool) (f : Thread → Thread) : (s.onThreads p f).damage = s.damage := rfl
@[simp] theorem State.onThreads_cv (s : State) (p : Thread → Bool) (f : Thread → Thread) : (s.onThreads p f).cv = s.cv := rfl
@[simp] theorem State.onThreads_agenda (s : State) (p : Thread → Bool) (f : Thread → Thread) : (s.onThreads p f).agenda = s.agenda := rfl
@[simp] theorem State.onThreads_free (s : State) (p : Thread → Bool) (f : Thread → Thread) : (s.onThreads p f).free = s.free := rfl

/-! ## onDie -/

@[simp] theorem State.onDie_th (s : State) (d : Nat) (f : Die → Die) : (s.onDie d f).th = s.th := rfl
@[simp] theorem State.onDie_others (s : State) (d : Nat) (f : Die → Die) : (s.onDie d f).others = s.others := rfl
@[simp] theorem State.onDie_nextUid (s : State) (d : Nat) (f : Die → Die) : (s.onDie d f).nextUid = s.nextUid := rfl
@[simp] theorem State.onDie_mem (s : State) (d : Nat) (f : Die → Die) : (s.onDie d f).mem = s.mem := rfl
@[simp] theorem State.onDie_scratch (s : State) (d : Nat) (f : Die → Die) : (s.onDie d f).scratch = s.scratch := rfl
@[simp] theorem State.onDie_metas (s : State) (d : Nat) (f : Die → Die) : (s.onDie d f).metas = s.metas := rfl
@[simp] theorem State.onDie_copies (s : State) (d : Nat) (f : Die → Die) : (s.onDie d f).copies = s.copies := rfl
@[simp] theorem State.onDie_sectors (s : State) (d : Nat) (f : Die → Die) : (s.onDie d f).sectors = s.sectors := rfl
@[simp] theorem State.onDie_ro (s : State) (d : Nat) (f : Die → Die) : (s.onDie d f).ro = s.ro := rfl
@[simp] theorem State.onDie_icache (s : State) (d : Nat) (f : Die → Die) : (s.onDie d f).icache = s.icache := rfl
@[simp] theorem State.onDie_tlb (s : State) (d : Nat) (f : Die → Die) : (s.onDie d f).tlb = s.tlb := rfl
@[simp] theorem State.onDie_slices (s : State) (d : Nat) (f : Die → Die) : (s.onDie d f).slices = s.slices := rfl
@[simp] theorem State.onDie_walks (s : State) (d : Nat) (f : Die → Die) : (s.onDie d f).walks = s.walks := rfl
@[simp] theorem State.onDie_woken (s : State) (d : Nat) (f : Die → Die) : (s.onDie d f).woken = s.woken := rfl
@[simp] theorem State.onDie_cores (s : State) (d : Nat) (f : Die → Die) : (s.onDie d f).cores = s.cores := rfl
@[simp] theorem State.onDie_ctxs (s : State) (d : Nat) (f : Die → Die) : (s.onDie d f).ctxs = s.ctxs := rfl
@[simp] theorem State.onDie_launches (s : State) (d : Nat) (f : Die → Die) : (s.onDie d f).launches = s.launches := rfl
@[simp] theorem State.onDie_nextLaunch (s : State) (d : Nat) (f : Die → Die) : (s.onDie d f).nextLaunch = s.nextLaunch := rfl
@[simp] theorem State.onDie_tasks (s : State) (d : Nat) (f : Die → Die) : (s.onDie d f).tasks = s.tasks := rfl
@[simp] theorem State.onDie_sems (s : State) (d : Nat) (f : Die → Die) : (s.onDie d f).sems = s.sems := rfl
@[simp] theorem State.onDie_bars (s : State) (d : Nat) (f : Die → Die) : (s.onDie d f).bars = s.bars := rfl
@[simp] theorem State.onDie_queues (s : State) (d : Nat) (f : Die → Die) : (s.onDie d f).queues = s.queues := rfl
@[simp] theorem State.onDie_packed (s : State) (d : Nat) (f : Die → Die) : (s.onDie d f).packed = s.packed := rfl
@[simp] theorem State.onDie_hostQs (s : State) (d : Nat) (f : Die → Die) : (s.onDie d f).hostQs = s.hostQs := rfl
@[simp] theorem State.onDie_netOut (s : State) (d : Nat) (f : Die → Die) : (s.onDie d f).netOut = s.netOut := rfl
@[simp] theorem State.onDie_netIn (s : State) (d : Nat) (f : Die → Die) : (s.onDie d f).netIn = s.netIn := rfl
@[simp] theorem State.onDie_ringBase (s : State) (d : Nat) (f : Die → Die) : (s.onDie d f).ringBase = s.ringBase := rfl
@[simp] theorem State.onDie_ringSize (s : State) (d : Nat) (f : Die → Die) : (s.onDie d f).ringSize = s.ringSize := rfl
@[simp] theorem State.onDie_ringTail (s : State) (d : Nat) (f : Die → Die) : (s.onDie d f).ringTail = s.ringTail := rfl
@[simp] theorem State.onDie_ringHead (s : State) (d : Nat) (f : Die → Die) : (s.onDie d f).ringHead = s.ringHead := rfl
@[simp] theorem State.onDie_ringWait (s : State) (d : Nat) (f : Die → Die) : (s.onDie d f).ringWait = s.ringWait := rfl
@[simp] theorem State.onDie_mgmt (s : State) (d : Nat) (f : Die → Die) : (s.onDie d f).mgmt = s.mgmt := rfl
@[simp] theorem State.onDie_identity (s : State) (d : Nat) (f : Die → Die) : (s.onDie d f).identity = s.identity := rfl
@[simp] theorem State.onDie_fabric (s : State) (d : Nat) (f : Die → Die) : (s.onDie d f).fabric = s.fabric := rfl
@[simp] theorem State.onDie_replays (s : State) (d : Nat) (f : Die → Die) : (s.onDie d f).replays = s.replays := rfl
@[simp] theorem State.onDie_measures (s : State) (d : Nat) (f : Die → Die) : (s.onDie d f).measures = s.measures := rfl
@[simp] theorem State.onDie_versions (s : State) (d : Nat) (f : Die → Die) : (s.onDie d f).versions = s.versions := rfl
@[simp] theorem State.onDie_rollback (s : State) (d : Nat) (f : Die → Die) : (s.onDie d f).rollback = s.rollback := rfl
@[simp] theorem State.onDie_stage (s : State) (d : Nat) (f : Die → Die) : (s.onDie d f).stage = s.stage := rfl
@[simp] theorem State.onDie_failing (s : State) (d : Nat) (f : Die → Die) : (s.onDie d f).failing = s.failing := rfl
@[simp] theorem State.onDie_bootFuses (s : State) (d : Nat) (f : Die → Die) : (s.onDie d f).bootFuses = s.bootFuses := rfl
@[simp] theorem State.onDie_leaves (s : State) (d : Nat) (f : Die → Die) : (s.onDie d f).leaves = s.leaves := rfl
@[simp] theorem State.onDie_flash (s : State) (d : Nat) (f : Die → Die) : (s.onDie d f).flash = s.flash := rfl
@[simp] theorem State.onDie_bbFlash (s : State) (d : Nat) (f : Die → Die) : (s.onDie d f).bbFlash = s.bbFlash := rfl
@[simp] theorem State.onDie_replies (s : State) (d : Nat) (f : Die → Die) : (s.onDie d f).replies = s.replies := rfl
@[simp] theorem State.onDie_damage (s : State) (d : Nat) (f : Die → Die) : (s.onDie d f).damage = s.damage := rfl
@[simp] theorem State.onDie_cv (s : State) (d : Nat) (f : Die → Die) : (s.onDie d f).cv = s.cv := rfl
@[simp] theorem State.onDie_agenda (s : State) (d : Nat) (f : Die → Die) : (s.onDie d f).agenda = s.agenda := rfl
@[simp] theorem State.onDie_free (s : State) (d : Nat) (f : Die → Die) : (s.onDie d f).free = s.free := rfl

/-! ## putCore -/

@[simp] theorem State.putCore_th (s : State) (c : CoreRec) : (s.putCore c).th = s.th := rfl
@[simp] theorem State.putCore_others (s : State) (c : CoreRec) : (s.putCore c).others = s.others := rfl
@[simp] theorem State.putCore_nextUid (s : State) (c : CoreRec) : (s.putCore c).nextUid = s.nextUid := rfl
@[simp] theorem State.putCore_mem (s : State) (c : CoreRec) : (s.putCore c).mem = s.mem := rfl
@[simp] theorem State.putCore_scratch (s : State) (c : CoreRec) : (s.putCore c).scratch = s.scratch := rfl
@[simp] theorem State.putCore_metas (s : State) (c : CoreRec) : (s.putCore c).metas = s.metas := rfl
@[simp] theorem State.putCore_copies (s : State) (c : CoreRec) : (s.putCore c).copies = s.copies := rfl
@[simp] theorem State.putCore_sectors (s : State) (c : CoreRec) : (s.putCore c).sectors = s.sectors := rfl
@[simp] theorem State.putCore_ro (s : State) (c : CoreRec) : (s.putCore c).ro = s.ro := rfl
@[simp] theorem State.putCore_icache (s : State) (c : CoreRec) : (s.putCore c).icache = s.icache := rfl
@[simp] theorem State.putCore_tlb (s : State) (c : CoreRec) : (s.putCore c).tlb = s.tlb := rfl
@[simp] theorem State.putCore_slices (s : State) (c : CoreRec) : (s.putCore c).slices = s.slices := rfl
@[simp] theorem State.putCore_walks (s : State) (c : CoreRec) : (s.putCore c).walks = s.walks := rfl
@[simp] theorem State.putCore_woken (s : State) (c : CoreRec) : (s.putCore c).woken = s.woken := rfl
@[simp] theorem State.putCore_dies (s : State) (c : CoreRec) : (s.putCore c).dies = s.dies := rfl
@[simp] theorem State.putCore_ctxs (s : State) (c : CoreRec) : (s.putCore c).ctxs = s.ctxs := rfl
@[simp] theorem State.putCore_launches (s : State) (c : CoreRec) : (s.putCore c).launches = s.launches := rfl
@[simp] theorem State.putCore_nextLaunch (s : State) (c : CoreRec) : (s.putCore c).nextLaunch = s.nextLaunch := rfl
@[simp] theorem State.putCore_tasks (s : State) (c : CoreRec) : (s.putCore c).tasks = s.tasks := rfl
@[simp] theorem State.putCore_sems (s : State) (c : CoreRec) : (s.putCore c).sems = s.sems := rfl
@[simp] theorem State.putCore_bars (s : State) (c : CoreRec) : (s.putCore c).bars = s.bars := rfl
@[simp] theorem State.putCore_queues (s : State) (c : CoreRec) : (s.putCore c).queues = s.queues := rfl
@[simp] theorem State.putCore_packed (s : State) (c : CoreRec) : (s.putCore c).packed = s.packed := rfl
@[simp] theorem State.putCore_hostQs (s : State) (c : CoreRec) : (s.putCore c).hostQs = s.hostQs := rfl
@[simp] theorem State.putCore_netOut (s : State) (c : CoreRec) : (s.putCore c).netOut = s.netOut := rfl
@[simp] theorem State.putCore_netIn (s : State) (c : CoreRec) : (s.putCore c).netIn = s.netIn := rfl
@[simp] theorem State.putCore_ringBase (s : State) (c : CoreRec) : (s.putCore c).ringBase = s.ringBase := rfl
@[simp] theorem State.putCore_ringSize (s : State) (c : CoreRec) : (s.putCore c).ringSize = s.ringSize := rfl
@[simp] theorem State.putCore_ringTail (s : State) (c : CoreRec) : (s.putCore c).ringTail = s.ringTail := rfl
@[simp] theorem State.putCore_ringHead (s : State) (c : CoreRec) : (s.putCore c).ringHead = s.ringHead := rfl
@[simp] theorem State.putCore_ringWait (s : State) (c : CoreRec) : (s.putCore c).ringWait = s.ringWait := rfl
@[simp] theorem State.putCore_mgmt (s : State) (c : CoreRec) : (s.putCore c).mgmt = s.mgmt := rfl
@[simp] theorem State.putCore_identity (s : State) (c : CoreRec) : (s.putCore c).identity = s.identity := rfl
@[simp] theorem State.putCore_fabric (s : State) (c : CoreRec) : (s.putCore c).fabric = s.fabric := rfl
@[simp] theorem State.putCore_replays (s : State) (c : CoreRec) : (s.putCore c).replays = s.replays := rfl
@[simp] theorem State.putCore_measures (s : State) (c : CoreRec) : (s.putCore c).measures = s.measures := rfl
@[simp] theorem State.putCore_versions (s : State) (c : CoreRec) : (s.putCore c).versions = s.versions := rfl
@[simp] theorem State.putCore_rollback (s : State) (c : CoreRec) : (s.putCore c).rollback = s.rollback := rfl
@[simp] theorem State.putCore_stage (s : State) (c : CoreRec) : (s.putCore c).stage = s.stage := rfl
@[simp] theorem State.putCore_failing (s : State) (c : CoreRec) : (s.putCore c).failing = s.failing := rfl
@[simp] theorem State.putCore_bootFuses (s : State) (c : CoreRec) : (s.putCore c).bootFuses = s.bootFuses := rfl
@[simp] theorem State.putCore_leaves (s : State) (c : CoreRec) : (s.putCore c).leaves = s.leaves := rfl
@[simp] theorem State.putCore_flash (s : State) (c : CoreRec) : (s.putCore c).flash = s.flash := rfl
@[simp] theorem State.putCore_bbFlash (s : State) (c : CoreRec) : (s.putCore c).bbFlash = s.bbFlash := rfl
@[simp] theorem State.putCore_replies (s : State) (c : CoreRec) : (s.putCore c).replies = s.replies := rfl
@[simp] theorem State.putCore_damage (s : State) (c : CoreRec) : (s.putCore c).damage = s.damage := rfl
@[simp] theorem State.putCore_cv (s : State) (c : CoreRec) : (s.putCore c).cv = s.cv := rfl
@[simp] theorem State.putCore_agenda (s : State) (c : CoreRec) : (s.putCore c).agenda = s.agenda := rfl
@[simp] theorem State.putCore_free (s : State) (c : CoreRec) : (s.putCore c).free = s.free := rfl

/-! ## onLaunch -/

@[simp] theorem State.onLaunch_th (s : State) (id : Nat) (f : Launch → Launch) : (s.onLaunch id f).th = s.th := rfl
@[simp] theorem State.onLaunch_others (s : State) (id : Nat) (f : Launch → Launch) : (s.onLaunch id f).others = s.others := rfl
@[simp] theorem State.onLaunch_nextUid (s : State) (id : Nat) (f : Launch → Launch) : (s.onLaunch id f).nextUid = s.nextUid := rfl
@[simp] theorem State.onLaunch_mem (s : State) (id : Nat) (f : Launch → Launch) : (s.onLaunch id f).mem = s.mem := rfl
@[simp] theorem State.onLaunch_scratch (s : State) (id : Nat) (f : Launch → Launch) : (s.onLaunch id f).scratch = s.scratch := rfl
@[simp] theorem State.onLaunch_metas (s : State) (id : Nat) (f : Launch → Launch) : (s.onLaunch id f).metas = s.metas := rfl
@[simp] theorem State.onLaunch_copies (s : State) (id : Nat) (f : Launch → Launch) : (s.onLaunch id f).copies = s.copies := rfl
@[simp] theorem State.onLaunch_sectors (s : State) (id : Nat) (f : Launch → Launch) : (s.onLaunch id f).sectors = s.sectors := rfl
@[simp] theorem State.onLaunch_ro (s : State) (id : Nat) (f : Launch → Launch) : (s.onLaunch id f).ro = s.ro := rfl
@[simp] theorem State.onLaunch_icache (s : State) (id : Nat) (f : Launch → Launch) : (s.onLaunch id f).icache = s.icache := rfl
@[simp] theorem State.onLaunch_tlb (s : State) (id : Nat) (f : Launch → Launch) : (s.onLaunch id f).tlb = s.tlb := rfl
@[simp] theorem State.onLaunch_slices (s : State) (id : Nat) (f : Launch → Launch) : (s.onLaunch id f).slices = s.slices := rfl
@[simp] theorem State.onLaunch_walks (s : State) (id : Nat) (f : Launch → Launch) : (s.onLaunch id f).walks = s.walks := rfl
@[simp] theorem State.onLaunch_woken (s : State) (id : Nat) (f : Launch → Launch) : (s.onLaunch id f).woken = s.woken := rfl
@[simp] theorem State.onLaunch_cores (s : State) (id : Nat) (f : Launch → Launch) : (s.onLaunch id f).cores = s.cores := rfl
@[simp] theorem State.onLaunch_dies (s : State) (id : Nat) (f : Launch → Launch) : (s.onLaunch id f).dies = s.dies := rfl
@[simp] theorem State.onLaunch_ctxs (s : State) (id : Nat) (f : Launch → Launch) : (s.onLaunch id f).ctxs = s.ctxs := rfl
@[simp] theorem State.onLaunch_nextLaunch (s : State) (id : Nat) (f : Launch → Launch) : (s.onLaunch id f).nextLaunch = s.nextLaunch := rfl
@[simp] theorem State.onLaunch_tasks (s : State) (id : Nat) (f : Launch → Launch) : (s.onLaunch id f).tasks = s.tasks := rfl
@[simp] theorem State.onLaunch_sems (s : State) (id : Nat) (f : Launch → Launch) : (s.onLaunch id f).sems = s.sems := rfl
@[simp] theorem State.onLaunch_bars (s : State) (id : Nat) (f : Launch → Launch) : (s.onLaunch id f).bars = s.bars := rfl
@[simp] theorem State.onLaunch_queues (s : State) (id : Nat) (f : Launch → Launch) : (s.onLaunch id f).queues = s.queues := rfl
@[simp] theorem State.onLaunch_packed (s : State) (id : Nat) (f : Launch → Launch) : (s.onLaunch id f).packed = s.packed := rfl
@[simp] theorem State.onLaunch_hostQs (s : State) (id : Nat) (f : Launch → Launch) : (s.onLaunch id f).hostQs = s.hostQs := rfl
@[simp] theorem State.onLaunch_netOut (s : State) (id : Nat) (f : Launch → Launch) : (s.onLaunch id f).netOut = s.netOut := rfl
@[simp] theorem State.onLaunch_netIn (s : State) (id : Nat) (f : Launch → Launch) : (s.onLaunch id f).netIn = s.netIn := rfl
@[simp] theorem State.onLaunch_ringBase (s : State) (id : Nat) (f : Launch → Launch) : (s.onLaunch id f).ringBase = s.ringBase := rfl
@[simp] theorem State.onLaunch_ringSize (s : State) (id : Nat) (f : Launch → Launch) : (s.onLaunch id f).ringSize = s.ringSize := rfl
@[simp] theorem State.onLaunch_ringTail (s : State) (id : Nat) (f : Launch → Launch) : (s.onLaunch id f).ringTail = s.ringTail := rfl
@[simp] theorem State.onLaunch_ringHead (s : State) (id : Nat) (f : Launch → Launch) : (s.onLaunch id f).ringHead = s.ringHead := rfl
@[simp] theorem State.onLaunch_ringWait (s : State) (id : Nat) (f : Launch → Launch) : (s.onLaunch id f).ringWait = s.ringWait := rfl
@[simp] theorem State.onLaunch_mgmt (s : State) (id : Nat) (f : Launch → Launch) : (s.onLaunch id f).mgmt = s.mgmt := rfl
@[simp] theorem State.onLaunch_identity (s : State) (id : Nat) (f : Launch → Launch) : (s.onLaunch id f).identity = s.identity := rfl
@[simp] theorem State.onLaunch_fabric (s : State) (id : Nat) (f : Launch → Launch) : (s.onLaunch id f).fabric = s.fabric := rfl
@[simp] theorem State.onLaunch_replays (s : State) (id : Nat) (f : Launch → Launch) : (s.onLaunch id f).replays = s.replays := rfl
@[simp] theorem State.onLaunch_measures (s : State) (id : Nat) (f : Launch → Launch) : (s.onLaunch id f).measures = s.measures := rfl
@[simp] theorem State.onLaunch_versions (s : State) (id : Nat) (f : Launch → Launch) : (s.onLaunch id f).versions = s.versions := rfl
@[simp] theorem State.onLaunch_rollback (s : State) (id : Nat) (f : Launch → Launch) : (s.onLaunch id f).rollback = s.rollback := rfl
@[simp] theorem State.onLaunch_stage (s : State) (id : Nat) (f : Launch → Launch) : (s.onLaunch id f).stage = s.stage := rfl
@[simp] theorem State.onLaunch_failing (s : State) (id : Nat) (f : Launch → Launch) : (s.onLaunch id f).failing = s.failing := rfl
@[simp] theorem State.onLaunch_bootFuses (s : State) (id : Nat) (f : Launch → Launch) : (s.onLaunch id f).bootFuses = s.bootFuses := rfl
@[simp] theorem State.onLaunch_leaves (s : State) (id : Nat) (f : Launch → Launch) : (s.onLaunch id f).leaves = s.leaves := rfl
@[simp] theorem State.onLaunch_flash (s : State) (id : Nat) (f : Launch → Launch) : (s.onLaunch id f).flash = s.flash := rfl
@[simp] theorem State.onLaunch_bbFlash (s : State) (id : Nat) (f : Launch → Launch) : (s.onLaunch id f).bbFlash = s.bbFlash := rfl
@[simp] theorem State.onLaunch_replies (s : State) (id : Nat) (f : Launch → Launch) : (s.onLaunch id f).replies = s.replies := rfl
@[simp] theorem State.onLaunch_damage (s : State) (id : Nat) (f : Launch → Launch) : (s.onLaunch id f).damage = s.damage := rfl
@[simp] theorem State.onLaunch_cv (s : State) (id : Nat) (f : Launch → Launch) : (s.onLaunch id f).cv = s.cv := rfl
@[simp] theorem State.onLaunch_agenda (s : State) (id : Nat) (f : Launch → Launch) : (s.onLaunch id f).agenda = s.agenda := rfl
@[simp] theorem State.onLaunch_free (s : State) (id : Nat) (f : Launch → Launch) : (s.onLaunch id f).free = s.free := rfl

/-! ## putSem -/

@[simp] theorem State.putSem_th (s : State) (x : Sem) : (s.putSem x).th = s.th := rfl
@[simp] theorem State.putSem_others (s : State) (x : Sem) : (s.putSem x).others = s.others := rfl
@[simp] theorem State.putSem_nextUid (s : State) (x : Sem) : (s.putSem x).nextUid = s.nextUid := rfl
@[simp] theorem State.putSem_mem (s : State) (x : Sem) : (s.putSem x).mem = s.mem := rfl
@[simp] theorem State.putSem_scratch (s : State) (x : Sem) : (s.putSem x).scratch = s.scratch := rfl
@[simp] theorem State.putSem_metas (s : State) (x : Sem) : (s.putSem x).metas = s.metas := rfl
@[simp] theorem State.putSem_copies (s : State) (x : Sem) : (s.putSem x).copies = s.copies := rfl
@[simp] theorem State.putSem_sectors (s : State) (x : Sem) : (s.putSem x).sectors = s.sectors := rfl
@[simp] theorem State.putSem_ro (s : State) (x : Sem) : (s.putSem x).ro = s.ro := rfl
@[simp] theorem State.putSem_icache (s : State) (x : Sem) : (s.putSem x).icache = s.icache := rfl
@[simp] theorem State.putSem_tlb (s : State) (x : Sem) : (s.putSem x).tlb = s.tlb := rfl
@[simp] theorem State.putSem_slices (s : State) (x : Sem) : (s.putSem x).slices = s.slices := rfl
@[simp] theorem State.putSem_walks (s : State) (x : Sem) : (s.putSem x).walks = s.walks := rfl
@[simp] theorem State.putSem_woken (s : State) (x : Sem) : (s.putSem x).woken = s.woken := rfl
@[simp] theorem State.putSem_cores (s : State) (x : Sem) : (s.putSem x).cores = s.cores := rfl
@[simp] theorem State.putSem_dies (s : State) (x : Sem) : (s.putSem x).dies = s.dies := rfl
@[simp] theorem State.putSem_ctxs (s : State) (x : Sem) : (s.putSem x).ctxs = s.ctxs := rfl
@[simp] theorem State.putSem_launches (s : State) (x : Sem) : (s.putSem x).launches = s.launches := rfl
@[simp] theorem State.putSem_nextLaunch (s : State) (x : Sem) : (s.putSem x).nextLaunch = s.nextLaunch := rfl
@[simp] theorem State.putSem_tasks (s : State) (x : Sem) : (s.putSem x).tasks = s.tasks := rfl
@[simp] theorem State.putSem_bars (s : State) (x : Sem) : (s.putSem x).bars = s.bars := rfl
@[simp] theorem State.putSem_queues (s : State) (x : Sem) : (s.putSem x).queues = s.queues := rfl
@[simp] theorem State.putSem_packed (s : State) (x : Sem) : (s.putSem x).packed = s.packed := rfl
@[simp] theorem State.putSem_hostQs (s : State) (x : Sem) : (s.putSem x).hostQs = s.hostQs := rfl
@[simp] theorem State.putSem_netOut (s : State) (x : Sem) : (s.putSem x).netOut = s.netOut := rfl
@[simp] theorem State.putSem_netIn (s : State) (x : Sem) : (s.putSem x).netIn = s.netIn := rfl
@[simp] theorem State.putSem_ringBase (s : State) (x : Sem) : (s.putSem x).ringBase = s.ringBase := rfl
@[simp] theorem State.putSem_ringSize (s : State) (x : Sem) : (s.putSem x).ringSize = s.ringSize := rfl
@[simp] theorem State.putSem_ringTail (s : State) (x : Sem) : (s.putSem x).ringTail = s.ringTail := rfl
@[simp] theorem State.putSem_ringHead (s : State) (x : Sem) : (s.putSem x).ringHead = s.ringHead := rfl
@[simp] theorem State.putSem_ringWait (s : State) (x : Sem) : (s.putSem x).ringWait = s.ringWait := rfl
@[simp] theorem State.putSem_mgmt (s : State) (x : Sem) : (s.putSem x).mgmt = s.mgmt := rfl
@[simp] theorem State.putSem_identity (s : State) (x : Sem) : (s.putSem x).identity = s.identity := rfl
@[simp] theorem State.putSem_fabric (s : State) (x : Sem) : (s.putSem x).fabric = s.fabric := rfl
@[simp] theorem State.putSem_replays (s : State) (x : Sem) : (s.putSem x).replays = s.replays := rfl
@[simp] theorem State.putSem_measures (s : State) (x : Sem) : (s.putSem x).measures = s.measures := rfl
@[simp] theorem State.putSem_versions (s : State) (x : Sem) : (s.putSem x).versions = s.versions := rfl
@[simp] theorem State.putSem_rollback (s : State) (x : Sem) : (s.putSem x).rollback = s.rollback := rfl
@[simp] theorem State.putSem_stage (s : State) (x : Sem) : (s.putSem x).stage = s.stage := rfl
@[simp] theorem State.putSem_failing (s : State) (x : Sem) : (s.putSem x).failing = s.failing := rfl
@[simp] theorem State.putSem_bootFuses (s : State) (x : Sem) : (s.putSem x).bootFuses = s.bootFuses := rfl
@[simp] theorem State.putSem_leaves (s : State) (x : Sem) : (s.putSem x).leaves = s.leaves := rfl
@[simp] theorem State.putSem_flash (s : State) (x : Sem) : (s.putSem x).flash = s.flash := rfl
@[simp] theorem State.putSem_bbFlash (s : State) (x : Sem) : (s.putSem x).bbFlash = s.bbFlash := rfl
@[simp] theorem State.putSem_replies (s : State) (x : Sem) : (s.putSem x).replies = s.replies := rfl
@[simp] theorem State.putSem_damage (s : State) (x : Sem) : (s.putSem x).damage = s.damage := rfl
@[simp] theorem State.putSem_cv (s : State) (x : Sem) : (s.putSem x).cv = s.cv := rfl
@[simp] theorem State.putSem_agenda (s : State) (x : Sem) : (s.putSem x).agenda = s.agenda := rfl
@[simp] theorem State.putSem_free (s : State) (x : Sem) : (s.putSem x).free = s.free := rfl

/-! ## putCtx -/

@[simp] theorem State.putCtx_th (s : State) (c : Ctx) : (s.putCtx c).th = s.th := rfl
@[simp] theorem State.putCtx_others (s : State) (c : Ctx) : (s.putCtx c).others = s.others := rfl
@[simp] theorem State.putCtx_nextUid (s : State) (c : Ctx) : (s.putCtx c).nextUid = s.nextUid := rfl
@[simp] theorem State.putCtx_mem (s : State) (c : Ctx) : (s.putCtx c).mem = s.mem := rfl
@[simp] theorem State.putCtx_scratch (s : State) (c : Ctx) : (s.putCtx c).scratch = s.scratch := rfl
@[simp] theorem State.putCtx_metas (s : State) (c : Ctx) : (s.putCtx c).metas = s.metas := rfl
@[simp] theorem State.putCtx_copies (s : State) (c : Ctx) : (s.putCtx c).copies = s.copies := rfl
@[simp] theorem State.putCtx_sectors (s : State) (c : Ctx) : (s.putCtx c).sectors = s.sectors := rfl
@[simp] theorem State.putCtx_ro (s : State) (c : Ctx) : (s.putCtx c).ro = s.ro := rfl
@[simp] theorem State.putCtx_icache (s : State) (c : Ctx) : (s.putCtx c).icache = s.icache := rfl
@[simp] theorem State.putCtx_tlb (s : State) (c : Ctx) : (s.putCtx c).tlb = s.tlb := rfl
@[simp] theorem State.putCtx_slices (s : State) (c : Ctx) : (s.putCtx c).slices = s.slices := rfl
@[simp] theorem State.putCtx_walks (s : State) (c : Ctx) : (s.putCtx c).walks = s.walks := rfl
@[simp] theorem State.putCtx_woken (s : State) (c : Ctx) : (s.putCtx c).woken = s.woken := rfl
@[simp] theorem State.putCtx_cores (s : State) (c : Ctx) : (s.putCtx c).cores = s.cores := rfl
@[simp] theorem State.putCtx_dies (s : State) (c : Ctx) : (s.putCtx c).dies = s.dies := rfl
@[simp] theorem State.putCtx_launches (s : State) (c : Ctx) : (s.putCtx c).launches = s.launches := rfl
@[simp] theorem State.putCtx_nextLaunch (s : State) (c : Ctx) : (s.putCtx c).nextLaunch = s.nextLaunch := rfl
@[simp] theorem State.putCtx_tasks (s : State) (c : Ctx) : (s.putCtx c).tasks = s.tasks := rfl
@[simp] theorem State.putCtx_sems (s : State) (c : Ctx) : (s.putCtx c).sems = s.sems := rfl
@[simp] theorem State.putCtx_bars (s : State) (c : Ctx) : (s.putCtx c).bars = s.bars := rfl
@[simp] theorem State.putCtx_queues (s : State) (c : Ctx) : (s.putCtx c).queues = s.queues := rfl
@[simp] theorem State.putCtx_packed (s : State) (c : Ctx) : (s.putCtx c).packed = s.packed := rfl
@[simp] theorem State.putCtx_hostQs (s : State) (c : Ctx) : (s.putCtx c).hostQs = s.hostQs := rfl
@[simp] theorem State.putCtx_netOut (s : State) (c : Ctx) : (s.putCtx c).netOut = s.netOut := rfl
@[simp] theorem State.putCtx_netIn (s : State) (c : Ctx) : (s.putCtx c).netIn = s.netIn := rfl
@[simp] theorem State.putCtx_ringBase (s : State) (c : Ctx) : (s.putCtx c).ringBase = s.ringBase := rfl
@[simp] theorem State.putCtx_ringSize (s : State) (c : Ctx) : (s.putCtx c).ringSize = s.ringSize := rfl
@[simp] theorem State.putCtx_ringTail (s : State) (c : Ctx) : (s.putCtx c).ringTail = s.ringTail := rfl
@[simp] theorem State.putCtx_ringHead (s : State) (c : Ctx) : (s.putCtx c).ringHead = s.ringHead := rfl
@[simp] theorem State.putCtx_ringWait (s : State) (c : Ctx) : (s.putCtx c).ringWait = s.ringWait := rfl
@[simp] theorem State.putCtx_mgmt (s : State) (c : Ctx) : (s.putCtx c).mgmt = s.mgmt := rfl
@[simp] theorem State.putCtx_identity (s : State) (c : Ctx) : (s.putCtx c).identity = s.identity := rfl
@[simp] theorem State.putCtx_fabric (s : State) (c : Ctx) : (s.putCtx c).fabric = s.fabric := rfl
@[simp] theorem State.putCtx_replays (s : State) (c : Ctx) : (s.putCtx c).replays = s.replays := rfl
@[simp] theorem State.putCtx_measures (s : State) (c : Ctx) : (s.putCtx c).measures = s.measures := rfl
@[simp] theorem State.putCtx_versions (s : State) (c : Ctx) : (s.putCtx c).versions = s.versions := rfl
@[simp] theorem State.putCtx_rollback (s : State) (c : Ctx) : (s.putCtx c).rollback = s.rollback := rfl
@[simp] theorem State.putCtx_stage (s : State) (c : Ctx) : (s.putCtx c).stage = s.stage := rfl
@[simp] theorem State.putCtx_failing (s : State) (c : Ctx) : (s.putCtx c).failing = s.failing := rfl
@[simp] theorem State.putCtx_bootFuses (s : State) (c : Ctx) : (s.putCtx c).bootFuses = s.bootFuses := rfl
@[simp] theorem State.putCtx_leaves (s : State) (c : Ctx) : (s.putCtx c).leaves = s.leaves := rfl
@[simp] theorem State.putCtx_flash (s : State) (c : Ctx) : (s.putCtx c).flash = s.flash := rfl
@[simp] theorem State.putCtx_bbFlash (s : State) (c : Ctx) : (s.putCtx c).bbFlash = s.bbFlash := rfl
@[simp] theorem State.putCtx_replies (s : State) (c : Ctx) : (s.putCtx c).replies = s.replies := rfl
@[simp] theorem State.putCtx_damage (s : State) (c : Ctx) : (s.putCtx c).damage = s.damage := rfl
@[simp] theorem State.putCtx_cv (s : State) (c : Ctx) : (s.putCtx c).cv = s.cv := rfl
@[simp] theorem State.putCtx_agenda (s : State) (c : Ctx) : (s.putCtx c).agenda = s.agenda := rfl
@[simp] theorem State.putCtx_free (s : State) (c : Ctx) : (s.putCtx c).free = s.free := rfl

/-! ## putSector -/

@[simp] theorem State.putSector_th (s : State) (x : Sector) : (s.putSector x).th = s.th := rfl
@[simp] theorem State.putSector_others (s : State) (x : Sector) : (s.putSector x).others = s.others := rfl
@[simp] theorem State.putSector_nextUid (s : State) (x : Sector) : (s.putSector x).nextUid = s.nextUid := rfl
@[simp] theorem State.putSector_mem (s : State) (x : Sector) : (s.putSector x).mem = s.mem := rfl
@[simp] theorem State.putSector_scratch (s : State) (x : Sector) : (s.putSector x).scratch = s.scratch := rfl
@[simp] theorem State.putSector_metas (s : State) (x : Sector) : (s.putSector x).metas = s.metas := rfl
@[simp] theorem State.putSector_copies (s : State) (x : Sector) : (s.putSector x).copies = s.copies := rfl
@[simp] theorem State.putSector_ro (s : State) (x : Sector) : (s.putSector x).ro = s.ro := rfl
@[simp] theorem State.putSector_icache (s : State) (x : Sector) : (s.putSector x).icache = s.icache := rfl
@[simp] theorem State.putSector_tlb (s : State) (x : Sector) : (s.putSector x).tlb = s.tlb := rfl
@[simp] theorem State.putSector_slices (s : State) (x : Sector) : (s.putSector x).slices = s.slices := rfl
@[simp] theorem State.putSector_walks (s : State) (x : Sector) : (s.putSector x).walks = s.walks := rfl
@[simp] theorem State.putSector_woken (s : State) (x : Sector) : (s.putSector x).woken = s.woken := rfl
@[simp] theorem State.putSector_cores (s : State) (x : Sector) : (s.putSector x).cores = s.cores := rfl
@[simp] theorem State.putSector_dies (s : State) (x : Sector) : (s.putSector x).dies = s.dies := rfl
@[simp] theorem State.putSector_ctxs (s : State) (x : Sector) : (s.putSector x).ctxs = s.ctxs := rfl
@[simp] theorem State.putSector_launches (s : State) (x : Sector) : (s.putSector x).launches = s.launches := rfl
@[simp] theorem State.putSector_nextLaunch (s : State) (x : Sector) : (s.putSector x).nextLaunch = s.nextLaunch := rfl
@[simp] theorem State.putSector_tasks (s : State) (x : Sector) : (s.putSector x).tasks = s.tasks := rfl
@[simp] theorem State.putSector_sems (s : State) (x : Sector) : (s.putSector x).sems = s.sems := rfl
@[simp] theorem State.putSector_bars (s : State) (x : Sector) : (s.putSector x).bars = s.bars := rfl
@[simp] theorem State.putSector_queues (s : State) (x : Sector) : (s.putSector x).queues = s.queues := rfl
@[simp] theorem State.putSector_packed (s : State) (x : Sector) : (s.putSector x).packed = s.packed := rfl
@[simp] theorem State.putSector_hostQs (s : State) (x : Sector) : (s.putSector x).hostQs = s.hostQs := rfl
@[simp] theorem State.putSector_netOut (s : State) (x : Sector) : (s.putSector x).netOut = s.netOut := rfl
@[simp] theorem State.putSector_netIn (s : State) (x : Sector) : (s.putSector x).netIn = s.netIn := rfl
@[simp] theorem State.putSector_ringBase (s : State) (x : Sector) : (s.putSector x).ringBase = s.ringBase := rfl
@[simp] theorem State.putSector_ringSize (s : State) (x : Sector) : (s.putSector x).ringSize = s.ringSize := rfl
@[simp] theorem State.putSector_ringTail (s : State) (x : Sector) : (s.putSector x).ringTail = s.ringTail := rfl
@[simp] theorem State.putSector_ringHead (s : State) (x : Sector) : (s.putSector x).ringHead = s.ringHead := rfl
@[simp] theorem State.putSector_ringWait (s : State) (x : Sector) : (s.putSector x).ringWait = s.ringWait := rfl
@[simp] theorem State.putSector_mgmt (s : State) (x : Sector) : (s.putSector x).mgmt = s.mgmt := rfl
@[simp] theorem State.putSector_identity (s : State) (x : Sector) : (s.putSector x).identity = s.identity := rfl
@[simp] theorem State.putSector_fabric (s : State) (x : Sector) : (s.putSector x).fabric = s.fabric := rfl
@[simp] theorem State.putSector_replays (s : State) (x : Sector) : (s.putSector x).replays = s.replays := rfl
@[simp] theorem State.putSector_measures (s : State) (x : Sector) : (s.putSector x).measures = s.measures := rfl
@[simp] theorem State.putSector_versions (s : State) (x : Sector) : (s.putSector x).versions = s.versions := rfl
@[simp] theorem State.putSector_rollback (s : State) (x : Sector) : (s.putSector x).rollback = s.rollback := rfl
@[simp] theorem State.putSector_stage (s : State) (x : Sector) : (s.putSector x).stage = s.stage := rfl
@[simp] theorem State.putSector_failing (s : State) (x : Sector) : (s.putSector x).failing = s.failing := rfl
@[simp] theorem State.putSector_bootFuses (s : State) (x : Sector) : (s.putSector x).bootFuses = s.bootFuses := rfl
@[simp] theorem State.putSector_leaves (s : State) (x : Sector) : (s.putSector x).leaves = s.leaves := rfl
@[simp] theorem State.putSector_flash (s : State) (x : Sector) : (s.putSector x).flash = s.flash := rfl
@[simp] theorem State.putSector_bbFlash (s : State) (x : Sector) : (s.putSector x).bbFlash = s.bbFlash := rfl
@[simp] theorem State.putSector_replies (s : State) (x : Sector) : (s.putSector x).replies = s.replies := rfl
@[simp] theorem State.putSector_damage (s : State) (x : Sector) : (s.putSector x).damage = s.damage := rfl
@[simp] theorem State.putSector_cv (s : State) (x : Sector) : (s.putSector x).cv = s.cv := rfl
@[simp] theorem State.putSector_agenda (s : State) (x : Sector) : (s.putSector x).agenda = s.agenda := rfl
@[simp] theorem State.putSector_free (s : State) (x : Sector) : (s.putSector x).free = s.free := rfl

/-! ## homeWrite -/

@[simp] theorem State.homeWrite_th (s : State) (a v m n : Nat) : (s.homeWrite a v m n).th = s.th := rfl
@[simp] theorem State.homeWrite_others (s : State) (a v m n : Nat) : (s.homeWrite a v m n).others = s.others := rfl
@[simp] theorem State.homeWrite_nextUid (s : State) (a v m n : Nat) : (s.homeWrite a v m n).nextUid = s.nextUid := rfl
@[simp] theorem State.homeWrite_scratch (s : State) (a v m n : Nat) : (s.homeWrite a v m n).scratch = s.scratch := rfl
@[simp] theorem State.homeWrite_metas (s : State) (a v m n : Nat) : (s.homeWrite a v m n).metas = s.metas := rfl
@[simp] theorem State.homeWrite_copies (s : State) (a v m n : Nat) : (s.homeWrite a v m n).copies = s.copies := rfl
@[simp] theorem State.homeWrite_sectors (s : State) (a v m n : Nat) : (s.homeWrite a v m n).sectors = s.sectors := rfl
@[simp] theorem State.homeWrite_ro (s : State) (a v m n : Nat) : (s.homeWrite a v m n).ro = s.ro := rfl
@[simp] theorem State.homeWrite_icache (s : State) (a v m n : Nat) : (s.homeWrite a v m n).icache = s.icache := rfl
@[simp] theorem State.homeWrite_tlb (s : State) (a v m n : Nat) : (s.homeWrite a v m n).tlb = s.tlb := rfl
@[simp] theorem State.homeWrite_slices (s : State) (a v m n : Nat) : (s.homeWrite a v m n).slices = s.slices := rfl
@[simp] theorem State.homeWrite_walks (s : State) (a v m n : Nat) : (s.homeWrite a v m n).walks = s.walks := rfl
@[simp] theorem State.homeWrite_woken (s : State) (a v m n : Nat) : (s.homeWrite a v m n).woken = s.woken := rfl
@[simp] theorem State.homeWrite_cores (s : State) (a v m n : Nat) : (s.homeWrite a v m n).cores = s.cores := rfl
@[simp] theorem State.homeWrite_dies (s : State) (a v m n : Nat) : (s.homeWrite a v m n).dies = s.dies := rfl
@[simp] theorem State.homeWrite_ctxs (s : State) (a v m n : Nat) : (s.homeWrite a v m n).ctxs = s.ctxs := rfl
@[simp] theorem State.homeWrite_launches (s : State) (a v m n : Nat) : (s.homeWrite a v m n).launches = s.launches := rfl
@[simp] theorem State.homeWrite_nextLaunch (s : State) (a v m n : Nat) : (s.homeWrite a v m n).nextLaunch = s.nextLaunch := rfl
@[simp] theorem State.homeWrite_tasks (s : State) (a v m n : Nat) : (s.homeWrite a v m n).tasks = s.tasks := rfl
@[simp] theorem State.homeWrite_sems (s : State) (a v m n : Nat) : (s.homeWrite a v m n).sems = s.sems := rfl
@[simp] theorem State.homeWrite_bars (s : State) (a v m n : Nat) : (s.homeWrite a v m n).bars = s.bars := rfl
@[simp] theorem State.homeWrite_queues (s : State) (a v m n : Nat) : (s.homeWrite a v m n).queues = s.queues := rfl
@[simp] theorem State.homeWrite_packed (s : State) (a v m n : Nat) : (s.homeWrite a v m n).packed = s.packed := rfl
@[simp] theorem State.homeWrite_hostQs (s : State) (a v m n : Nat) : (s.homeWrite a v m n).hostQs = s.hostQs := rfl
@[simp] theorem State.homeWrite_netOut (s : State) (a v m n : Nat) : (s.homeWrite a v m n).netOut = s.netOut := rfl
@[simp] theorem State.homeWrite_netIn (s : State) (a v m n : Nat) : (s.homeWrite a v m n).netIn = s.netIn := rfl
@[simp] theorem State.homeWrite_ringBase (s : State) (a v m n : Nat) : (s.homeWrite a v m n).ringBase = s.ringBase := rfl
@[simp] theorem State.homeWrite_ringSize (s : State) (a v m n : Nat) : (s.homeWrite a v m n).ringSize = s.ringSize := rfl
@[simp] theorem State.homeWrite_ringTail (s : State) (a v m n : Nat) : (s.homeWrite a v m n).ringTail = s.ringTail := rfl
@[simp] theorem State.homeWrite_ringHead (s : State) (a v m n : Nat) : (s.homeWrite a v m n).ringHead = s.ringHead := rfl
@[simp] theorem State.homeWrite_ringWait (s : State) (a v m n : Nat) : (s.homeWrite a v m n).ringWait = s.ringWait := rfl
@[simp] theorem State.homeWrite_mgmt (s : State) (a v m n : Nat) : (s.homeWrite a v m n).mgmt = s.mgmt := rfl
@[simp] theorem State.homeWrite_identity (s : State) (a v m n : Nat) : (s.homeWrite a v m n).identity = s.identity := rfl
@[simp] theorem State.homeWrite_fabric (s : State) (a v m n : Nat) : (s.homeWrite a v m n).fabric = s.fabric := rfl
@[simp] theorem State.homeWrite_replays (s : State) (a v m n : Nat) : (s.homeWrite a v m n).replays = s.replays := rfl
@[simp] theorem State.homeWrite_measures (s : State) (a v m n : Nat) : (s.homeWrite a v m n).measures = s.measures := rfl
@[simp] theorem State.homeWrite_versions (s : State) (a v m n : Nat) : (s.homeWrite a v m n).versions = s.versions := rfl
@[simp] theorem State.homeWrite_rollback (s : State) (a v m n : Nat) : (s.homeWrite a v m n).rollback = s.rollback := rfl
@[simp] theorem State.homeWrite_stage (s : State) (a v m n : Nat) : (s.homeWrite a v m n).stage = s.stage := rfl
@[simp] theorem State.homeWrite_failing (s : State) (a v m n : Nat) : (s.homeWrite a v m n).failing = s.failing := rfl
@[simp] theorem State.homeWrite_bootFuses (s : State) (a v m n : Nat) : (s.homeWrite a v m n).bootFuses = s.bootFuses := rfl
@[simp] theorem State.homeWrite_leaves (s : State) (a v m n : Nat) : (s.homeWrite a v m n).leaves = s.leaves := rfl
@[simp] theorem State.homeWrite_flash (s : State) (a v m n : Nat) : (s.homeWrite a v m n).flash = s.flash := rfl
@[simp] theorem State.homeWrite_bbFlash (s : State) (a v m n : Nat) : (s.homeWrite a v m n).bbFlash = s.bbFlash := rfl
@[simp] theorem State.homeWrite_replies (s : State) (a v m n : Nat) : (s.homeWrite a v m n).replies = s.replies := rfl
@[simp] theorem State.homeWrite_damage (s : State) (a v m n : Nat) : (s.homeWrite a v m n).damage = s.damage := rfl
@[simp] theorem State.homeWrite_cv (s : State) (a v m n : Nat) : (s.homeWrite a v m n).cv = s.cv := rfl
@[simp] theorem State.homeWrite_agenda (s : State) (a v m n : Nat) : (s.homeWrite a v m n).agenda = s.agenda := rfl
@[simp] theorem State.homeWrite_free (s : State) (a v m n : Nat) : (s.homeWrite a v m n).free = s.free := rfl

/-! ## clusterPut -/

@[simp] theorem State.clusterPut_th (s : State) (c a v m n : Nat) : (s.clusterPut c a v m n).th = s.th := rfl
@[simp] theorem State.clusterPut_others (s : State) (c a v m n : Nat) : (s.clusterPut c a v m n).others = s.others := rfl
@[simp] theorem State.clusterPut_nextUid (s : State) (c a v m n : Nat) : (s.clusterPut c a v m n).nextUid = s.nextUid := rfl
@[simp] theorem State.clusterPut_mem (s : State) (c a v m n : Nat) : (s.clusterPut c a v m n).mem = s.mem := rfl
@[simp] theorem State.clusterPut_scratch (s : State) (c a v m n : Nat) : (s.clusterPut c a v m n).scratch = s.scratch := rfl
@[simp] theorem State.clusterPut_metas (s : State) (c a v m n : Nat) : (s.clusterPut c a v m n).metas = s.metas := rfl
@[simp] theorem State.clusterPut_copies (s : State) (c a v m n : Nat) : (s.clusterPut c a v m n).copies = s.copies := rfl
@[simp] theorem State.clusterPut_ro (s : State) (c a v m n : Nat) : (s.clusterPut c a v m n).ro = s.ro := rfl
@[simp] theorem State.clusterPut_icache (s : State) (c a v m n : Nat) : (s.clusterPut c a v m n).icache = s.icache := rfl
@[simp] theorem State.clusterPut_tlb (s : State) (c a v m n : Nat) : (s.clusterPut c a v m n).tlb = s.tlb := rfl
@[simp] theorem State.clusterPut_slices (s : State) (c a v m n : Nat) : (s.clusterPut c a v m n).slices = s.slices := rfl
@[simp] theorem State.clusterPut_walks (s : State) (c a v m n : Nat) : (s.clusterPut c a v m n).walks = s.walks := rfl
@[simp] theorem State.clusterPut_woken (s : State) (c a v m n : Nat) : (s.clusterPut c a v m n).woken = s.woken := rfl
@[simp] theorem State.clusterPut_cores (s : State) (c a v m n : Nat) : (s.clusterPut c a v m n).cores = s.cores := rfl
@[simp] theorem State.clusterPut_dies (s : State) (c a v m n : Nat) : (s.clusterPut c a v m n).dies = s.dies := rfl
@[simp] theorem State.clusterPut_ctxs (s : State) (c a v m n : Nat) : (s.clusterPut c a v m n).ctxs = s.ctxs := rfl
@[simp] theorem State.clusterPut_launches (s : State) (c a v m n : Nat) : (s.clusterPut c a v m n).launches = s.launches := rfl
@[simp] theorem State.clusterPut_nextLaunch (s : State) (c a v m n : Nat) : (s.clusterPut c a v m n).nextLaunch = s.nextLaunch := rfl
@[simp] theorem State.clusterPut_tasks (s : State) (c a v m n : Nat) : (s.clusterPut c a v m n).tasks = s.tasks := rfl
@[simp] theorem State.clusterPut_sems (s : State) (c a v m n : Nat) : (s.clusterPut c a v m n).sems = s.sems := rfl
@[simp] theorem State.clusterPut_bars (s : State) (c a v m n : Nat) : (s.clusterPut c a v m n).bars = s.bars := rfl
@[simp] theorem State.clusterPut_queues (s : State) (c a v m n : Nat) : (s.clusterPut c a v m n).queues = s.queues := rfl
@[simp] theorem State.clusterPut_packed (s : State) (c a v m n : Nat) : (s.clusterPut c a v m n).packed = s.packed := rfl
@[simp] theorem State.clusterPut_hostQs (s : State) (c a v m n : Nat) : (s.clusterPut c a v m n).hostQs = s.hostQs := rfl
@[simp] theorem State.clusterPut_netOut (s : State) (c a v m n : Nat) : (s.clusterPut c a v m n).netOut = s.netOut := rfl
@[simp] theorem State.clusterPut_netIn (s : State) (c a v m n : Nat) : (s.clusterPut c a v m n).netIn = s.netIn := rfl
@[simp] theorem State.clusterPut_ringBase (s : State) (c a v m n : Nat) : (s.clusterPut c a v m n).ringBase = s.ringBase := rfl
@[simp] theorem State.clusterPut_ringSize (s : State) (c a v m n : Nat) : (s.clusterPut c a v m n).ringSize = s.ringSize := rfl
@[simp] theorem State.clusterPut_ringTail (s : State) (c a v m n : Nat) : (s.clusterPut c a v m n).ringTail = s.ringTail := rfl
@[simp] theorem State.clusterPut_ringHead (s : State) (c a v m n : Nat) : (s.clusterPut c a v m n).ringHead = s.ringHead := rfl
@[simp] theorem State.clusterPut_ringWait (s : State) (c a v m n : Nat) : (s.clusterPut c a v m n).ringWait = s.ringWait := rfl
@[simp] theorem State.clusterPut_mgmt (s : State) (c a v m n : Nat) : (s.clusterPut c a v m n).mgmt = s.mgmt := rfl
@[simp] theorem State.clusterPut_identity (s : State) (c a v m n : Nat) : (s.clusterPut c a v m n).identity = s.identity := rfl
@[simp] theorem State.clusterPut_fabric (s : State) (c a v m n : Nat) : (s.clusterPut c a v m n).fabric = s.fabric := rfl
@[simp] theorem State.clusterPut_replays (s : State) (c a v m n : Nat) : (s.clusterPut c a v m n).replays = s.replays := rfl
@[simp] theorem State.clusterPut_measures (s : State) (c a v m n : Nat) : (s.clusterPut c a v m n).measures = s.measures := rfl
@[simp] theorem State.clusterPut_versions (s : State) (c a v m n : Nat) : (s.clusterPut c a v m n).versions = s.versions := rfl
@[simp] theorem State.clusterPut_rollback (s : State) (c a v m n : Nat) : (s.clusterPut c a v m n).rollback = s.rollback := rfl
@[simp] theorem State.clusterPut_stage (s : State) (c a v m n : Nat) : (s.clusterPut c a v m n).stage = s.stage := rfl
@[simp] theorem State.clusterPut_failing (s : State) (c a v m n : Nat) : (s.clusterPut c a v m n).failing = s.failing := rfl
@[simp] theorem State.clusterPut_bootFuses (s : State) (c a v m n : Nat) : (s.clusterPut c a v m n).bootFuses = s.bootFuses := rfl
@[simp] theorem State.clusterPut_leaves (s : State) (c a v m n : Nat) : (s.clusterPut c a v m n).leaves = s.leaves := rfl
@[simp] theorem State.clusterPut_flash (s : State) (c a v m n : Nat) : (s.clusterPut c a v m n).flash = s.flash := rfl
@[simp] theorem State.clusterPut_bbFlash (s : State) (c a v m n : Nat) : (s.clusterPut c a v m n).bbFlash = s.bbFlash := rfl
@[simp] theorem State.clusterPut_replies (s : State) (c a v m n : Nat) : (s.clusterPut c a v m n).replies = s.replies := rfl
@[simp] theorem State.clusterPut_damage (s : State) (c a v m n : Nat) : (s.clusterPut c a v m n).damage = s.damage := rfl
@[simp] theorem State.clusterPut_cv (s : State) (c a v m n : Nat) : (s.clusterPut c a v m n).cv = s.cv := rfl
@[simp] theorem State.clusterPut_agenda (s : State) (c a v m n : Nat) : (s.clusterPut c a v m n).agenda = s.agenda := rfl
@[simp] theorem State.clusterPut_free (s : State) (c a v m n : Nat) : (s.clusterPut c a v m n).free = s.free := rfl

/-- A cluster cache with room takes the bits as they are. -/
theorem State.clusterWrite_of_hasRoom (s : State) (c a v m n : Nat) (h : s.hasRoom c a = true) :
    s.clusterWrite c a v m n = s.clusterPut c a v m n := by simp [State.clusterWrite, h]

/-! ## reply -/

@[simp] theorem State.reply_th (s : State) (r : Reply) : (s.reply r).th = s.th := rfl
@[simp] theorem State.reply_others (s : State) (r : Reply) : (s.reply r).others = s.others := rfl
@[simp] theorem State.reply_nextUid (s : State) (r : Reply) : (s.reply r).nextUid = s.nextUid := rfl
@[simp] theorem State.reply_mem (s : State) (r : Reply) : (s.reply r).mem = s.mem := rfl
@[simp] theorem State.reply_scratch (s : State) (r : Reply) : (s.reply r).scratch = s.scratch := rfl
@[simp] theorem State.reply_metas (s : State) (r : Reply) : (s.reply r).metas = s.metas := rfl
@[simp] theorem State.reply_copies (s : State) (r : Reply) : (s.reply r).copies = s.copies := rfl
@[simp] theorem State.reply_sectors (s : State) (r : Reply) : (s.reply r).sectors = s.sectors := rfl
@[simp] theorem State.reply_ro (s : State) (r : Reply) : (s.reply r).ro = s.ro := rfl
@[simp] theorem State.reply_icache (s : State) (r : Reply) : (s.reply r).icache = s.icache := rfl
@[simp] theorem State.reply_tlb (s : State) (r : Reply) : (s.reply r).tlb = s.tlb := rfl
@[simp] theorem State.reply_slices (s : State) (r : Reply) : (s.reply r).slices = s.slices := rfl
@[simp] theorem State.reply_walks (s : State) (r : Reply) : (s.reply r).walks = s.walks := rfl
@[simp] theorem State.reply_woken (s : State) (r : Reply) : (s.reply r).woken = s.woken := rfl
@[simp] theorem State.reply_cores (s : State) (r : Reply) : (s.reply r).cores = s.cores := rfl
@[simp] theorem State.reply_dies (s : State) (r : Reply) : (s.reply r).dies = s.dies := rfl
@[simp] theorem State.reply_ctxs (s : State) (r : Reply) : (s.reply r).ctxs = s.ctxs := rfl
@[simp] theorem State.reply_launches (s : State) (r : Reply) : (s.reply r).launches = s.launches := rfl
@[simp] theorem State.reply_nextLaunch (s : State) (r : Reply) : (s.reply r).nextLaunch = s.nextLaunch := rfl
@[simp] theorem State.reply_tasks (s : State) (r : Reply) : (s.reply r).tasks = s.tasks := rfl
@[simp] theorem State.reply_sems (s : State) (r : Reply) : (s.reply r).sems = s.sems := rfl
@[simp] theorem State.reply_bars (s : State) (r : Reply) : (s.reply r).bars = s.bars := rfl
@[simp] theorem State.reply_queues (s : State) (r : Reply) : (s.reply r).queues = s.queues := rfl
@[simp] theorem State.reply_packed (s : State) (r : Reply) : (s.reply r).packed = s.packed := rfl
@[simp] theorem State.reply_hostQs (s : State) (r : Reply) : (s.reply r).hostQs = s.hostQs := rfl
@[simp] theorem State.reply_netOut (s : State) (r : Reply) : (s.reply r).netOut = s.netOut := rfl
@[simp] theorem State.reply_netIn (s : State) (r : Reply) : (s.reply r).netIn = s.netIn := rfl
@[simp] theorem State.reply_ringBase (s : State) (r : Reply) : (s.reply r).ringBase = s.ringBase := rfl
@[simp] theorem State.reply_ringSize (s : State) (r : Reply) : (s.reply r).ringSize = s.ringSize := rfl
@[simp] theorem State.reply_ringTail (s : State) (r : Reply) : (s.reply r).ringTail = s.ringTail := rfl
@[simp] theorem State.reply_ringHead (s : State) (r : Reply) : (s.reply r).ringHead = s.ringHead := rfl
@[simp] theorem State.reply_ringWait (s : State) (r : Reply) : (s.reply r).ringWait = s.ringWait := rfl
@[simp] theorem State.reply_mgmt (s : State) (r : Reply) : (s.reply r).mgmt = s.mgmt := rfl
@[simp] theorem State.reply_identity (s : State) (r : Reply) : (s.reply r).identity = s.identity := rfl
@[simp] theorem State.reply_fabric (s : State) (r : Reply) : (s.reply r).fabric = s.fabric := rfl
@[simp] theorem State.reply_replays (s : State) (r : Reply) : (s.reply r).replays = s.replays := rfl
@[simp] theorem State.reply_measures (s : State) (r : Reply) : (s.reply r).measures = s.measures := rfl
@[simp] theorem State.reply_versions (s : State) (r : Reply) : (s.reply r).versions = s.versions := rfl
@[simp] theorem State.reply_rollback (s : State) (r : Reply) : (s.reply r).rollback = s.rollback := rfl
@[simp] theorem State.reply_stage (s : State) (r : Reply) : (s.reply r).stage = s.stage := rfl
@[simp] theorem State.reply_failing (s : State) (r : Reply) : (s.reply r).failing = s.failing := rfl
@[simp] theorem State.reply_bootFuses (s : State) (r : Reply) : (s.reply r).bootFuses = s.bootFuses := rfl
@[simp] theorem State.reply_leaves (s : State) (r : Reply) : (s.reply r).leaves = s.leaves := rfl
@[simp] theorem State.reply_flash (s : State) (r : Reply) : (s.reply r).flash = s.flash := rfl
@[simp] theorem State.reply_bbFlash (s : State) (r : Reply) : (s.reply r).bbFlash = s.bbFlash := rfl
@[simp] theorem State.reply_damage (s : State) (r : Reply) : (s.reply r).damage = s.damage := rfl
@[simp] theorem State.reply_cv (s : State) (r : Reply) : (s.reply r).cv = s.cv := rfl
@[simp] theorem State.reply_agenda (s : State) (r : Reply) : (s.reply r).agenda = s.agenda := rfl
@[simp] theorem State.reply_free (s : State) (r : Reply) : (s.reply r).free = s.free := rfl

/-! ## onCmd -/

@[simp] theorem State.onCmd_th (s : State) (token : Nat) (f : Cmd → Cmd) : (s.onCmd token f).th = s.th := rfl
@[simp] theorem State.onCmd_others (s : State) (token : Nat) (f : Cmd → Cmd) : (s.onCmd token f).others = s.others := rfl
@[simp] theorem State.onCmd_nextUid (s : State) (token : Nat) (f : Cmd → Cmd) : (s.onCmd token f).nextUid = s.nextUid := rfl
@[simp] theorem State.onCmd_mem (s : State) (token : Nat) (f : Cmd → Cmd) : (s.onCmd token f).mem = s.mem := rfl
@[simp] theorem State.onCmd_scratch (s : State) (token : Nat) (f : Cmd → Cmd) : (s.onCmd token f).scratch = s.scratch := rfl
@[simp] theorem State.onCmd_metas (s : State) (token : Nat) (f : Cmd → Cmd) : (s.onCmd token f).metas = s.metas := rfl
@[simp] theorem State.onCmd_copies (s : State) (token : Nat) (f : Cmd → Cmd) : (s.onCmd token f).copies = s.copies := rfl
@[simp] theorem State.onCmd_sectors (s : State) (token : Nat) (f : Cmd → Cmd) : (s.onCmd token f).sectors = s.sectors := rfl
@[simp] theorem State.onCmd_ro (s : State) (token : Nat) (f : Cmd → Cmd) : (s.onCmd token f).ro = s.ro := rfl
@[simp] theorem State.onCmd_icache (s : State) (token : Nat) (f : Cmd → Cmd) : (s.onCmd token f).icache = s.icache := rfl
@[simp] theorem State.onCmd_tlb (s : State) (token : Nat) (f : Cmd → Cmd) : (s.onCmd token f).tlb = s.tlb := rfl
@[simp] theorem State.onCmd_slices (s : State) (token : Nat) (f : Cmd → Cmd) : (s.onCmd token f).slices = s.slices := rfl
@[simp] theorem State.onCmd_walks (s : State) (token : Nat) (f : Cmd → Cmd) : (s.onCmd token f).walks = s.walks := rfl
@[simp] theorem State.onCmd_woken (s : State) (token : Nat) (f : Cmd → Cmd) : (s.onCmd token f).woken = s.woken := rfl
@[simp] theorem State.onCmd_cores (s : State) (token : Nat) (f : Cmd → Cmd) : (s.onCmd token f).cores = s.cores := rfl
@[simp] theorem State.onCmd_dies (s : State) (token : Nat) (f : Cmd → Cmd) : (s.onCmd token f).dies = s.dies := rfl
@[simp] theorem State.onCmd_ctxs (s : State) (token : Nat) (f : Cmd → Cmd) : (s.onCmd token f).ctxs = s.ctxs := rfl
@[simp] theorem State.onCmd_launches (s : State) (token : Nat) (f : Cmd → Cmd) : (s.onCmd token f).launches = s.launches := rfl
@[simp] theorem State.onCmd_nextLaunch (s : State) (token : Nat) (f : Cmd → Cmd) : (s.onCmd token f).nextLaunch = s.nextLaunch := rfl
@[simp] theorem State.onCmd_tasks (s : State) (token : Nat) (f : Cmd → Cmd) : (s.onCmd token f).tasks = s.tasks := rfl
@[simp] theorem State.onCmd_sems (s : State) (token : Nat) (f : Cmd → Cmd) : (s.onCmd token f).sems = s.sems := rfl
@[simp] theorem State.onCmd_bars (s : State) (token : Nat) (f : Cmd → Cmd) : (s.onCmd token f).bars = s.bars := rfl
@[simp] theorem State.onCmd_packed (s : State) (token : Nat) (f : Cmd → Cmd) : (s.onCmd token f).packed = s.packed := rfl
@[simp] theorem State.onCmd_hostQs (s : State) (token : Nat) (f : Cmd → Cmd) : (s.onCmd token f).hostQs = s.hostQs := rfl
@[simp] theorem State.onCmd_netOut (s : State) (token : Nat) (f : Cmd → Cmd) : (s.onCmd token f).netOut = s.netOut := rfl
@[simp] theorem State.onCmd_netIn (s : State) (token : Nat) (f : Cmd → Cmd) : (s.onCmd token f).netIn = s.netIn := rfl
@[simp] theorem State.onCmd_ringBase (s : State) (token : Nat) (f : Cmd → Cmd) : (s.onCmd token f).ringBase = s.ringBase := rfl
@[simp] theorem State.onCmd_ringSize (s : State) (token : Nat) (f : Cmd → Cmd) : (s.onCmd token f).ringSize = s.ringSize := rfl
@[simp] theorem State.onCmd_ringTail (s : State) (token : Nat) (f : Cmd → Cmd) : (s.onCmd token f).ringTail = s.ringTail := rfl
@[simp] theorem State.onCmd_ringHead (s : State) (token : Nat) (f : Cmd → Cmd) : (s.onCmd token f).ringHead = s.ringHead := rfl
@[simp] theorem State.onCmd_ringWait (s : State) (token : Nat) (f : Cmd → Cmd) : (s.onCmd token f).ringWait = s.ringWait := rfl
@[simp] theorem State.onCmd_mgmt (s : State) (token : Nat) (f : Cmd → Cmd) : (s.onCmd token f).mgmt = s.mgmt := rfl
@[simp] theorem State.onCmd_identity (s : State) (token : Nat) (f : Cmd → Cmd) : (s.onCmd token f).identity = s.identity := rfl
@[simp] theorem State.onCmd_fabric (s : State) (token : Nat) (f : Cmd → Cmd) : (s.onCmd token f).fabric = s.fabric := rfl
@[simp] theorem State.onCmd_replays (s : State) (token : Nat) (f : Cmd → Cmd) : (s.onCmd token f).replays = s.replays := rfl
@[simp] theorem State.onCmd_measures (s : State) (token : Nat) (f : Cmd → Cmd) : (s.onCmd token f).measures = s.measures := rfl
@[simp] theorem State.onCmd_versions (s : State) (token : Nat) (f : Cmd → Cmd) : (s.onCmd token f).versions = s.versions := rfl
@[simp] theorem State.onCmd_rollback (s : State) (token : Nat) (f : Cmd → Cmd) : (s.onCmd token f).rollback = s.rollback := rfl
@[simp] theorem State.onCmd_stage (s : State) (token : Nat) (f : Cmd → Cmd) : (s.onCmd token f).stage = s.stage := rfl
@[simp] theorem State.onCmd_failing (s : State) (token : Nat) (f : Cmd → Cmd) : (s.onCmd token f).failing = s.failing := rfl
@[simp] theorem State.onCmd_bootFuses (s : State) (token : Nat) (f : Cmd → Cmd) : (s.onCmd token f).bootFuses = s.bootFuses := rfl
@[simp] theorem State.onCmd_leaves (s : State) (token : Nat) (f : Cmd → Cmd) : (s.onCmd token f).leaves = s.leaves := rfl
@[simp] theorem State.onCmd_flash (s : State) (token : Nat) (f : Cmd → Cmd) : (s.onCmd token f).flash = s.flash := rfl
@[simp] theorem State.onCmd_bbFlash (s : State) (token : Nat) (f : Cmd → Cmd) : (s.onCmd token f).bbFlash = s.bbFlash := rfl
@[simp] theorem State.onCmd_replies (s : State) (token : Nat) (f : Cmd → Cmd) : (s.onCmd token f).replies = s.replies := rfl
@[simp] theorem State.onCmd_damage (s : State) (token : Nat) (f : Cmd → Cmd) : (s.onCmd token f).damage = s.damage := rfl
@[simp] theorem State.onCmd_cv (s : State) (token : Nat) (f : Cmd → Cmd) : (s.onCmd token f).cv = s.cv := rfl
@[simp] theorem State.onCmd_agenda (s : State) (token : Nat) (f : Cmd → Cmd) : (s.onCmd token f).agenda = s.agenda := rfl
@[simp] theorem State.onCmd_free (s : State) (token : Nat) (f : Cmd → Cmd) : (s.onCmd token f).free = s.free := rfl

/-! ## waitFor -/

@[simp] theorem State.waitFor_th (s : State) (w : Wait) (r : Register) : (s.waitFor w r).th = s.th := rfl
@[simp] theorem State.waitFor_others (s : State) (w : Wait) (r : Register) : (s.waitFor w r).others = s.others := rfl
@[simp] theorem State.waitFor_nextUid (s : State) (w : Wait) (r : Register) : (s.waitFor w r).nextUid = s.nextUid := rfl
@[simp] theorem State.waitFor_mem (s : State) (w : Wait) (r : Register) : (s.waitFor w r).mem = s.mem := rfl
@[simp] theorem State.waitFor_scratch (s : State) (w : Wait) (r : Register) : (s.waitFor w r).scratch = s.scratch := rfl
@[simp] theorem State.waitFor_metas (s : State) (w : Wait) (r : Register) : (s.waitFor w r).metas = s.metas := rfl
@[simp] theorem State.waitFor_copies (s : State) (w : Wait) (r : Register) : (s.waitFor w r).copies = s.copies := rfl
@[simp] theorem State.waitFor_sectors (s : State) (w : Wait) (r : Register) : (s.waitFor w r).sectors = s.sectors := rfl
@[simp] theorem State.waitFor_ro (s : State) (w : Wait) (r : Register) : (s.waitFor w r).ro = s.ro := rfl
@[simp] theorem State.waitFor_icache (s : State) (w : Wait) (r : Register) : (s.waitFor w r).icache = s.icache := rfl
@[simp] theorem State.waitFor_tlb (s : State) (w : Wait) (r : Register) : (s.waitFor w r).tlb = s.tlb := rfl
@[simp] theorem State.waitFor_slices (s : State) (w : Wait) (r : Register) : (s.waitFor w r).slices = s.slices := rfl
@[simp] theorem State.waitFor_walks (s : State) (w : Wait) (r : Register) : (s.waitFor w r).walks = s.walks := rfl
@[simp] theorem State.waitFor_woken (s : State) (w : Wait) (r : Register) : (s.waitFor w r).woken = s.woken := rfl
@[simp] theorem State.waitFor_cores (s : State) (w : Wait) (r : Register) : (s.waitFor w r).cores = s.cores := rfl
@[simp] theorem State.waitFor_dies (s : State) (w : Wait) (r : Register) : (s.waitFor w r).dies = s.dies := rfl
@[simp] theorem State.waitFor_ctxs (s : State) (w : Wait) (r : Register) : (s.waitFor w r).ctxs = s.ctxs := rfl
@[simp] theorem State.waitFor_launches (s : State) (w : Wait) (r : Register) : (s.waitFor w r).launches = s.launches := rfl
@[simp] theorem State.waitFor_nextLaunch (s : State) (w : Wait) (r : Register) : (s.waitFor w r).nextLaunch = s.nextLaunch := rfl
@[simp] theorem State.waitFor_tasks (s : State) (w : Wait) (r : Register) : (s.waitFor w r).tasks = s.tasks := rfl
@[simp] theorem State.waitFor_sems (s : State) (w : Wait) (r : Register) : (s.waitFor w r).sems = s.sems := rfl
@[simp] theorem State.waitFor_bars (s : State) (w : Wait) (r : Register) : (s.waitFor w r).bars = s.bars := rfl
@[simp] theorem State.waitFor_queues (s : State) (w : Wait) (r : Register) : (s.waitFor w r).queues = s.queues := rfl
@[simp] theorem State.waitFor_packed (s : State) (w : Wait) (r : Register) : (s.waitFor w r).packed = s.packed := rfl
@[simp] theorem State.waitFor_hostQs (s : State) (w : Wait) (r : Register) : (s.waitFor w r).hostQs = s.hostQs := rfl
@[simp] theorem State.waitFor_netOut (s : State) (w : Wait) (r : Register) : (s.waitFor w r).netOut = s.netOut := rfl
@[simp] theorem State.waitFor_netIn (s : State) (w : Wait) (r : Register) : (s.waitFor w r).netIn = s.netIn := rfl
@[simp] theorem State.waitFor_ringBase (s : State) (w : Wait) (r : Register) : (s.waitFor w r).ringBase = s.ringBase := rfl
@[simp] theorem State.waitFor_ringSize (s : State) (w : Wait) (r : Register) : (s.waitFor w r).ringSize = s.ringSize := rfl
@[simp] theorem State.waitFor_ringTail (s : State) (w : Wait) (r : Register) : (s.waitFor w r).ringTail = s.ringTail := rfl
@[simp] theorem State.waitFor_ringHead (s : State) (w : Wait) (r : Register) : (s.waitFor w r).ringHead = s.ringHead := rfl
@[simp] theorem State.waitFor_ringWait (s : State) (w : Wait) (r : Register) : (s.waitFor w r).ringWait = s.ringWait := rfl
@[simp] theorem State.waitFor_mgmt (s : State) (w : Wait) (r : Register) : (s.waitFor w r).mgmt = s.mgmt := rfl
@[simp] theorem State.waitFor_identity (s : State) (w : Wait) (r : Register) : (s.waitFor w r).identity = s.identity := rfl
@[simp] theorem State.waitFor_fabric (s : State) (w : Wait) (r : Register) : (s.waitFor w r).fabric = s.fabric := rfl
@[simp] theorem State.waitFor_replays (s : State) (w : Wait) (r : Register) : (s.waitFor w r).replays = s.replays := rfl
@[simp] theorem State.waitFor_measures (s : State) (w : Wait) (r : Register) : (s.waitFor w r).measures = s.measures := rfl
@[simp] theorem State.waitFor_versions (s : State) (w : Wait) (r : Register) : (s.waitFor w r).versions = s.versions := rfl
@[simp] theorem State.waitFor_rollback (s : State) (w : Wait) (r : Register) : (s.waitFor w r).rollback = s.rollback := rfl
@[simp] theorem State.waitFor_stage (s : State) (w : Wait) (r : Register) : (s.waitFor w r).stage = s.stage := rfl
@[simp] theorem State.waitFor_failing (s : State) (w : Wait) (r : Register) : (s.waitFor w r).failing = s.failing := rfl
@[simp] theorem State.waitFor_bootFuses (s : State) (w : Wait) (r : Register) : (s.waitFor w r).bootFuses = s.bootFuses := rfl
@[simp] theorem State.waitFor_leaves (s : State) (w : Wait) (r : Register) : (s.waitFor w r).leaves = s.leaves := rfl
@[simp] theorem State.waitFor_flash (s : State) (w : Wait) (r : Register) : (s.waitFor w r).flash = s.flash := rfl
@[simp] theorem State.waitFor_bbFlash (s : State) (w : Wait) (r : Register) : (s.waitFor w r).bbFlash = s.bbFlash := rfl
@[simp] theorem State.waitFor_replies (s : State) (w : Wait) (r : Register) : (s.waitFor w r).replies = s.replies := rfl
@[simp] theorem State.waitFor_damage (s : State) (w : Wait) (r : Register) : (s.waitFor w r).damage = s.damage := rfl
@[simp] theorem State.waitFor_agenda (s : State) (w : Wait) (r : Register) : (s.waitFor w r).agenda = s.agenda := rfl
@[simp] theorem State.waitFor_free (s : State) (w : Wait) (r : Register) : (s.waitFor w r).free = s.free := rfl

/-! ## keep -/

@[simp] theorem State.keep_th (s : State) (e : Nat) (f : Eff) : (s.keep e f).th = s.th := by unfold State.keep; split <;> rfl
@[simp] theorem State.keep_others (s : State) (e : Nat) (f : Eff) : (s.keep e f).others = s.others := by unfold State.keep; split <;> rfl
@[simp] theorem State.keep_nextUid (s : State) (e : Nat) (f : Eff) : (s.keep e f).nextUid = s.nextUid := by unfold State.keep; split <;> rfl
@[simp] theorem State.keep_mem (s : State) (e : Nat) (f : Eff) : (s.keep e f).mem = s.mem := by unfold State.keep; split <;> rfl
@[simp] theorem State.keep_scratch (s : State) (e : Nat) (f : Eff) : (s.keep e f).scratch = s.scratch := by unfold State.keep; split <;> rfl
@[simp] theorem State.keep_metas (s : State) (e : Nat) (f : Eff) : (s.keep e f).metas = s.metas := by unfold State.keep; split <;> rfl
@[simp] theorem State.keep_copies (s : State) (e : Nat) (f : Eff) : (s.keep e f).copies = s.copies := by unfold State.keep; split <;> rfl
@[simp] theorem State.keep_sectors (s : State) (e : Nat) (f : Eff) : (s.keep e f).sectors = s.sectors := by unfold State.keep; split <;> rfl
@[simp] theorem State.keep_ro (s : State) (e : Nat) (f : Eff) : (s.keep e f).ro = s.ro := by unfold State.keep; split <;> rfl
@[simp] theorem State.keep_icache (s : State) (e : Nat) (f : Eff) : (s.keep e f).icache = s.icache := by unfold State.keep; split <;> rfl
@[simp] theorem State.keep_tlb (s : State) (e : Nat) (f : Eff) : (s.keep e f).tlb = s.tlb := by unfold State.keep; split <;> rfl
@[simp] theorem State.keep_slices (s : State) (e : Nat) (f : Eff) : (s.keep e f).slices = s.slices := by unfold State.keep; split <;> rfl
@[simp] theorem State.keep_walks (s : State) (e : Nat) (f : Eff) : (s.keep e f).walks = s.walks := by unfold State.keep; split <;> rfl
@[simp] theorem State.keep_woken (s : State) (e : Nat) (f : Eff) : (s.keep e f).woken = s.woken := by unfold State.keep; split <;> rfl
@[simp] theorem State.keep_cores (s : State) (e : Nat) (f : Eff) : (s.keep e f).cores = s.cores := by unfold State.keep; split <;> rfl
@[simp] theorem State.keep_dies (s : State) (e : Nat) (f : Eff) : (s.keep e f).dies = s.dies := by unfold State.keep; split <;> rfl
@[simp] theorem State.keep_ctxs (s : State) (e : Nat) (f : Eff) : (s.keep e f).ctxs = s.ctxs := by unfold State.keep; split <;> rfl
@[simp] theorem State.keep_launches (s : State) (e : Nat) (f : Eff) : (s.keep e f).launches = s.launches := by unfold State.keep; split <;> rfl
@[simp] theorem State.keep_nextLaunch (s : State) (e : Nat) (f : Eff) : (s.keep e f).nextLaunch = s.nextLaunch := by unfold State.keep; split <;> rfl
@[simp] theorem State.keep_tasks (s : State) (e : Nat) (f : Eff) : (s.keep e f).tasks = s.tasks := by unfold State.keep; split <;> rfl
@[simp] theorem State.keep_sems (s : State) (e : Nat) (f : Eff) : (s.keep e f).sems = s.sems := by unfold State.keep; split <;> rfl
@[simp] theorem State.keep_bars (s : State) (e : Nat) (f : Eff) : (s.keep e f).bars = s.bars := by unfold State.keep; split <;> rfl
@[simp] theorem State.keep_queues (s : State) (e : Nat) (f : Eff) : (s.keep e f).queues = s.queues := by unfold State.keep; split <;> rfl
@[simp] theorem State.keep_packed (s : State) (e : Nat) (f : Eff) : (s.keep e f).packed = s.packed := by unfold State.keep; split <;> rfl
@[simp] theorem State.keep_hostQs (s : State) (e : Nat) (f : Eff) : (s.keep e f).hostQs = s.hostQs := by unfold State.keep; split <;> rfl
@[simp] theorem State.keep_netOut (s : State) (e : Nat) (f : Eff) : (s.keep e f).netOut = s.netOut := by unfold State.keep; split <;> rfl
@[simp] theorem State.keep_netIn (s : State) (e : Nat) (f : Eff) : (s.keep e f).netIn = s.netIn := by unfold State.keep; split <;> rfl
@[simp] theorem State.keep_ringBase (s : State) (e : Nat) (f : Eff) : (s.keep e f).ringBase = s.ringBase := by unfold State.keep; split <;> rfl
@[simp] theorem State.keep_ringSize (s : State) (e : Nat) (f : Eff) : (s.keep e f).ringSize = s.ringSize := by unfold State.keep; split <;> rfl
@[simp] theorem State.keep_ringTail (s : State) (e : Nat) (f : Eff) : (s.keep e f).ringTail = s.ringTail := by unfold State.keep; split <;> rfl
@[simp] theorem State.keep_ringHead (s : State) (e : Nat) (f : Eff) : (s.keep e f).ringHead = s.ringHead := by unfold State.keep; split <;> rfl
@[simp] theorem State.keep_ringWait (s : State) (e : Nat) (f : Eff) : (s.keep e f).ringWait = s.ringWait := by unfold State.keep; split <;> rfl
@[simp] theorem State.keep_mgmt (s : State) (e : Nat) (f : Eff) : (s.keep e f).mgmt = s.mgmt := by unfold State.keep; split <;> rfl
@[simp] theorem State.keep_identity (s : State) (e : Nat) (f : Eff) : (s.keep e f).identity = s.identity := by unfold State.keep; split <;> rfl
@[simp] theorem State.keep_fabric (s : State) (e : Nat) (f : Eff) : (s.keep e f).fabric = s.fabric := by unfold State.keep; split <;> rfl
@[simp] theorem State.keep_replays (s : State) (e : Nat) (f : Eff) : (s.keep e f).replays = s.replays := by unfold State.keep; split <;> rfl
@[simp] theorem State.keep_measures (s : State) (e : Nat) (f : Eff) : (s.keep e f).measures = s.measures := by unfold State.keep; split <;> rfl
@[simp] theorem State.keep_versions (s : State) (e : Nat) (f : Eff) : (s.keep e f).versions = s.versions := by unfold State.keep; split <;> rfl
@[simp] theorem State.keep_rollback (s : State) (e : Nat) (f : Eff) : (s.keep e f).rollback = s.rollback := by unfold State.keep; split <;> rfl
@[simp] theorem State.keep_stage (s : State) (e : Nat) (f : Eff) : (s.keep e f).stage = s.stage := by unfold State.keep; split <;> rfl
@[simp] theorem State.keep_failing (s : State) (e : Nat) (f : Eff) : (s.keep e f).failing = s.failing := by unfold State.keep; split <;> rfl
@[simp] theorem State.keep_bootFuses (s : State) (e : Nat) (f : Eff) : (s.keep e f).bootFuses = s.bootFuses := by unfold State.keep; split <;> rfl
@[simp] theorem State.keep_leaves (s : State) (e : Nat) (f : Eff) : (s.keep e f).leaves = s.leaves := by unfold State.keep; split <;> rfl
@[simp] theorem State.keep_flash (s : State) (e : Nat) (f : Eff) : (s.keep e f).flash = s.flash := by unfold State.keep; split <;> rfl
@[simp] theorem State.keep_bbFlash (s : State) (e : Nat) (f : Eff) : (s.keep e f).bbFlash = s.bbFlash := by unfold State.keep; split <;> rfl
@[simp] theorem State.keep_replies (s : State) (e : Nat) (f : Eff) : (s.keep e f).replies = s.replies := by unfold State.keep; split <;> rfl
@[simp] theorem State.keep_damage (s : State) (e : Nat) (f : Eff) : (s.keep e f).damage = s.damage := by unfold State.keep; split <;> rfl
@[simp] theorem State.keep_agenda (s : State) (e : Nat) (f : Eff) : (s.keep e f).agenda = s.agenda := by unfold State.keep; split <;> rfl
@[simp] theorem State.keep_free (s : State) (e : Nat) (f : Eff) : (s.keep e f).free = s.free := by unfold State.keep; split <;> rfl

/-! ## zeroScratch -/

@[simp] theorem State.zeroScratch_th (s : State) (c o n : Nat) : (s.zeroScratch c o n).th = s.th := rfl
@[simp] theorem State.zeroScratch_others (s : State) (c o n : Nat) : (s.zeroScratch c o n).others = s.others := rfl
@[simp] theorem State.zeroScratch_nextUid (s : State) (c o n : Nat) : (s.zeroScratch c o n).nextUid = s.nextUid := rfl
@[simp] theorem State.zeroScratch_mem (s : State) (c o n : Nat) : (s.zeroScratch c o n).mem = s.mem := rfl
@[simp] theorem State.zeroScratch_metas (s : State) (c o n : Nat) : (s.zeroScratch c o n).metas = s.metas := rfl
@[simp] theorem State.zeroScratch_copies (s : State) (c o n : Nat) : (s.zeroScratch c o n).copies = s.copies := rfl
@[simp] theorem State.zeroScratch_sectors (s : State) (c o n : Nat) : (s.zeroScratch c o n).sectors = s.sectors := rfl
@[simp] theorem State.zeroScratch_ro (s : State) (c o n : Nat) : (s.zeroScratch c o n).ro = s.ro := rfl
@[simp] theorem State.zeroScratch_icache (s : State) (c o n : Nat) : (s.zeroScratch c o n).icache = s.icache := rfl
@[simp] theorem State.zeroScratch_tlb (s : State) (c o n : Nat) : (s.zeroScratch c o n).tlb = s.tlb := rfl
@[simp] theorem State.zeroScratch_slices (s : State) (c o n : Nat) : (s.zeroScratch c o n).slices = s.slices := rfl
@[simp] theorem State.zeroScratch_walks (s : State) (c o n : Nat) : (s.zeroScratch c o n).walks = s.walks := rfl
@[simp] theorem State.zeroScratch_woken (s : State) (c o n : Nat) : (s.zeroScratch c o n).woken = s.woken := rfl
@[simp] theorem State.zeroScratch_cores (s : State) (c o n : Nat) : (s.zeroScratch c o n).cores = s.cores := rfl
@[simp] theorem State.zeroScratch_dies (s : State) (c o n : Nat) : (s.zeroScratch c o n).dies = s.dies := rfl
@[simp] theorem State.zeroScratch_ctxs (s : State) (c o n : Nat) : (s.zeroScratch c o n).ctxs = s.ctxs := rfl
@[simp] theorem State.zeroScratch_launches (s : State) (c o n : Nat) : (s.zeroScratch c o n).launches = s.launches := rfl
@[simp] theorem State.zeroScratch_nextLaunch (s : State) (c o n : Nat) : (s.zeroScratch c o n).nextLaunch = s.nextLaunch := rfl
@[simp] theorem State.zeroScratch_tasks (s : State) (c o n : Nat) : (s.zeroScratch c o n).tasks = s.tasks := rfl
@[simp] theorem State.zeroScratch_sems (s : State) (c o n : Nat) : (s.zeroScratch c o n).sems = s.sems := rfl
@[simp] theorem State.zeroScratch_bars (s : State) (c o n : Nat) : (s.zeroScratch c o n).bars = s.bars := rfl
@[simp] theorem State.zeroScratch_queues (s : State) (c o n : Nat) : (s.zeroScratch c o n).queues = s.queues := rfl
@[simp] theorem State.zeroScratch_packed (s : State) (c o n : Nat) : (s.zeroScratch c o n).packed = s.packed := rfl
@[simp] theorem State.zeroScratch_hostQs (s : State) (c o n : Nat) : (s.zeroScratch c o n).hostQs = s.hostQs := rfl
@[simp] theorem State.zeroScratch_netOut (s : State) (c o n : Nat) : (s.zeroScratch c o n).netOut = s.netOut := rfl
@[simp] theorem State.zeroScratch_netIn (s : State) (c o n : Nat) : (s.zeroScratch c o n).netIn = s.netIn := rfl
@[simp] theorem State.zeroScratch_ringBase (s : State) (c o n : Nat) : (s.zeroScratch c o n).ringBase = s.ringBase := rfl
@[simp] theorem State.zeroScratch_ringSize (s : State) (c o n : Nat) : (s.zeroScratch c o n).ringSize = s.ringSize := rfl
@[simp] theorem State.zeroScratch_ringTail (s : State) (c o n : Nat) : (s.zeroScratch c o n).ringTail = s.ringTail := rfl
@[simp] theorem State.zeroScratch_ringHead (s : State) (c o n : Nat) : (s.zeroScratch c o n).ringHead = s.ringHead := rfl
@[simp] theorem State.zeroScratch_ringWait (s : State) (c o n : Nat) : (s.zeroScratch c o n).ringWait = s.ringWait := rfl
@[simp] theorem State.zeroScratch_mgmt (s : State) (c o n : Nat) : (s.zeroScratch c o n).mgmt = s.mgmt := rfl
@[simp] theorem State.zeroScratch_identity (s : State) (c o n : Nat) : (s.zeroScratch c o n).identity = s.identity := rfl
@[simp] theorem State.zeroScratch_fabric (s : State) (c o n : Nat) : (s.zeroScratch c o n).fabric = s.fabric := rfl
@[simp] theorem State.zeroScratch_replays (s : State) (c o n : Nat) : (s.zeroScratch c o n).replays = s.replays := rfl
@[simp] theorem State.zeroScratch_measures (s : State) (c o n : Nat) : (s.zeroScratch c o n).measures = s.measures := rfl
@[simp] theorem State.zeroScratch_versions (s : State) (c o n : Nat) : (s.zeroScratch c o n).versions = s.versions := rfl
@[simp] theorem State.zeroScratch_rollback (s : State) (c o n : Nat) : (s.zeroScratch c o n).rollback = s.rollback := rfl
@[simp] theorem State.zeroScratch_stage (s : State) (c o n : Nat) : (s.zeroScratch c o n).stage = s.stage := rfl
@[simp] theorem State.zeroScratch_failing (s : State) (c o n : Nat) : (s.zeroScratch c o n).failing = s.failing := rfl
@[simp] theorem State.zeroScratch_bootFuses (s : State) (c o n : Nat) : (s.zeroScratch c o n).bootFuses = s.bootFuses := rfl
@[simp] theorem State.zeroScratch_leaves (s : State) (c o n : Nat) : (s.zeroScratch c o n).leaves = s.leaves := rfl
@[simp] theorem State.zeroScratch_flash (s : State) (c o n : Nat) : (s.zeroScratch c o n).flash = s.flash := rfl
@[simp] theorem State.zeroScratch_bbFlash (s : State) (c o n : Nat) : (s.zeroScratch c o n).bbFlash = s.bbFlash := rfl
@[simp] theorem State.zeroScratch_replies (s : State) (c o n : Nat) : (s.zeroScratch c o n).replies = s.replies := rfl
@[simp] theorem State.zeroScratch_cv (s : State) (c o n : Nat) : (s.zeroScratch c o n).cv = s.cv := rfl
@[simp] theorem State.zeroScratch_agenda (s : State) (c o n : Nat) : (s.zeroScratch c o n).agenda = s.agenda := rfl
@[simp] theorem State.zeroScratch_free (s : State) (c o n : Nat) : (s.zeroScratch c o n).free = s.free := rfl

/-! ## What an update writes -/

@[simp] theorem State.onTh_th (s : State) (f : Thread → Thread) : (s.onTh f).th = f s.th := rfl
@[simp] theorem State.onCsr_th (s : State) (f : Csrs → Csrs) : (s.onCsr f).th = { s.th with csr := f s.th.csr } := rfl
@[simp] theorem State.onCv_cv (s : State) (f : Convoy → Convoy) : (s.onCv f).cv = f s.cv := rfl
@[simp] theorem State.setReg_th (s : State) (d : BitVec 5) (v : Word) : (s.setReg d v).th = s.th.setReg d.toNat v := rfl
@[simp] theorem State.orFlags_th (s : State) (f : BitVec 6) : (s.orFlags f).th = { s.th with csr := { s.th.csr with fflags := s.th.csr.fflags ||| f } } := rfl
@[simp] theorem State.onLaunch_launches (s : State) (id : Nat) (f : Launch → Launch) : (s.onLaunch id f).launches = updWhere (fun l => l.id == id) f s.launches := rfl
@[simp] theorem State.putSem_sems (s : State) (x : Sem) : (s.putSem x).sems = x :: s.sems.filter (·.num != x.num) := rfl
@[simp] theorem State.putSector_sectors (s : State) (x : Sector) : (s.putSector x).sectors = x :: s.sectors.filter (fun y => !(y.cluster == x.cluster && y.addr == x.addr)) := rfl
@[simp] theorem State.homeWrite_mem (s : State) (a v m n : Nat) : (s.homeWrite a v m n).mem = cellsMerge s.mem a v m n := rfl
@[simp] theorem State.waitFor_cv (s : State) (w : Wait) (r : Register) : (s.waitFor w r).cv = { s.cv with wait := some (w, r) } := rfl
@[simp] theorem State.keep_cv (s : State) (e : Nat) (f : Eff) :
    (s.keep e f).cv = if s.cv.noting then { s.cv with kept := (some (s.cv.noteAt.getD e), f) :: s.cv.kept } else s.cv := by
  unfold State.keep; split <;> rfl

/-! ## Threads: a write of a scalar register -/

@[simp] theorem Thread.setReg_uid (t : Thread) (d : Nat) (v : Word) : (t.setReg d v).uid = t.uid := by unfold Thread.setReg; split <;> rfl
@[simp] theorem Thread.setReg_core (t : Thread) (d : Nat) (v : Word) : (t.setReg d v).core = t.core := by unfold Thread.setReg; split <;> rfl
@[simp] theorem Thread.setReg_slot (t : Thread) (d : Nat) (v : Word) : (t.setReg d v).slot = t.slot := by unfold Thread.setReg; split <;> rfl
@[simp] theorem Thread.setReg_ctx (t : Thread) (d : Nat) (v : Word) : (t.setReg d v).ctx = t.ctx := by unfold Thread.setReg; split <;> rfl
@[simp] theorem Thread.setReg_launch (t : Thread) (d : Nat) (v : Word) : (t.setReg d v).launch = t.launch := by unfold Thread.setReg; split <;> rfl
@[simp] theorem Thread.setReg_gang (t : Thread) (d : Nat) (v : Word) : (t.setReg d v).gang = t.gang := by unfold Thread.setReg; split <;> rfl
@[simp] theorem Thread.setReg_index (t : Thread) (d : Nat) (v : Word) : (t.setReg d v).index = t.index := by unfold Thread.setReg; split <;> rfl
@[simp] theorem Thread.setReg_threadNo (t : Thread) (d : Nat) (v : Word) : (t.setReg d v).threadNo = t.threadNo := by unfold Thread.setReg; split <;> rfl
@[simp] theorem Thread.setReg_lcoreNo (t : Thread) (d : Nat) (v : Word) : (t.setReg d v).lcoreNo = t.lcoreNo := by unfold Thread.setReg; split <;> rfl
@[simp] theorem Thread.setReg_lgangNo (t : Thread) (d : Nat) (v : Word) : (t.setReg d v).lgangNo = t.lgangNo := by unfold Thread.setReg; split <;> rfl
@[simp] theorem Thread.setReg_lcountNo (t : Thread) (d : Nat) (v : Word) : (t.setReg d v).lcountNo = t.lcountNo := by unfold Thread.setReg; split <;> rfl
@[simp] theorem Thread.setReg_det (t : Thread) (d : Nat) (v : Word) : (t.setReg d v).det = t.det := by unfold Thread.setReg; split <;> rfl
@[simp] theorem Thread.setReg_pc (t : Thread) (d : Nat) (v : Word) : (t.setReg d v).pc = t.pc := by unfold Thread.setReg; split <;> rfl
@[simp] theorem Thread.setReg_vregs (t : Thread) (d : Nat) (v : Word) : (t.setReg d v).vregs = t.vregs := by unfold Thread.setReg; split <;> rfl
@[simp] theorem Thread.setReg_masks (t : Thread) (d : Nat) (v : Word) : (t.setReg d v).masks = t.masks := by unfold Thread.setReg; split <;> rfl
@[simp] theorem Thread.setReg_accs (t : Thread) (d : Nat) (v : Word) : (t.setReg d v).accs = t.accs := by unfold Thread.setReg; split <;> rfl
@[simp] theorem Thread.setReg_accCfg (t : Thread) (d : Nat) (v : Word) : (t.setReg d v).accCfg = t.accCfg := by unfold Thread.setReg; split <;> rfl
@[simp] theorem Thread.setReg_tree (t : Thread) (d : Nat) (v : Word) : (t.setReg d v).tree = t.tree := by unfold Thread.setReg; split <;> rfl
@[simp] theorem Thread.setReg_pins (t : Thread) (d : Nat) (v : Word) : (t.setReg d v).pins = t.pins := by unfold Thread.setReg; split <;> rfl
@[simp] theorem Thread.setReg_binds (t : Thread) (d : Nat) (v : Word) : (t.setReg d v).binds = t.binds := by unfold Thread.setReg; split <;> rfl
@[simp] theorem Thread.setReg_csr (t : Thread) (d : Nat) (v : Word) : (t.setReg d v).csr = t.csr := by unfold Thread.setReg; split <;> rfl
@[simp] theorem Thread.setReg_priv (t : Thread) (d : Nat) (v : Word) : (t.setReg d v).priv = t.priv := by unfold Thread.setReg; split <;> rfl
@[simp] theorem Thread.setReg_nregs (t : Thread) (d : Nat) (v : Word) : (t.setReg d v).nregs = t.nregs := by unfold Thread.setReg; split <;> rfl
@[simp] theorem Thread.setReg_naccs (t : Thread) (d : Nat) (v : Word) : (t.setReg d v).naccs = t.naccs := by unfold Thread.setReg; split <;> rfl
@[simp] theorem Thread.setReg_winBase (t : Thread) (d : Nat) (v : Word) : (t.setReg d v).winBase = t.winBase := by unfold Thread.setReg; split <;> rfl
@[simp] theorem Thread.setReg_winSize (t : Thread) (d : Nat) (v : Word) : (t.setReg d v).winSize = t.winSize := by unfold Thread.setReg; split <;> rfl
@[simp] theorem Thread.setReg_tokens (t : Thread) (d : Nat) (v : Word) : (t.setReg d v).tokens = t.tokens := by unfold Thread.setReg; split <;> rfl
@[simp] theorem Thread.setReg_parent (t : Thread) (d : Nat) (v : Word) : (t.setReg d v).parent = t.parent := by unfold Thread.setReg; split <;> rfl
@[simp] theorem Thread.setReg_join (t : Thread) (d : Nat) (v : Word) : (t.setReg d v).join = t.join := by unfold Thread.setReg; split <;> rfl
@[simp] theorem Thread.setReg_retired (t : Thread) (d : Nat) (v : Word) : (t.setReg d v).retired = t.retired := by unfold Thread.setReg; split <;> rfl
@[simp] theorem Thread.setReg_prio (t : Thread) (d : Nat) (v : Word) : (t.setReg d v).prio = t.prio := by unfold Thread.setReg; split <;> rfl
@[simp] theorem Thread.setReg_curPrio (t : Thread) (d : Nat) (v : Word) : (t.setReg d v).curPrio = t.curPrio := by unfold Thread.setReg; split <;> rfl
@[simp] theorem Thread.setReg_passed (t : Thread) (d : Nat) (v : Word) : (t.setReg d v).passed = t.passed := by unfold Thread.setReg; split <;> rfl
@[simp] theorem Thread.setReg_yieldTo (t : Thread) (d : Nat) (v : Word) : (t.setReg d v).yieldTo = t.yieldTo := by unfold Thread.setReg; split <;> rfl
@[simp] theorem Thread.setReg_govHeld (t : Thread) (d : Nat) (v : Word) : (t.setReg d v).govHeld = t.govHeld := by unfold Thread.setReg; split <;> rfl
@[simp] theorem Thread.setReg_run (t : Thread) (d : Nat) (v : Word) : (t.setReg d v).run = t.run := by unfold Thread.setReg; split <;> rfl
@[simp] theorem Thread.setReg_parked (t : Thread) (d : Nat) (v : Word) : (t.setReg d v).parked = t.parked := by unfold Thread.setReg; split <;> rfl
@[simp] theorem Thread.setReg_wait (t : Thread) (d : Nat) (v : Word) : (t.setReg d v).wait = t.wait := by unfold Thread.setReg; split <;> rfl
@[simp] theorem Thread.setReg_trap (t : Thread) (d : Nat) (v : Word) : (t.setReg d v).trap = t.trap := by unfold Thread.setReg; split <;> rfl
@[simp] theorem Thread.setReg_relStores (t : Thread) (d : Nat) (v : Word) : (t.setReg d v).relStores = t.relStores := by unfold Thread.setReg; split <;> rfl
@[simp] theorem Thread.setReg_parkAt (t : Thread) (d : Nat) (v : Word) : (t.setReg d v).parkAt = t.parkAt := by unfold Thread.setReg; split <;> rfl
@[simp] theorem Thread.setReg_needs (t : Thread) (d : Nat) (v : Word) : (t.setReg d v).needs = t.needs := by unfold Thread.setReg; split <;> rfl
@[simp] theorem Thread.setReg_landed (t : Thread) (d : Nat) (v : Word) : (t.setReg d v).landed = t.landed := by unfold Thread.setReg; split <;> rfl
@[simp] theorem Thread.setReg_saved (t : Thread) (d : Nat) (v : Word) : (t.setReg d v).saved = t.saved := by unfold Thread.setReg; split <;> rfl
@[simp] theorem Thread.setReg_held (t : Thread) (d : Nat) (v : Word) : (t.setReg d v).held = t.held := by unfold Thread.setReg; split <;> rfl
@[simp] theorem Thread.setReg_carried (t : Thread) (d : Nat) (v : Word) : (t.setReg d v).carried = t.carried := by unfold Thread.setReg; split <;> rfl

end Sys2Proof.Machine
end

