-- ==== Sys2Proof/Laws/Shared.lean ====
section
/-! SUPPORT. What each shared operation can do, said once: registers, faults and waits, transfers, traps, the checks of words, and
accesses of the scratchpad. -/

namespace Sys2Proof.Machine

open Sys2Proof

/-! ## Vectors and scalar registers -/

theorem vget_vput {α : Type} {n : Nat} (xs : Vector α n) (i j : Nat) (x d : α) (h : i < n) :
    vget (vput xs i x) j d = if j = i then x else vget xs j d := by
  unfold vget vput
  by_cases e : j = i
  · subst e; simp [h]
  · have e' : i ≠ j := fun q => e q.symm
    simp [e, e']

/-- Register 0 reads zero (R65). -/
@[simp] theorem Thread.reg_zero (t : Thread) : t.reg 0 = 0 := rfl

/-- A scalar register after a write: register 0 stays zero, the written one holds the value, the others are as before (R65). -/
theorem Thread.reg_setReg (t : Thread) (d r : Nat) (v : Word) (h : d < 32) :
    (t.setReg d v).reg r = if r = 0 then 0 else if r = d then v else t.reg r := by
  unfold Thread.setReg Thread.reg
  by_cases hr : r = 0
  · simp [hr]
  · by_cases hd : d = 0
    · subst hd; simp [hr]
    · simp only [hd, hr, if_false]
      rw [vget_vput _ _ _ _ _ h]

theorem State.reg_setReg (s : State) (d r : BitVec 5) (v : Word) :
    (s.setReg d v).reg r = if r = 0#5 then 0 else if r = d then v else s.reg r := by
  have h := Thread.reg_setReg s.th d.toNat r.toNat v d.isLt
  have e0 : (r.toNat = 0) ↔ r = 0#5 := by rw [← BitVec.toNat_inj]; simp
  have ed : (r.toNat = d.toNat) ↔ r = d := BitVec.toNat_inj
  simp only [e0, ed] at h
  exact h

/-- A write of a scalar register changes nothing but the registers. -/
theorem State.setReg_frame (s : State) (d : BitVec 5) (v : Word) :
    s.setReg d v = { s with th := { s.th with regs := (s.setReg d v).th.regs } } := by
  unfold State.setReg State.onTh Thread.setReg
  split <;> rfl

/-! ## Faults and waits -/

/-- Recording a fault changes nothing but the convoy record. -/
theorem State.raise_frame (s : State) (cause elem : Nat) (info : Word) : s.raise cause elem info = { s with cv := (s.raise cause elem info).cv } := by
  unfold State.raise
  split
  · split <;> rfl
  · rfl

/-- The first fault of a convoy is recorded with its element, word and detail (R395). -/
theorem State.raise_first (s : State) (cause elem : Nat) (info : Word) (h : s.cv.fault = none) :
    s.raise cause elem info = { s with cv := { s.cv with fault := some ⟨cause, elem, s.cv.word, info⟩, limit := some elem } } := by
  unfold State.raise
  rw [h]
  rfl

/-- After a fault a lower element's takes its place, and another is dropped (R395). -/
theorem State.raise_again (s : State) (cause elem : Nat) (info : Word) (f : FaultRec) (h : s.cv.fault = some f) :
    s.raise cause elem info =
      if elem < f.elem then { s with cv := { s.cv with fault := some ⟨cause, elem, s.cv.word, info⟩, limit := some elem } } else s := by
  unfold State.raise
  rw [h]
  rfl

/-- A word with neither a fault nor a wait before it goes on. -/
theorem State.goes_of_settled (s : State) (hw : s.cv.wait = none) (hf : s.cv.fault = none) : s.goes = true := by
  unfold State.goes
  rw [hw, hf]
  rfl

/-- A fault counted at vstart stops the word. -/
theorem State.goes_raiseHere (s : State) (cause : Nat) (info : Word) (h : s.cv.fault = none) : (s.raiseHere cause info).goes = false := by
  unfold State.raiseHere
  rw [State.raise_first s _ _ _ h]
  unfold State.goes
  simp

/-! ## Control transfers (R22, R78) -/

/-- A transfer goes to its target, or faults: misaligned first, then not canonical or in the scratchpad range. -/
theorem State.transfer_cases (s : State) (x : Word) :
    (x.toNat % 16 ≠ 0 ∧ s.transfer x = s.raiseHere 0x03 (addrInfo x 3)) ∨
    (x.toNat % 16 = 0 ∧ (canonical x = false ∨ isScratchAddr x = true) ∧ s.transfer x = s.raiseHere 0x06 (addrInfo x 3)) ∨
    (x.toNat % 16 = 0 ∧ canonical x = true ∧ isScratchAddr x = false ∧ s.transfer x = { s with cv := { s.cv with next := some x } }) := by
  unfold State.transfer
  by_cases h : x.toNat % 16 = 0
  · by_cases c : canonical x = true
    · by_cases q : isScratchAddr x = true
      · simp [h, c, q]
      · have q' : isScratchAddr x = false := by simpa using q
        simp [h, c, q', State.onCv]
    · have c' : canonical x = false := by simpa using c
      simp [h, c']
  · simp [h]

/-- Addresses below 2^56 and in the topmost 2^56 are canonical, and none of them is a scratchpad address (R15). -/
theorem canonical_iff (x : Word) : canonical x = true ↔ x.toNat < 2 ^ 56 ∨ 2 ^ 64 - 2 ^ 56 ≤ x.toNat := by
  have := x.isLt
  unfold canonical
  simp only [Bool.or_eq_true, decide_eq_true_eq]
  omega

theorem isScratchAddr_iff (x : Word) : isScratchAddr x = true ↔ x.toNat / 2 ^ 57 = 64 := by
  unfold isScratchAddr
  simp

/-! ## Privilege and scopes -/

theorem State.needPrivilege_of (s : State) (h : s.privileged = true) : s.needPrivilege = s := by
  unfold State.needPrivilege
  rw [h]
  rfl

theorem State.needPrivilege_user (s : State) (h : s.privileged = false) : s.needPrivilege = s.raiseHere 0x02 (illegalInfo s.cv.raw 0 0 0) := by
  unfold State.needPrivilege
  rw [h]
  rfl

/-- A fresh scope index passes the check of R291. -/
theorem State.checkScope_fresh (s : State) (i : Nat) (h : s.th.pin i = (s.scopeOf s.th i).serial) : s.checkScope i = s := by
  unfold State.checkScope
  simp [h]

/-- A release at a cluster-local scope does nothing (R268). -/
theorem State.release_local (s : State) (i : Nat) (h : s.clusterLocal s.th i = true) : s.release i = s := by
  have h' : (s.scopeOf s.th i).clusterLocal s.th = true := h
  unfold State.release State.releaseAt
  rw [if_pos h']

/-- An acquire at a cluster-local scope does nothing (R269). -/
theorem State.acquire_local (s : State) (i : Nat) (h : s.clusterLocal s.th i = true) : s.acquire i = s := by
  have h' : (s.scopeOf s.th i).clusterLocal s.th = true := h
  unfold State.acquire State.acquireAt
  rw [if_pos h']

/-! ## Taking an exception (R85, R392, R394) -/

/-- A trap goes to the user handler, stops a compute-core thread, enters a control core's handler, or stops that core for good. -/
theorem State.takeTrap_cases (s : State) (epc : Word) (f : FaultRec) :
    (userDeliverable f.cause = true ∧ s.th.csr.uth ≠ 0 ∧ s.th.csr.ustat.getLsbD 2 = false ∧
      s.takeTrap epc f = { s with th := s.th.userTrap epc f }) ∨
    (isControl s.th.core = true ∧ s.th.priv.sstatus.getLsbD 2 = false ∧ s.takeTrap epc f = { s with th := s.th.controlTrap epc f }) ∨
    (isControl s.th.core = true ∧ s.th.priv.sstatus.getLsbD 2 = true ∧
      s.takeTrap epc f = ({ s with th := { s.th with run := .halted } }).blackBox 8 0x09 (s.asidOf s.th) (stopDetail epc f.cause)) ∨
    (isControl s.th.core = false ∧ s.takeTrap epc f = { s with th := s.th.stopTrap epc f, ringWait := s.ringWait ++ [s.th.uid] }) := by
  unfold State.takeTrap
  by_cases u : (userDeliverable f.cause && s.th.csr.uth ≠ 0 && !s.th.csr.ustat.getLsbD 2) = true
  · left
    have u' := u
    simp only [Bool.and_eq_true, decide_eq_true_eq, Bool.not_eq_true'] at u'
    simp only [u, if_true]
    exact ⟨u'.1.1, u'.1.2, u'.2, rfl⟩
  · right
    by_cases c : isControl s.th.core = true
    · by_cases b : s.th.priv.sstatus.getLsbD 2 = true
      · right; left
        refine ⟨c, b, ?_⟩
        rw [if_neg u, if_pos c, if_pos b]
        rfl
      · left
        refine ⟨c, Bool.eq_false_iff.mpr b, ?_⟩
        rw [if_neg u, if_pos c, if_neg b]
        rfl
    · right; right
      refine ⟨Bool.eq_false_iff.mpr c, ?_⟩
      rw [if_neg u, if_neg c]
      rfl

/-! ## The checks of vector words (R62, R63) -/

/-- A word whose groups are aligned, allocated and free of the sub-code 7 conditions passes its checks. -/
theorem State.checkWord_ok (s : State) (gs : List Grp) (masks : List Nat) (bad : Bool)
    (ha : ∀ g ∈ gs, g.reg % g.align = 0) (hb : bad = false) (hc : ∀ g ∈ gs, s.badChunk g = false ∧ s.badBound g = false)
    (hw : s.breaksWhole gs masks = false) (hr : ∀ g ∈ gs, ∀ r ∈ g.list, r < s.th.nregs) : s.checkWord gs masks bad = s := by
  unfold State.checkWord
  have h1 : gs.find? (fun g => g.reg % g.align ≠ 0) = none := by
    rw [List.find?_eq_none]; intro g hg; simp [ha g hg]
  have h2 : gs.any s.badChunk = false := by
    rw [List.any_eq_false]; intro g hg; simp [(hc g hg).1]
  have h3 : gs.any s.badBound = false := by
    rw [List.any_eq_false]; intro g hg; simp [(hc g hg).2]
  have h4 : (gs.flatMap Grp.list).find? (fun r => s.th.nregs ≤ r) = none := by
    rw [List.find?_eq_none]
    intro r hrr
    rw [List.mem_flatMap] at hrr
    obtain ⟨g, hg, hgr⟩ := hrr
    have := hr g hg r hgr
    simp; omega
  rw [h1]
  simp only [hb, h2, h3, hw, h4, Bool.or_false]
  rfl

/-- The checks change nothing but the convoy record. -/
theorem State.checkWord_frame (s : State) (gs : List Grp) (masks : List Nat) (bad : Bool) :
    s.checkWord gs masks bad = { s with cv := (s.checkWord gs masks bad).cv } := by
  unfold State.checkWord
  split
  · exact State.raise_frame _ _ _ _
  · split
    · exact State.raise_frame _ _ _ _
    · split
      · exact State.raise_frame _ _ _ _
      · rfl

/-! ## Scratchpad accesses (R15, R72, R366) -/

/-- An address of the scratchpad range that names bytes of a window leads to them. -/
theorem scratchPlace_in (core base size : Nat) (va : Word) (n kind : Nat) (h : va.toNat / 2 ^ 17 = 2 ^ 46) (hl : base ≤ va.toNat % 2 ^ 17)
    (hh : va.toNat % 2 ^ 17 + n ≤ base + size) : scratchPlace core base size va n kind = .at_ (.scratch core (va.toNat % 2 ^ 17)) 4 := by
  unfold scratchPlace inWindow
  have h1 : va.toNat / 2 ^ 17 % 2 ^ 40 = 0 := by omega
  simp only [h1, hl, hh, decide_true, Bool.and_true, if_true]

theorem isScratchAddr_of (va : Word) (h : va.toNat / 2 ^ 17 = 2 ^ 46) : isScratchAddr va = true := by
  rw [isScratchAddr_iff]
  omega

/-- A load of the current thread's window that meets no damage gives its bytes and changes nothing. -/
theorem State.load_scratch (s : State) (va : Word) (n cls elem : Nat) (scalar : Bool) (h : va.toNat / 2 ^ 17 = 2 ^ 46)
    (hl : s.th.winBase ≤ va.toNat % 2 ^ 17) (hh : va.toNat % 2 ^ 17 + n ≤ s.th.winBase + s.winBytes)
    (hd : s.damage.contains (.scratch s.th.core (va.toNat % 2 ^ 17 / 8)) = false) :
    s.load va n cls elem scalar = (some (cellsReadNat s.scratch (s.th.core * 131072 + va.toNat % 2 ^ 17) n), s) := by
  unfold State.load State.resolve
  rw [isScratchAddr_of va h]
  simp only [if_true, scratchPlace_in _ _ _ va n 0 h hl hh, State.damageAt, hd]
  rfl

/-- Where no fence covers a class, its stores have nothing cleaned ahead of them (R259). -/
theorem State.releaseFences_none (s : State) (cls : Option Nat) (va : Word) (kind elem : Nat) (hf : s.th.fencesOn cls = []) :
    s.releaseFences cls va kind elem = s := by
  unfold State.releaseFences
  rw [hf]
  rfl

/-- A store to the current thread's window that no fence covers writes its bytes, notes the effect and repairs what it covers whole. -/
theorem State.store_scratch (s : State) (va : Word) (n : Nat) (val mask : BitVec 64) (cls elem : Nat) (scalar : Bool) (h : va.toNat / 2 ^ 17 = 2 ^ 46)
    (hl : s.th.winBase ≤ va.toNat % 2 ^ 17) (hh : va.toNat % 2 ^ 17 + n ≤ s.th.winBase + s.winBytes)
    (hf : s.th.fencesOn (some cls) = []) (hs : s.stopsAt elem = false) :
    s.store va n val mask cls elem scalar =
      (s.writeAt (.scratch s.th.core (va.toNat % 2 ^ 17)) val.toNat mask.toNat n).keep elem
        (.store (.scratch s.th.core (va.toNat % 2 ^ 17)) val mask n none) := by
  unfold State.store State.resolve
  rw [isScratchAddr_of va h]
  simp only [if_true, scratchPlace_in _ _ _ va n 1 h hl hh, State.releaseFences_none _ _ _ _ _ hf, hs, Bool.false_eq_true, if_false]
  rfl

/-- What a store to the scratchpad leaves: its bytes, and the doublewords that it covers whole sound (R417). -/
theorem State.writeAt_scratch (s : State) (core off v mask n : Nat) :
    s.writeAt (.scratch core off) v mask n =
      { s with scratch := cellsMerge s.scratch (core * 131072 + off) v mask n }.mendScratch core off n mask := rfl

/-- Making scratchpad doublewords sound changes the damage alone. -/
theorem State.mendScratch_frame (s : State) (core off n mask : Nat) :
    s.mendScratch core off n mask = { s with damage := (s.mendScratch core off n mask).damage } := by
  unfold State.mendScratch
  split <;> rfl

/-- A note for a faulting convoy changes the notes alone. -/
theorem State.keep_frame (s : State) (e : Nat) (f : Eff) : s.keep e f = { s with cv := { s.cv with kept := (s.keep e f).cv.kept } } := by
  unfold State.keep
  split <;> rfl

/-- Doublewords stored one after another to the current thread's window, where no fence covers them, all go through. -/
theorem State.storeDwords_goes (ws : List Word) : ∀ (s : State) (va : Word) (o : Nat), va.toNat = 2 ^ 63 + o → s.th.winBase ≤ o →
    o + 8 * ws.length ≤ s.th.winBase + s.winBytes → o + 8 * ws.length ≤ 2 ^ 17 → s.th.fencesOn (some 0) = [] →
    s.stopsAt s.cv.vstart0 = false → s.goes = true → (s.storeDwords va ws).goes = true := by
  induction ws with
  | nil => intro s va o _ _ _ _ _ _ hg; exact hg
  | cons w rest ih =>
    intro s va o hv hb hw hp hf hs hg
    simp only [List.length_cons] at hw hp
    have ho : va.toNat % 2 ^ 17 = o := by omega
    have hst := s.store_scratch va 8 w (fullMask 8) 0 s.cv.vstart0 false (by omega) (by omega) (by omega) hf hs
    unfold State.storeDwords
    simp only [hst]
    rw [State.writeAt_scratch, State.mendScratch_frame, State.keep_frame]
    exact (if_pos (c := _ = true) hg).symm ▸ ih _ (va + 8) (o + 8)
      (by rw [BitVec.toNat_add, hv, show (8 : Word).toNat = 8 from rfl]; omega) (Nat.le_trans hb (Nat.le_add_right o 8))
      (by show o + 8 + 8 * rest.length ≤ s.th.winBase + s.winBytes; omega) (by omega) hf hs hg

/-! ## Vector elements (R111) -/

/-- A vector register's field after a write of the field or of a disjoint one. -/
theorem Thread.vregs_putBits (t : Thread) (r bit width val q : Nat) (h : r < 32) :
    vget (t.putBits r bit width val).vregs q 0 =
      if q = r then (vget t.vregs r 0 &&& ~~~fieldMask bit width) ||| (BitVec.ofNat 32768 (val % 2 ^ width) <<< bit) else vget t.vregs q 0 := by
  unfold Thread.putBits
  exact vget_vput _ _ _ _ _ h

theorem fieldMask_bit (bit width i : Nat) (hi : i < 32768) (hw : width ≤ 32768) :
    (fieldMask bit width).getLsbD i = decide (bit ≤ i ∧ i < bit + width) := by
  unfold fieldMask
  rw [BitVec.getLsbD_shiftLeft]
  by_cases h : i < bit
  · have h1 : ¬ (bit ≤ i ∧ i < bit + width) := by omega
    rw [decide_eq_false h1, decide_eq_true h, Bool.not_true, Bool.and_false, Bool.false_and]
  · simp only [hi, h, decide_true, decide_false, Bool.not_false, Bool.and_true, Bool.true_and]
    rw [BitVec.getLsbD_ofNat]
    rw [Nat.testBit_two_pow_sub_one]
    by_cases h2 : i - bit < width
    · have : i - bit < 32768 := by omega
      simp [h2, this]; omega
    · simp [h2]; omega

/-- Bit `i` of a register row after a field of it is written. -/
theorem bit_putField (old : BitVec 32768) (bit width val i : Nat) (hi : i < 32768) (hw : width ≤ 32768) :
    ((old &&& ~~~fieldMask bit width) ||| (BitVec.ofNat 32768 (val % 2 ^ width) <<< bit)).getLsbD i =
      if bit ≤ i ∧ i < bit + width then val.testBit (i - bit) else old.getLsbD i := by
  rw [BitVec.getLsbD_or, BitVec.getLsbD_and, BitVec.getLsbD_not, fieldMask_bit bit width i hi hw, BitVec.getLsbD_shiftLeft,
    BitVec.getLsbD_ofNat, Nat.testBit_mod_two_pow]
  by_cases h : bit ≤ i ∧ i < bit + width
  · have h1 : ¬ i < bit := by omega
    have h2 : i - bit < width := by omega
    have h3 : i - bit < 32768 := by omega
    simp [h, hi, h1, h2, h3]
  · by_cases h1 : i < bit
    · simp [h, hi, h1]
    · have h2 : ¬ i - bit < width := by omega
      simp [h, hi, h1, h2]

end Sys2Proof.Machine
end

