-- ==== Sys2Proof/Laws/Canonical.lean ====
section
/-! SUPPORT. Every operation that writes memory or a scratchpad keeps the canonical form of both, and reset has it (log 6). -/

namespace Sys2Proof.Machine

open Sys2Proof

/-- Nothing but what stands beside the byte stores differs. -/
theorem State.MemWf.of_eq {s t : State} (h : s.MemWf) (hm : t.mem = s.mem) (hs : t.scratch = s.scratch) : t.MemWf := by
  unfold State.MemWf at *
  rw [hm, hs]
  exact h

theorem State.MemWf.reset : State.reset.MemWf := ⟨rfl, rfl⟩

/-- A fold over operations that each keep the form keeps it. -/
theorem State.MemWf.foldl {α : Type} (l : List α) (f : State → α → State) (hf : ∀ s a, s.MemWf → (f s a).MemWf) (s : State) (h : s.MemWf) :
    (l.foldl f s).MemWf := by
  induction l generalizing s with
  | nil => exact h
  | cons a t ih => exact ih _ (hf s a h)

/-! ## Homes -/

theorem State.MemWf.homeWrite {s : State} (h : s.MemWf) (a v mask n : Nat) : (s.homeWrite a v mask n).MemWf :=
  ⟨Memory.wf_merge _ _ _ _ _ h.1, h.2⟩

theorem State.MemWf.orPte {s : State} (h : s.MemWf) (a : Nat) (b : Word) : (s.orPte a b).MemWf := by
  unfold State.orPte
  split
  · exact h
  · exact h.homeWrite _ _ _ _

/-! ## What the home does beside its memory writes no byte -/

/-- Memory and scratchpads are the same. -/
def State.SameBytes (s t : State) : Prop := t.mem = s.mem ∧ t.scratch = s.scratch

theorem State.SameBytes.rfl {s : State} : s.SameBytes s := ⟨Eq.refl _, Eq.refl _⟩

theorem State.SameBytes.trans {s t u : State} (h : s.SameBytes t) (q : t.SameBytes u) : s.SameBytes u :=
  ⟨q.1.trans h.1, q.2.trans h.2⟩

theorem State.SameBytes.wf {s t : State} (q : s.SameBytes t) (h : s.MemWf) : t.MemWf := h.of_eq q.1 q.2

/-- A fold over operations that each write no byte writes none. -/
theorem State.SameBytes.foldl {α : Type} (l : List α) (f : State → α → State) (hf : ∀ (s : State) (a : α), s.SameBytes (f s a)) (s : State) :
    s.SameBytes (l.foldl f s) := by
  induction l generalizing s with
  | nil => exact .rfl
  | cons a t ih => exact (hf s a).trans (ih _)

theorem State.blackBox_same (s : State) (d code : Nat) (asid : BitVec 16) (x : Word) : s.SameBytes (s.blackBox d code asid x) := by
  unfold State.blackBox State.copyRings
  dsimp only
  repeat' split
  all_goals exact ⟨Eq.refl _, Eq.refl _⟩

theorem State.loseLine_same (s : State) (n : Nat) : s.SameBytes (s.loseLine n) := by
  unfold State.loseLine
  dsimp only
  split
  · split <;> exact ⟨Eq.refl _, Eq.refl _⟩
  · split
    · exact .rfl
    · split
      · exact State.SameBytes.trans ⟨Eq.refl _, Eq.refl _⟩ (State.blackBox_same _ _ _ _ _)
      · exact ((State.blackBox_same _ _ _ _ _).trans (State.blackBox_same _ _ _ _ _)).trans ⟨Eq.refl _, Eq.refl _⟩

theorem State.countCorrected_same (d n : Nat) : ∀ s : State, s.SameBytes (s.countCorrected d n) := by
  induction n with
  | zero => exact fun _ => .rfl
  | succ n ih =>
    intro s
    unfold State.countCorrected
    dsimp only
    refine State.SameBytes.trans ?_ (ih _)
    split
    · exact State.SameBytes.trans ⟨Eq.refl _, Eq.refl _⟩ (State.blackBox_same _ _ _ _ _)
    · exact ⟨Eq.refl _, Eq.refl _⟩

theorem State.correctLine_same (s : State) (n : Nat) : s.SameBytes (s.correctLine n) := by
  unfold State.correctLine
  split
  · dsimp only
    split
    · exact State.SameBytes.trans ⟨Eq.refl _, Eq.refl _⟩ (State.countCorrected_same _ _ _)
    · exact ⟨Eq.refl _, Eq.refl _⟩
  · exact .rfl

theorem State.homeMeta_same (s : State) (n : Nat) : s.SameBytes (s.homeMeta n).2 := by
  unfold State.homeMeta
  dsimp only
  split
  · exact (State.correctLine_same s n).trans (State.loseLine_same _ _)
  · exact State.correctLine_same s n

theorem State.caddyFill_same (s : State) (g a : Nat) : s.SameBytes (s.caddyFill g a) := by
  unfold State.caddyFill
  split <;> exact ⟨Eq.refl _, Eq.refl _⟩

theorem State.dropCopy_same (s : State) (n a : Nat) : s.SameBytes (s.dropCopy n a) := by
  unfold State.dropCopy
  dsimp only
  split <;> exact ⟨Eq.refl _, Eq.refl _⟩

theorem State.putMeta_same (s : State) (n : Nat) (x : Meta) : s.SameBytes (s.putMeta n x) := by
  unfold State.putMeta
  exact ⟨Eq.refl s.mem, Eq.refl s.scratch⟩

theorem State.dropOthers_same (s : State) (n : Nat) (a : Option Nat) : s.SameBytes (s.dropOthers n a) :=
  State.SameBytes.foldl _ _ (fun s b => s.dropCopy_same n b) s

theorem State.evictCopy_same (s : State) (n g : Nat) : s.SameBytes (s.evictCopy n g) := by
  have hl : s.SameBytes (if s.ownsBad n g then s.loseLine n else s) := by
    split
    · exact s.loseLine_same n
    · exact .rfl
  unfold State.evictCopy
  generalize (if s.ownLine n then Meta.ofBits (s.metaBits n) else none) = m
  cases m with
  | none => exact s.dropCopy_same n g
  | some x =>
    dsimp only
    split
    · exact (hl.trans (State.dropCopy_same _ n g)).trans (State.putMeta_same _ _ _)
    · split
      · exact (s.dropCopy_same n g).trans (State.putMeta_same _ _ _)
      · exact s.dropCopy_same n g

theorem State.giveCopy_same (s : State) (a g : Nat) : s.SameBytes (s.giveCopy a g) := by
  unfold State.giveCopy
  split
  · exact .rfl
  · dsimp only
    split
    · exact ⟨Eq.refl _, Eq.refl _⟩
    · cases (s.copies.filter (·.2 == g)).getLast? with
      | none => exact ⟨Eq.refl _, Eq.refl _⟩
      | some c => exact (s.evictCopy_same (c.1 / 4) g).trans ⟨Eq.refl _, Eq.refl _⟩

theorem State.grant_same (s : State) (a g : Nat) : s.SameBytes (s.grant a g) :=
  (s.giveCopy_same a g).trans (State.caddyFill_same _ _ _)

theorem State.sharedRead_same (s : State) (g : Option Nat) (a : Nat) : s.SameBytes (s.sharedRead g a) := by
  have hm := State.homeMeta_same s (a / 128)
  have hc := State.correctLine_same s (a / 128)
  unfold State.sharedRead
  dsimp only
  split
  · split
    · exact .rfl
    · split
      · split
        · next e => rw [e] at hm; exact hm
        · next e =>
          rw [e] at hm
          exact (hm.trans (State.putMeta_same _ _ _)).trans (State.grant_same _ _ _)
      · split
        · exact hc
        · exact hc.trans (State.grant_same _ _ _)
  · split
    · split
      · next e => rw [e] at hm; exact hm
      · next e => rw [e] at hm; exact hm.trans (State.putMeta_same _ _ _)
    · exact hc

theorem State.ownRead_same (s : State) (g : Option Nat) (a : Nat) : s.SameBytes (s.ownRead g a) := by
  have hm := State.homeMeta_same s (a / 128)
  have hc := State.correctLine_same s (a / 128)
  unfold State.ownRead
  dsimp only
  split
  · split
    · next e => rw [e] at hm; exact hm
    · next x t e =>
      rw [e] at hm
      have hn : ∀ u : State, u.SameBytes (if x.multicasts then u.onDie (homeDie (a % 2 ^ 43)) (fun d => { d with multicast := d.multicast + 1 }) else u) := by
        intro u
        split <;> exact ⟨Eq.refl _, Eq.refl _⟩
      have hd := (hm.trans (State.dropOthers_same t (a / 128) g)).trans (hn _)
      cases g with
      | some g => exact (hd.trans (State.giveCopy_same _ _ _)).trans (State.putMeta_same _ _ _)
      | none => exact hd.trans (State.putMeta_same _ _ _)
  · split
    · exact hc
    · cases g with
      | some g => exact (hc.trans (State.dropOthers_same _ _ _)).trans (State.giveCopy_same _ _ _)
      | none => exact hc.trans (State.dropOthers_same _ _ _)

theorem State.MemWf.storeHome {s : State} (h : s.MemWf) (g : Option Nat) (a v mask n : Nat) : (s.storeHome g a v mask n).MemWf := by
  unfold State.storeHome
  dsimp only
  split
  · exact (State.ownRead_same s g a).wf h
  · exact ((State.ownRead_same s g a).wf h).homeWrite _ _ _ _

/-! ## Cluster caches -/

theorem State.MemWf.dropSector {s : State} (h : s.MemWf) (x : Sector) : (s.dropSector x).MemWf := h

theorem State.MemWf.putSector {s : State} (h : s.MemWf) (x : Sector) : (s.putSector x).MemWf := h

theorem State.MemWf.keepClean {s : State} (h : s.MemWf) (x : Sector) : (s.keepClean x).MemWf := h

theorem State.MemWf.cleanSector {s : State} (h : s.MemWf) (x : Sector) : (s.cleanSector x).MemWf := by
  unfold State.cleanSector
  split
  · exact h
  · split
    · exact ((State.loseLine_same s _).wf h).dropSector x
    · split
      · exact ((State.loseLine_same s _).wf h).dropSector x
      · exact (h.storeHome _ _ _ _ _).keepClean x

theorem State.MemWf.cleanWhere {s : State} (h : s.MemWf) (p : Sector → Bool) : (s.cleanWhere p).MemWf :=
  State.MemWf.foldl (s.sectors.filter p) State.cleanSector (fun _ a q => q.cleanSector a) s h

theorem State.MemWf.evictSector {s : State} (h : s.MemWf) (cl a : Nat) : (s.evictSector cl a).MemWf := by
  unfold State.evictSector
  split
  · dsimp only
    repeat' split
    all_goals first | exact (h.cleanSector _).dropSector _ | exact h.cleanSector _
  · exact h

theorem State.MemWf.recallRange {s : State} (h : s.MemWf) (lo n : Nat) : (s.recallRange lo n).MemWf :=
  State.MemWf.foldl _ State.dropSector (fun _ a q => q.dropSector a) _ (h.cleanWhere _)

theorem State.MemWf.recallCopies {s : State} (h : s.MemWf) (lo n : Nat) : (s.recallCopies lo n).MemWf := by
  unfold State.recallCopies
  dsimp only
  refine State.SameBytes.wf (State.SameBytes.trans (State.SameBytes.trans (State.SameBytes.foldl _ _ ?_ s)
    (State.SameBytes.foldl _ _ (fun (s : State) (c : Nat × Nat) => s.dropCopy_same (c.1 / 4) c.2) _)) ⟨Eq.refl _, Eq.refl _⟩) h
  intro u line
  split
  · exact u.loseLine_same line
  · exact .rfl

theorem State.MemWf.recall {s : State} (h : s.MemWf) (lo n : Nat) : (s.recall lo n).MemWf :=
  State.MemWf.of_eq (State.MemWf.recallCopies (State.MemWf.recallRange h lo n) lo n) (Eq.refl _) (Eq.refl _)

theorem State.MemWf.makeRoom {s : State} (h : s.MemWf) (cl a : Nat) : (s.makeRoom cl a).MemWf := by
  unfold State.makeRoom
  repeat' split
  all_goals exact h

theorem State.MemWf.clusterWrite {s : State} (h : s.MemWf) (cl a v mask n : Nat) : (s.clusterWrite cl a v mask n).MemWf := by
  unfold State.clusterWrite
  dsimp only
  apply State.MemWf.of_eq _ (State.clusterPut_mem _ _ _ _ _ _) (State.clusterPut_scratch _ _ _ _ _ _)
  split
  · exact h
  · apply State.MemWf.makeRoom
    split
    · exact h.cleanSector _
    · exact h

theorem State.MemWf.storeThrough {s : State} (h : s.MemWf) (cl a v mask n : Nat) : (s.storeThrough cl a v mask n).MemWf := by
  unfold State.storeThrough
  dsimp only
  repeat' split
  all_goals exact h.storeHome _ _ _ _ _

theorem State.MemWf.refresh {s : State} (h : s.MemWf) (cl a n : Nat) : (s.refresh cl a n).MemWf := by
  unfold State.refresh
  split <;> exact h

/-! ## Accesses -/

theorem State.mendScratch_same (s : State) (core off n mask : Nat) : s.SameBytes (s.mendScratch core off n mask) := by
  unfold State.mendScratch
  split <;> exact ⟨Eq.refl _, Eq.refl _⟩

theorem State.MemWf.writeAt {s : State} (h : s.MemWf) (t : Target) (v mask n : Nat) : (s.writeAt t v mask n).MemWf := by
  cases t with
  | scratch core off => exact (State.mendScratch_same _ _ _ _ _).wf ⟨h.1, Memory.wf_merge _ _ _ _ _ h.2⟩
  | cluster cl a => exact h.clusterWrite _ _ _ _ _
  | home a => exact h.homeWrite _ _ _ _
  | through cl a => exact h.storeThrough _ _ _ _ _
  | device off => exact h
  | window port off => exact h

theorem State.MemWf.performStore {s : State} (h : s.MemWf) (t : Target) (v m : BitVec 64) (n : Nat) (rank : Option (Nat × Nat)) :
    (s.performStore t v m n rank).MemWf := by
  unfold State.performStore
  split
  · apply State.MemWf.foldl _ _ _ _ h
    intro s w q
    dsimp only
    split
    · exact q
    · split
      · apply State.MemWf.writeAt
        exact q
      · exact q.refresh _ _ _
      · exact q
  · exact h
  · exact h.writeAt _ _ _ _

/-! ## Scratchpads -/

theorem State.MemWf.zeroScratch {s : State} (h : s.MemWf) (core off n : Nat) : (s.zeroScratch core off n).MemWf :=
  ⟨h.1, Memory.wf_filter _ _ h.2⟩

theorem State.MemWf.loseSlices {s : State} (h : s.MemWf) (core old new : Nat) : (s.loseSlices core old new).MemWf :=
  ⟨h.1, Memory.wf_foldl (α := Host.Cell) _ (fun c => c.1) (fun c => c.2) _ (Memory.wf_filter _ _ h.2)⟩

/-- A list of cells written into the scratchpads from a place on. -/
theorem State.MemWf.fillScratch {s : State} (h : s.MemWf) (base : Nat) (cells : List Host.Cell) :
    ({ s with scratch := cells.foldl (fun m (c : Host.Cell) => cellsWrite m (base + c.1) c.2) s.scratch }).MemWf :=
  ⟨h.1, Memory.wf_foldl cells (fun c => base + c.1) (fun c => c.2) _ h.2⟩

theorem State.MemWf.putPage {s : State} (h : s.MemWf) (frame n : Nat) (cells : List Host.Cell) : (s.putPage frame n cells).MemWf :=
  ⟨Memory.wf_foldl cells (fun c => frame + c.1) (fun c => c.2) _ (Memory.wf_filter _ _ h.1), h.2⟩

theorem State.MemWf.writeImage {s : State} (h : s.MemWf) (t : Thread) (skip : Nat → Bool) : (s.writeImage t skip).MemWf := by
  unfold State.writeImage
  split
  · next a _ =>
    dsimp only
    generalize (s.imageCells t).filter (fun c => !skip c.1) = cells
    exact ⟨Memory.wf_foldl cells (fun c => a + c.1) (fun c => c.2) _ (Memory.wf_filter _ _ h.1), h.2⟩
  · exact h

theorem State.MemWf.putImage {s : State} (h : s.MemWf) (uid : Nat) (v : ImageView) : (s.putImage uid v).MemWf := by
  unfold State.putImage
  split
  · exact h
  · dsimp only
    split
    · apply State.MemWf.writeImage
      exact h
    · apply State.MemWf.of_eq (State.MemWf.fillScratch (State.MemWf.zeroScratch h _ _ _) _ _)
      · rfl
      · rfl

theorem State.MemWf.resumeGang {s : State} (h : s.MemWf) (l : Launch) (g : Gang) (cl : Nat) (spots : List Spot)
    (open_ : ∀ u : State, u.MemWf → (u.openGang cl spots).MemWf) : (s.resumeGang l g cl spots).MemWf := by
  unfold State.resumeGang
  dsimp only
  apply State.MemWf.foldl
  · intro s t q
    split
    · exact q
    · exact State.MemWf.fillScratch (q.zeroScratch _ _ _) _ _
  · exact open_ _ h

/-! ## Pages and identities -/

theorem State.MemWf.setIdent {s : State} (h : s.MemWf) (v : Word) : (s.setIdent v).MemWf := by
  unfold State.setIdent
  dsimp only
  split
  · exact h
  · exact ⟨Memory.wf_foldl s.mem (fun c => swapIdent s.ident (v.toNat % 8192) c.1) (fun c => c.2) _ rfl, h.2⟩

theorem State.discardAll_mem (s : State) : s.discardAll.mem = (s.setIdent 0).mem := rfl

theorem State.discardAll_scratch (s : State) : s.discardAll.scratch = [] := rfl

theorem State.MemWf.discardAll {s : State} (h : s.MemWf) : s.discardAll.MemWf := by
  unfold State.MemWf
  rw [State.discardAll_mem, State.discardAll_scratch]
  exact ⟨(h.setIdent 0).1, Memory.wf_nil⟩

/-- A firmware body written into memory. -/
theorem State.MemWf.placeBody {s : State} (h : s.MemWf) (stage : Nat) (im : List Byte) : (s.placeBody stage im).MemWf :=
  ⟨Memory.wf_foldl (im.drop 1664).zipIdx (fun x => s.deviceBase + Config.stagePlace stage % 2 ^ 39 + x.2) (fun x => x.1) _ h.1, h.2⟩

/-! ## Placing a convoy -/

theorem State.MemWf.placeWord {s : State} (h : s.MemWf) (w : Nat) : (s.placeWord w).MemWf := by
  unfold State.placeWord
  constructor
  · simp only [State.onTh_mem, State.homeWrite_mem]
    repeat apply Memory.wf_merge
    exact h.1
  · simp only [State.onTh_scratch, State.homeWrite_scratch]
    exact h.2

end Sys2Proof.Machine
end

