-- ==== Sys2Proof/Laws/Encoding.lean ====
section
/-! SUPPORT. Fields of appended words, and must-be-zero masks by their fields (R29, R31). -/

set_option linter.unusedSimpArgs false

namespace Sys2Proof.Laws

/-- A field above the last appended part lies in what stands before it. -/
theorem field_high {m k n lo : Nat} (x : BitVec m) (y : BitVec k) (h : k ≤ lo) :
    (x ++ y).extractLsb' lo n = x.extractLsb' (lo - k) n := BitVec.extractLsb'_append_eq_of_le h

/-- A field inside the last appended part is a field of that part. -/
theorem field_low {m k n lo : Nat} (x : BitVec m) (y : BitVec k) (h : lo + n ≤ k) :
    (x ++ y).extractLsb' lo n = y.extractLsb' lo n := BitVec.extractLsb'_append_eq_of_add_le h

/-- The five lowest bits where a single bit is appended last (the width bit of an atomic). -/
theorem field_cross {m : Nat} (x : BitVec m) (y : BitVec 1) : (x ++ y).extractLsb' 0 5 = x.extractLsb' 0 4 ++ y := by
  apply BitVec.eq_of_getLsbD_eq
  intro i hi
  simp only [BitVec.getLsbD_extractLsb', BitVec.getLsbD_append]
  have : i = 0 ∨ 1 ≤ i := by omega
  rcases this with rfl | h
  · simp
  · have e : ¬ i < 1 := by omega
    have h2 : i - 1 < 4 := by omega
    simp [e, h2, hi]

/-- A single bit is 0 or 1. -/
theorem bit_cases (w : BitVec 1) : w = 0#1 ∨ w = 1#1 := by
  revert w; decide

/-- A masked word is zero where every bit the mask selects is. -/
theorem and_zero_of_bits (w m : BitVec 32) (h : ∀ i, i < 32 → m.getLsbD i = true → w.getLsbD i = false) : w &&& m = 0#32 := by
  apply BitVec.eq_of_getLsbD_eq
  intro i hi
  have := h i hi
  cases hm : m.getLsbD i <;> simp_all

/-- Every bit of a zero field is zero. -/
theorem bits_of_field_zero {w : BitVec 32} {lo n : Nat} (h : w.extractLsb' lo n = 0#n) (i : Nat) (h1 : lo ≤ i) (h2 : i < lo + n) :
    w.getLsbD i = false := by
  have := congrArg (fun v => v.getLsbD (i - lo)) h
  simp [BitVec.getLsbD_extractLsb'] at this
  have e : lo + (i - lo) = i := by omega
  rw [e] at this
  exact this (by omega)

/-- A field that a mask covers is zero where the masked word is. -/
theorem field_zero_of_and {w m : BitVec 32} (lo n : Nat) (h : w &&& m = 0#32) (c : ∀ j, j < n → m.getLsbD (lo + j) = true) :
    w.extractLsb' lo n = 0#n := by
  apply BitVec.eq_of_getLsbD_eq
  intro j hj
  have := congrArg (fun v => v.getLsbD (lo + j)) h
  simp [c j hj] at this
  simp [BitVec.getLsbD_extractLsb', hj, this]

/-- The must-be-zero bits 0x00000007 by their fields. -/
theorem mask_00000007 (w : BitVec 32) : w &&& 0x00000007#32 = 0#32 ↔ w.extractLsb' 0 3 = 0#3 := by
  refine ⟨fun h => field_zero_of_and 0 3 h (by decide), fun h0 => and_zero_of_bits _ _ (fun i hi hm => ?_)⟩
  have c : ∀ i, i < 32 → (0x00000007#32).getLsbD i = true → (0 ≤ i ∧ i < 3) := by decide
  exact bits_of_field_zero h0 i (c i hi hm).1 (c i hi hm).2

/-- The must-be-zero bits 0x00000008 by their fields. -/
theorem mask_00000008 (w : BitVec 32) : w &&& 0x00000008#32 = 0#32 ↔ w.extractLsb' 3 1 = 0#1 := by
  refine ⟨fun h => field_zero_of_and 3 1 h (by decide), fun h0 => and_zero_of_bits _ _ (fun i hi hm => ?_)⟩
  have c : ∀ i, i < 32 → (0x00000008#32).getLsbD i = true → (3 ≤ i ∧ i < 4) := by decide
  exact bits_of_field_zero h0 i (c i hi hm).1 (c i hi hm).2

/-- The must-be-zero bits 0x00000020 by their fields. -/
theorem mask_00000020 (w : BitVec 32) : w &&& 0x00000020#32 = 0#32 ↔ w.extractLsb' 5 1 = 0#1 := by
  refine ⟨fun h => field_zero_of_and 5 1 h (by decide), fun h0 => and_zero_of_bits _ _ (fun i hi hm => ?_)⟩
  have c : ∀ i, i < 32 → (0x00000020#32).getLsbD i = true → (5 ≤ i ∧ i < 6) := by decide
  exact bits_of_field_zero h0 i (c i hi hm).1 (c i hi hm).2

/-- The must-be-zero bits 0x0000003F by their fields. -/
theorem mask_0000003F (w : BitVec 32) : w &&& 0x0000003F#32 = 0#32 ↔ w.extractLsb' 0 6 = 0#6 := by
  refine ⟨fun h => field_zero_of_and 0 6 h (by decide), fun h0 => and_zero_of_bits _ _ (fun i hi hm => ?_)⟩
  have c : ∀ i, i < 32 → (0x0000003F#32).getLsbD i = true → (0 ≤ i ∧ i < 6) := by decide
  exact bits_of_field_zero h0 i (c i hi hm).1 (c i hi hm).2

/-- The must-be-zero bits 0x00000040 by their fields. -/
theorem mask_00000040 (w : BitVec 32) : w &&& 0x00000040#32 = 0#32 ↔ w.extractLsb' 6 1 = 0#1 := by
  refine ⟨fun h => field_zero_of_and 6 1 h (by decide), fun h0 => and_zero_of_bits _ _ (fun i hi hm => ?_)⟩
  have c : ∀ i, i < 32 → (0x00000040#32).getLsbD i = true → (6 ≤ i ∧ i < 7) := by decide
  exact bits_of_field_zero h0 i (c i hi hm).1 (c i hi hm).2

/-- The must-be-zero bits 0x00000060 by their fields. -/
theorem mask_00000060 (w : BitVec 32) : w &&& 0x00000060#32 = 0#32 ↔ w.extractLsb' 5 2 = 0#2 := by
  refine ⟨fun h => field_zero_of_and 5 2 h (by decide), fun h0 => and_zero_of_bits _ _ (fun i hi hm => ?_)⟩
  have c : ∀ i, i < 32 → (0x00000060#32).getLsbD i = true → (5 ≤ i ∧ i < 7) := by decide
  exact bits_of_field_zero h0 i (c i hi hm).1 (c i hi hm).2

/-- The must-be-zero bits 0x000000E0 by their fields. -/
theorem mask_000000E0 (w : BitVec 32) : w &&& 0x000000E0#32 = 0#32 ↔ w.extractLsb' 5 3 = 0#3 := by
  refine ⟨fun h => field_zero_of_and 5 3 h (by decide), fun h0 => and_zero_of_bits _ _ (fun i hi hm => ?_)⟩
  have c : ∀ i, i < 32 → (0x000000E0#32).getLsbD i = true → (5 ≤ i ∧ i < 8) := by decide
  exact bits_of_field_zero h0 i (c i hi hm).1 (c i hi hm).2

/-- The must-be-zero bits 0x000007C0 by their fields. -/
theorem mask_000007C0 (w : BitVec 32) : w &&& 0x000007C0#32 = 0#32 ↔ w.extractLsb' 6 5 = 0#5 := by
  refine ⟨fun h => field_zero_of_and 6 5 h (by decide), fun h0 => and_zero_of_bits _ _ (fun i hi hm => ?_)⟩
  have c : ∀ i, i < 32 → (0x000007C0#32).getLsbD i = true → (6 ≤ i ∧ i < 11) := by decide
  exact bits_of_field_zero h0 i (c i hi hm).1 (c i hi hm).2

/-- The must-be-zero bits 0x000007E0 by their fields. -/
theorem mask_000007E0 (w : BitVec 32) : w &&& 0x000007E0#32 = 0#32 ↔ w.extractLsb' 5 6 = 0#6 := by
  refine ⟨fun h => field_zero_of_and 5 6 h (by decide), fun h0 => and_zero_of_bits _ _ (fun i hi hm => ?_)⟩
  have c : ∀ i, i < 32 → (0x000007E0#32).getLsbD i = true → (5 ≤ i ∧ i < 11) := by decide
  exact bits_of_field_zero h0 i (c i hi hm).1 (c i hi hm).2

/-- The must-be-zero bits 0x000007F0 by their fields. -/
theorem mask_000007F0 (w : BitVec 32) : w &&& 0x000007F0#32 = 0#32 ↔ w.extractLsb' 4 7 = 0#7 := by
  refine ⟨fun h => field_zero_of_and 4 7 h (by decide), fun h0 => and_zero_of_bits _ _ (fun i hi hm => ?_)⟩
  have c : ∀ i, i < 32 → (0x000007F0#32).getLsbD i = true → (4 ≤ i ∧ i < 11) := by decide
  exact bits_of_field_zero h0 i (c i hi hm).1 (c i hi hm).2

/-- The must-be-zero bits 0x000007F8 by their fields. -/
theorem mask_000007F8 (w : BitVec 32) : w &&& 0x000007F8#32 = 0#32 ↔ w.extractLsb' 3 8 = 0#8 := by
  refine ⟨fun h => field_zero_of_and 3 8 h (by decide), fun h0 => and_zero_of_bits _ _ (fun i hi hm => ?_)⟩
  have c : ∀ i, i < 32 → (0x000007F8#32).getLsbD i = true → (3 ≤ i ∧ i < 11) := by decide
  exact bits_of_field_zero h0 i (c i hi hm).1 (c i hi hm).2

/-- The must-be-zero bits 0x00003FC0 by their fields. -/
theorem mask_00003FC0 (w : BitVec 32) : w &&& 0x00003FC0#32 = 0#32 ↔ w.extractLsb' 6 8 = 0#8 := by
  refine ⟨fun h => field_zero_of_and 6 8 h (by decide), fun h0 => and_zero_of_bits _ _ (fun i hi hm => ?_)⟩
  have c : ∀ i, i < 32 → (0x00003FC0#32).getLsbD i = true → (6 ≤ i ∧ i < 14) := by decide
  exact bits_of_field_zero h0 i (c i hi hm).1 (c i hi hm).2

/-- The must-be-zero bits 0x00007C00 by their fields. -/
theorem mask_00007C00 (w : BitVec 32) : w &&& 0x00007C00#32 = 0#32 ↔ w.extractLsb' 10 5 = 0#5 := by
  refine ⟨fun h => field_zero_of_and 10 5 h (by decide), fun h0 => and_zero_of_bits _ _ (fun i hi hm => ?_)⟩
  have c : ∀ i, i < 32 → (0x00007C00#32).getLsbD i = true → (10 ≤ i ∧ i < 15) := by decide
  exact bits_of_field_zero h0 i (c i hi hm).1 (c i hi hm).2

/-- The must-be-zero bits 0x0000F800 by their fields. -/
theorem mask_0000F800 (w : BitVec 32) : w &&& 0x0000F800#32 = 0#32 ↔ w.extractLsb' 11 5 = 0#5 := by
  refine ⟨fun h => field_zero_of_and 11 5 h (by decide), fun h0 => and_zero_of_bits _ _ (fun i hi hm => ?_)⟩
  have c : ∀ i, i < 32 → (0x0000F800#32).getLsbD i = true → (11 ≤ i ∧ i < 16) := by decide
  exact bits_of_field_zero h0 i (c i hi hm).1 (c i hi hm).2

/-- The must-be-zero bits 0x0000F808 by their fields. -/
theorem mask_0000F808 (w : BitVec 32) : w &&& 0x0000F808#32 = 0#32 ↔ w.extractLsb' 3 1 = 0#1 ∧ w.extractLsb' 11 5 = 0#5 := by
  refine ⟨fun h => ⟨field_zero_of_and 3 1 h (by decide), field_zero_of_and 11 5 h (by decide)⟩, fun ⟨h0, h1⟩ => and_zero_of_bits _ _ (fun i hi hm => ?_)⟩
  have c : ∀ i, i < 32 → (0x0000F808#32).getLsbD i = true → (3 ≤ i ∧ i < 4) ∨ (11 ≤ i ∧ i < 16) := by decide
  rcases c i hi hm with ⟨p, q⟩ | ⟨p, q⟩
  · exact bits_of_field_zero h0 i p q
  · exact bits_of_field_zero h1 i p q

/-- The must-be-zero bits 0x0000F8E8 by their fields. -/
theorem mask_0000F8E8 (w : BitVec 32) : w &&& 0x0000F8E8#32 = 0#32 ↔ w.extractLsb' 3 1 = 0#1 ∧ w.extractLsb' 5 3 = 0#3 ∧ w.extractLsb' 11 5 = 0#5 := by
  refine ⟨fun h => ⟨field_zero_of_and 3 1 h (by decide), field_zero_of_and 5 3 h (by decide), field_zero_of_and 11 5 h (by decide)⟩, fun ⟨h0, h1, h2⟩ => and_zero_of_bits _ _ (fun i hi hm => ?_)⟩
  have c : ∀ i, i < 32 → (0x0000F8E8#32).getLsbD i = true → (3 ≤ i ∧ i < 4) ∨ (5 ≤ i ∧ i < 8) ∨ (11 ≤ i ∧ i < 16) := by decide
  rcases c i hi hm with ⟨p, q⟩ | ⟨p, q⟩ | ⟨p, q⟩
  · exact bits_of_field_zero h0 i p q
  · exact bits_of_field_zero h1 i p q
  · exact bits_of_field_zero h2 i p q

/-- The must-be-zero bits 0x0000F8F8 by their fields. -/
theorem mask_0000F8F8 (w : BitVec 32) : w &&& 0x0000F8F8#32 = 0#32 ↔ w.extractLsb' 3 5 = 0#5 ∧ w.extractLsb' 11 5 = 0#5 := by
  refine ⟨fun h => ⟨field_zero_of_and 3 5 h (by decide), field_zero_of_and 11 5 h (by decide)⟩, fun ⟨h0, h1⟩ => and_zero_of_bits _ _ (fun i hi hm => ?_)⟩
  have c : ∀ i, i < 32 → (0x0000F8F8#32).getLsbD i = true → (3 ≤ i ∧ i < 8) ∨ (11 ≤ i ∧ i < 16) := by decide
  rcases c i hi hm with ⟨p, q⟩ | ⟨p, q⟩
  · exact bits_of_field_zero h0 i p q
  · exact bits_of_field_zero h1 i p q

/-- The must-be-zero bits 0x0000FFC0 by their fields. -/
theorem mask_0000FFC0 (w : BitVec 32) : w &&& 0x0000FFC0#32 = 0#32 ↔ w.extractLsb' 6 10 = 0#10 := by
  refine ⟨fun h => field_zero_of_and 6 10 h (by decide), fun h0 => and_zero_of_bits _ _ (fun i hi hm => ?_)⟩
  have c : ∀ i, i < 32 → (0x0000FFC0#32).getLsbD i = true → (6 ≤ i ∧ i < 16) := by decide
  exact bits_of_field_zero h0 i (c i hi hm).1 (c i hi hm).2

/-- The must-be-zero bits 0x0000FFE0 by their fields. -/
theorem mask_0000FFE0 (w : BitVec 32) : w &&& 0x0000FFE0#32 = 0#32 ↔ w.extractLsb' 5 11 = 0#11 := by
  refine ⟨fun h => field_zero_of_and 5 11 h (by decide), fun h0 => and_zero_of_bits _ _ (fun i hi hm => ?_)⟩
  have c : ∀ i, i < 32 → (0x0000FFE0#32).getLsbD i = true → (5 ≤ i ∧ i < 16) := by decide
  exact bits_of_field_zero h0 i (c i hi hm).1 (c i hi hm).2

/-- The must-be-zero bits 0x0000FFF0 by their fields. -/
theorem mask_0000FFF0 (w : BitVec 32) : w &&& 0x0000FFF0#32 = 0#32 ↔ w.extractLsb' 4 12 = 0#12 := by
  refine ⟨fun h => field_zero_of_and 4 12 h (by decide), fun h0 => and_zero_of_bits _ _ (fun i hi hm => ?_)⟩
  have c : ∀ i, i < 32 → (0x0000FFF0#32).getLsbD i = true → (4 ≤ i ∧ i < 16) := by decide
  exact bits_of_field_zero h0 i (c i hi hm).1 (c i hi hm).2

/-- The must-be-zero bits 0x0000FFF8 by their fields. -/
theorem mask_0000FFF8 (w : BitVec 32) : w &&& 0x0000FFF8#32 = 0#32 ↔ w.extractLsb' 3 13 = 0#13 := by
  refine ⟨fun h => field_zero_of_and 3 13 h (by decide), fun h0 => and_zero_of_bits _ _ (fun i hi hm => ?_)⟩
  have c : ∀ i, i < 32 → (0x0000FFF8#32).getLsbD i = true → (3 ≤ i ∧ i < 16) := by decide
  exact bits_of_field_zero h0 i (c i hi hm).1 (c i hi hm).2

/-- The must-be-zero bits 0x000F8000 by their fields. -/
theorem mask_000F8000 (w : BitVec 32) : w &&& 0x000F8000#32 = 0#32 ↔ w.extractLsb' 15 5 = 0#5 := by
  refine ⟨fun h => field_zero_of_and 15 5 h (by decide), fun h0 => and_zero_of_bits _ _ (fun i hi hm => ?_)⟩
  have c : ∀ i, i < 32 → (0x000F8000#32).getLsbD i = true → (15 ≤ i ∧ i < 20) := by decide
  exact bits_of_field_zero h0 i (c i hi hm).1 (c i hi hm).2

/-- The must-be-zero bits 0x001F0000 by their fields. -/
theorem mask_001F0000 (w : BitVec 32) : w &&& 0x001F0000#32 = 0#32 ↔ w.extractLsb' 16 5 = 0#5 := by
  refine ⟨fun h => field_zero_of_and 16 5 h (by decide), fun h0 => and_zero_of_bits _ _ (fun i hi hm => ?_)⟩
  have c : ∀ i, i < 32 → (0x001F0000#32).getLsbD i = true → (16 ≤ i ∧ i < 21) := by decide
  exact bits_of_field_zero h0 i (c i hi hm).1 (c i hi hm).2

/-- The must-be-zero bits 0x001F00F0 by their fields. -/
theorem mask_001F00F0 (w : BitVec 32) : w &&& 0x001F00F0#32 = 0#32 ↔ w.extractLsb' 4 4 = 0#4 ∧ w.extractLsb' 16 5 = 0#5 := by
  refine ⟨fun h => ⟨field_zero_of_and 4 4 h (by decide), field_zero_of_and 16 5 h (by decide)⟩, fun ⟨h0, h1⟩ => and_zero_of_bits _ _ (fun i hi hm => ?_)⟩
  have c : ∀ i, i < 32 → (0x001F00F0#32).getLsbD i = true → (4 ≤ i ∧ i < 8) ∨ (16 ≤ i ∧ i < 21) := by decide
  rcases c i hi hm with ⟨p, q⟩ | ⟨p, q⟩
  · exact bits_of_field_zero h0 i p q
  · exact bits_of_field_zero h1 i p q

/-- The must-be-zero bits 0x001FF800 by their fields. -/
theorem mask_001FF800 (w : BitVec 32) : w &&& 0x001FF800#32 = 0#32 ↔ w.extractLsb' 11 10 = 0#10 := by
  refine ⟨fun h => field_zero_of_and 11 10 h (by decide), fun h0 => and_zero_of_bits _ _ (fun i hi hm => ?_)⟩
  have c : ∀ i, i < 32 → (0x001FF800#32).getLsbD i = true → (11 ≤ i ∧ i < 21) := by decide
  exact bits_of_field_zero h0 i (c i hi hm).1 (c i hi hm).2

/-- The must-be-zero bits 0x001FF8F8 by their fields. -/
theorem mask_001FF8F8 (w : BitVec 32) : w &&& 0x001FF8F8#32 = 0#32 ↔ w.extractLsb' 3 5 = 0#5 ∧ w.extractLsb' 11 10 = 0#10 := by
  refine ⟨fun h => ⟨field_zero_of_and 3 5 h (by decide), field_zero_of_and 11 10 h (by decide)⟩, fun ⟨h0, h1⟩ => and_zero_of_bits _ _ (fun i hi hm => ?_)⟩
  have c : ∀ i, i < 32 → (0x001FF8F8#32).getLsbD i = true → (3 ≤ i ∧ i < 8) ∨ (11 ≤ i ∧ i < 21) := by decide
  rcases c i hi hm with ⟨p, q⟩ | ⟨p, q⟩
  · exact bits_of_field_zero h0 i p q
  · exact bits_of_field_zero h1 i p q

/-- The must-be-zero bits 0x001FFFC0 by their fields. -/
theorem mask_001FFFC0 (w : BitVec 32) : w &&& 0x001FFFC0#32 = 0#32 ↔ w.extractLsb' 6 15 = 0#15 := by
  refine ⟨fun h => field_zero_of_and 6 15 h (by decide), fun h0 => and_zero_of_bits _ _ (fun i hi hm => ?_)⟩
  have c : ∀ i, i < 32 → (0x001FFFC0#32).getLsbD i = true → (6 ≤ i ∧ i < 21) := by decide
  exact bits_of_field_zero h0 i (c i hi hm).1 (c i hi hm).2

/-- The must-be-zero bits 0x001FFFE0 by their fields. -/
theorem mask_001FFFE0 (w : BitVec 32) : w &&& 0x001FFFE0#32 = 0#32 ↔ w.extractLsb' 5 16 = 0#16 := by
  refine ⟨fun h => field_zero_of_and 5 16 h (by decide), fun h0 => and_zero_of_bits _ _ (fun i hi hm => ?_)⟩
  have c : ∀ i, i < 32 → (0x001FFFE0#32).getLsbD i = true → (5 ≤ i ∧ i < 21) := by decide
  exact bits_of_field_zero h0 i (c i hi hm).1 (c i hi hm).2

/-- The must-be-zero bits 0x001FFFF8 by their fields. -/
theorem mask_001FFFF8 (w : BitVec 32) : w &&& 0x001FFFF8#32 = 0#32 ↔ w.extractLsb' 3 18 = 0#18 := by
  refine ⟨fun h => field_zero_of_and 3 18 h (by decide), fun h0 => and_zero_of_bits _ _ (fun i hi hm => ?_)⟩
  have c : ∀ i, i < 32 → (0x001FFFF8#32).getLsbD i = true → (3 ≤ i ∧ i < 21) := by decide
  exact bits_of_field_zero h0 i (c i hi hm).1 (c i hi hm).2

/-- The must-be-zero bits 0x00700000 by their fields. -/
theorem mask_00700000 (w : BitVec 32) : w &&& 0x00700000#32 = 0#32 ↔ w.extractLsb' 20 3 = 0#3 := by
  refine ⟨fun h => field_zero_of_and 20 3 h (by decide), fun h0 => and_zero_of_bits _ _ (fun i hi hm => ?_)⟩
  have c : ∀ i, i < 32 → (0x00700000#32).getLsbD i = true → (20 ≤ i ∧ i < 23) := by decide
  exact bits_of_field_zero h0 i (c i hi hm).1 (c i hi hm).2

/-- The must-be-zero bits 0x007FFC00 by their fields. -/
theorem mask_007FFC00 (w : BitVec 32) : w &&& 0x007FFC00#32 = 0#32 ↔ w.extractLsb' 10 13 = 0#13 := by
  refine ⟨fun h => field_zero_of_and 10 13 h (by decide), fun h0 => and_zero_of_bits _ _ (fun i hi hm => ?_)⟩
  have c : ∀ i, i < 32 → (0x007FFC00#32).getLsbD i = true → (10 ≤ i ∧ i < 23) := by decide
  exact bits_of_field_zero h0 i (c i hi hm).1 (c i hi hm).2

/-- The must-be-zero bits 0x007FFFE0 by their fields. -/
theorem mask_007FFFE0 (w : BitVec 32) : w &&& 0x007FFFE0#32 = 0#32 ↔ w.extractLsb' 5 18 = 0#18 := by
  refine ⟨fun h => field_zero_of_and 5 18 h (by decide), fun h0 => and_zero_of_bits _ _ (fun i hi hm => ?_)⟩
  have c : ∀ i, i < 32 → (0x007FFFE0#32).getLsbD i = true → (5 ≤ i ∧ i < 23) := by decide
  exact bits_of_field_zero h0 i (c i hi hm).1 (c i hi hm).2

/-- The must-be-zero bits 0x03E00000 by their fields. -/
theorem mask_03E00000 (w : BitVec 32) : w &&& 0x03E00000#32 = 0#32 ↔ w.extractLsb' 21 5 = 0#5 := by
  refine ⟨fun h => field_zero_of_and 21 5 h (by decide), fun h0 => and_zero_of_bits _ _ (fun i hi hm => ?_)⟩
  have c : ∀ i, i < 32 → (0x03E00000#32).getLsbD i = true → (21 ≤ i ∧ i < 26) := by decide
  exact bits_of_field_zero h0 i (c i hi hm).1 (c i hi hm).2

/-- The must-be-zero bits 0x03E000E0 by their fields. -/
theorem mask_03E000E0 (w : BitVec 32) : w &&& 0x03E000E0#32 = 0#32 ↔ w.extractLsb' 5 3 = 0#3 ∧ w.extractLsb' 21 5 = 0#5 := by
  refine ⟨fun h => ⟨field_zero_of_and 5 3 h (by decide), field_zero_of_and 21 5 h (by decide)⟩, fun ⟨h0, h1⟩ => and_zero_of_bits _ _ (fun i hi hm => ?_)⟩
  have c : ∀ i, i < 32 → (0x03E000E0#32).getLsbD i = true → (5 ≤ i ∧ i < 8) ∨ (21 ≤ i ∧ i < 26) := by decide
  rcases c i hi hm with ⟨p, q⟩ | ⟨p, q⟩
  · exact bits_of_field_zero h0 i p q
  · exact bits_of_field_zero h1 i p q

/-- The must-be-zero bits 0x03E00700 by their fields. -/
theorem mask_03E00700 (w : BitVec 32) : w &&& 0x03E00700#32 = 0#32 ↔ w.extractLsb' 8 3 = 0#3 ∧ w.extractLsb' 21 5 = 0#5 := by
  refine ⟨fun h => ⟨field_zero_of_and 8 3 h (by decide), field_zero_of_and 21 5 h (by decide)⟩, fun ⟨h0, h1⟩ => and_zero_of_bits _ _ (fun i hi hm => ?_)⟩
  have c : ∀ i, i < 32 → (0x03E00700#32).getLsbD i = true → (8 ≤ i ∧ i < 11) ∨ (21 ≤ i ∧ i < 26) := by decide
  rcases c i hi hm with ⟨p, q⟩ | ⟨p, q⟩
  · exact bits_of_field_zero h0 i p q
  · exact bits_of_field_zero h1 i p q

/-- The must-be-zero bits 0x03E007F0 by their fields. -/
theorem mask_03E007F0 (w : BitVec 32) : w &&& 0x03E007F0#32 = 0#32 ↔ w.extractLsb' 4 7 = 0#7 ∧ w.extractLsb' 21 5 = 0#5 := by
  refine ⟨fun h => ⟨field_zero_of_and 4 7 h (by decide), field_zero_of_and 21 5 h (by decide)⟩, fun ⟨h0, h1⟩ => and_zero_of_bits _ _ (fun i hi hm => ?_)⟩
  have c : ∀ i, i < 32 → (0x03E007F0#32).getLsbD i = true → (4 ≤ i ∧ i < 11) ∨ (21 ≤ i ∧ i < 26) := by decide
  rcases c i hi hm with ⟨p, q⟩ | ⟨p, q⟩
  · exact bits_of_field_zero h0 i p q
  · exact bits_of_field_zero h1 i p q

/-- The must-be-zero bits 0x03E0F800 by their fields. -/
theorem mask_03E0F800 (w : BitVec 32) : w &&& 0x03E0F800#32 = 0#32 ↔ w.extractLsb' 11 5 = 0#5 ∧ w.extractLsb' 21 5 = 0#5 := by
  refine ⟨fun h => ⟨field_zero_of_and 11 5 h (by decide), field_zero_of_and 21 5 h (by decide)⟩, fun ⟨h0, h1⟩ => and_zero_of_bits _ _ (fun i hi hm => ?_)⟩
  have c : ∀ i, i < 32 → (0x03E0F800#32).getLsbD i = true → (11 ≤ i ∧ i < 16) ∨ (21 ≤ i ∧ i < 26) := by decide
  rcases c i hi hm with ⟨p, q⟩ | ⟨p, q⟩
  · exact bits_of_field_zero h0 i p q
  · exact bits_of_field_zero h1 i p q

/-- The must-be-zero bits 0x03E0F8E0 by their fields. -/
theorem mask_03E0F8E0 (w : BitVec 32) : w &&& 0x03E0F8E0#32 = 0#32 ↔ w.extractLsb' 5 3 = 0#3 ∧ w.extractLsb' 11 5 = 0#5 ∧ w.extractLsb' 21 5 = 0#5 := by
  refine ⟨fun h => ⟨field_zero_of_and 5 3 h (by decide), field_zero_of_and 11 5 h (by decide), field_zero_of_and 21 5 h (by decide)⟩, fun ⟨h0, h1, h2⟩ => and_zero_of_bits _ _ (fun i hi hm => ?_)⟩
  have c : ∀ i, i < 32 → (0x03E0F8E0#32).getLsbD i = true → (5 ≤ i ∧ i < 8) ∨ (11 ≤ i ∧ i < 16) ∨ (21 ≤ i ∧ i < 26) := by decide
  rcases c i hi hm with ⟨p, q⟩ | ⟨p, q⟩ | ⟨p, q⟩
  · exact bits_of_field_zero h0 i p q
  · exact bits_of_field_zero h1 i p q
  · exact bits_of_field_zero h2 i p q

/-- The must-be-zero bits 0x03E0FF00 by their fields. -/
theorem mask_03E0FF00 (w : BitVec 32) : w &&& 0x03E0FF00#32 = 0#32 ↔ w.extractLsb' 8 8 = 0#8 ∧ w.extractLsb' 21 5 = 0#5 := by
  refine ⟨fun h => ⟨field_zero_of_and 8 8 h (by decide), field_zero_of_and 21 5 h (by decide)⟩, fun ⟨h0, h1⟩ => and_zero_of_bits _ _ (fun i hi hm => ?_)⟩
  have c : ∀ i, i < 32 → (0x03E0FF00#32).getLsbD i = true → (8 ≤ i ∧ i < 16) ∨ (21 ≤ i ∧ i < 26) := by decide
  rcases c i hi hm with ⟨p, q⟩ | ⟨p, q⟩
  · exact bits_of_field_zero h0 i p q
  · exact bits_of_field_zero h1 i p q

/-- The must-be-zero bits 0x03E0FFE0 by their fields. -/
theorem mask_03E0FFE0 (w : BitVec 32) : w &&& 0x03E0FFE0#32 = 0#32 ↔ w.extractLsb' 5 11 = 0#11 ∧ w.extractLsb' 21 5 = 0#5 := by
  refine ⟨fun h => ⟨field_zero_of_and 5 11 h (by decide), field_zero_of_and 21 5 h (by decide)⟩, fun ⟨h0, h1⟩ => and_zero_of_bits _ _ (fun i hi hm => ?_)⟩
  have c : ∀ i, i < 32 → (0x03E0FFE0#32).getLsbD i = true → (5 ≤ i ∧ i < 16) ∨ (21 ≤ i ∧ i < 26) := by decide
  rcases c i hi hm with ⟨p, q⟩ | ⟨p, q⟩
  · exact bits_of_field_zero h0 i p q
  · exact bits_of_field_zero h1 i p q

/-- The must-be-zero bits 0x03FF0000 by their fields. -/
theorem mask_03FF0000 (w : BitVec 32) : w &&& 0x03FF0000#32 = 0#32 ↔ w.extractLsb' 16 10 = 0#10 := by
  refine ⟨fun h => field_zero_of_and 16 10 h (by decide), fun h0 => and_zero_of_bits _ _ (fun i hi hm => ?_)⟩
  have c : ∀ i, i < 32 → (0x03FF0000#32).getLsbD i = true → (16 ≤ i ∧ i < 26) := by decide
  exact bits_of_field_zero h0 i (c i hi hm).1 (c i hi hm).2

/-- The must-be-zero bits 0x03FFF800 by their fields. -/
theorem mask_03FFF800 (w : BitVec 32) : w &&& 0x03FFF800#32 = 0#32 ↔ w.extractLsb' 11 15 = 0#15 := by
  refine ⟨fun h => field_zero_of_and 11 15 h (by decide), fun h0 => and_zero_of_bits _ _ (fun i hi hm => ?_)⟩
  have c : ∀ i, i < 32 → (0x03FFF800#32).getLsbD i = true → (11 ≤ i ∧ i < 26) := by decide
  exact bits_of_field_zero h0 i (c i hi hm).1 (c i hi hm).2

/-- The must-be-zero bits 0x03FFFC00 by their fields. -/
theorem mask_03FFFC00 (w : BitVec 32) : w &&& 0x03FFFC00#32 = 0#32 ↔ w.extractLsb' 10 16 = 0#16 := by
  refine ⟨fun h => field_zero_of_and 10 16 h (by decide), fun h0 => and_zero_of_bits _ _ (fun i hi hm => ?_)⟩
  have c : ∀ i, i < 32 → (0x03FFFC00#32).getLsbD i = true → (10 ≤ i ∧ i < 26) := by decide
  exact bits_of_field_zero h0 i (c i hi hm).1 (c i hi hm).2

/-- The must-be-zero bits 0x03FFFFF0 by their fields. -/
theorem mask_03FFFFF0 (w : BitVec 32) : w &&& 0x03FFFFF0#32 = 0#32 ↔ w.extractLsb' 4 22 = 0#22 := by
  refine ⟨fun h => field_zero_of_and 4 22 h (by decide), fun h0 => and_zero_of_bits _ _ (fun i hi hm => ?_)⟩
  have c : ∀ i, i < 32 → (0x03FFFFF0#32).getLsbD i = true → (4 ≤ i ∧ i < 26) := by decide
  exact bits_of_field_zero h0 i (c i hi hm).1 (c i hi hm).2

/-- Bit 3 alone, as the value of the sc bit. -/
theorem bit3_set (w : BitVec 32) : w &&& 0x00000008#32 = 0x00000008#32 ↔ w.extractLsb' 3 1 = 1#1 := by
  constructor
  · intro h
    have := congrArg (fun v => v.getLsbD 3) h
    apply BitVec.eq_of_getLsbD_eq
    intro i hi
    have e : i = 0 := by omega
    subst e
    simpa using this
  · intro h
    apply BitVec.eq_of_getLsbD_eq
    intro i hi
    have c : ∀ i, i < 32 → (0x00000008#32).getLsbD i = decide (i = 3) := by decide
    rw [BitVec.getLsbD_and, c i hi]
    by_cases e : i = 3
    · subst e
      have := congrArg (fun v => v.getLsbD 0) h
      simpa using this
    · simp [e]

/-- The decoder on a word whose major opcode is not the system one. -/
theorem decode_other {w : BitVec 32} (h : field w 26 6 ≠ 0x3F#6) : decodeWord w = decodeOther w := by
  simp [decodeWord, isEngrstWord, isMigrateWord, h]

/-- The decoder on the system words that `decodeOther` knows. -/
theorem decode_major_3F {w : BitVec 32} (h : field w 26 6 = 0x3F#6) (h5 : field w 0 11 ≠ 5#11) (h7 : field w 0 11 ≠ 7#11) :
    decodeWord w = decodeSystem w := by
  simp [decodeWord, isEngrstWord, isMigrateWord, decodeOther, h, h5, h7]

/-- The decoder on major 0x01. -/
theorem decode_major_01 {w : BitVec 32} (h : field w 26 6 = 1#6) : decodeWord w = decodeInt w := by
  rw [decode_other (by rw [h]; decide), decodeOther, h]; rfl

/-- The decoder on major 0x02. -/
theorem decode_major_02 {w : BitVec 32} (h : field w 26 6 = 2#6) : decodeWord w = decodeAddi w := by
  rw [decode_other (by rw [h]; decide), decodeOther, h]; rfl

/-- The decoder on major 0x03. -/
theorem decode_major_03 {w : BitVec 32} (h : field w 26 6 = 3#6) : decodeWord w = decodeAndi w := by
  rw [decode_other (by rw [h]; decide), decodeOther, h]; rfl

/-- The decoder on major 0x04. -/
theorem decode_major_04 {w : BitVec 32} (h : field w 26 6 = 4#6) : decodeWord w = decodeOri w := by
  rw [decode_other (by rw [h]; decide), decodeOther, h]; rfl

/-- The decoder on major 0x05. -/
theorem decode_major_05 {w : BitVec 32} (h : field w 26 6 = 5#6) : decodeWord w = decodeXori w := by
  rw [decode_other (by rw [h]; decide), decodeOther, h]; rfl

/-- The decoder on major 0x06. -/
theorem decode_major_06 {w : BitVec 32} (h : field w 26 6 = 6#6) : decodeWord w = decodeSlti w := by
  rw [decode_other (by rw [h]; decide), decodeOther, h]; rfl

/-- The decoder on major 0x07. -/
theorem decode_major_07 {w : BitVec 32} (h : field w 26 6 = 7#6) : decodeWord w = decodeShi w := by
  rw [decode_other (by rw [h]; decide), decodeOther, h]; rfl

/-- The decoder on major 0x08. -/
theorem decode_major_08 {w : BitVec 32} (h : field w 26 6 = 8#6) : decodeWord w = decodeFps w := by
  rw [decode_other (by rw [h]; decide), decodeOther, h]; rfl

/-- The decoder on major 0x09. -/
theorem decode_major_09 {w : BitVec 32} (h : field w 26 6 = 9#6) : decodeWord w = decodeVfcmp w := by
  rw [decode_other (by rw [h]; decide), decodeOther, h]; rfl

/-- The decoder on major 0x0a. -/
theorem decode_major_0A {w : BitVec 32} (h : field w 26 6 = 10#6) : decodeWord w = decodeLui w := by
  rw [decode_other (by rw [h]; decide), decodeOther, h]; rfl

/-- The decoder on major 0x0b. -/
theorem decode_major_0B {w : BitVec 32} (h : field w 26 6 = 11#6) : decodeWord w = decodeLqa w := by
  rw [decode_other (by rw [h]; decide), decodeOther, h]; rfl

/-- The decoder on major 0x0c. -/
theorem decode_major_0C {w : BitVec 32} (h : field w 26 6 = 12#6) : decodeWord w = decodeLdb w := by
  rw [decode_other (by rw [h]; decide), decodeOther, h]; rfl

/-- The decoder on major 0x0d. -/
theorem decode_major_0D {w : BitVec 32} (h : field w 26 6 = 13#6) : decodeWord w = decodeLdbu w := by
  rw [decode_other (by rw [h]; decide), decodeOther, h]; rfl

/-- The decoder on major 0x0e. -/
theorem decode_major_0E {w : BitVec 32} (h : field w 26 6 = 14#6) : decodeWord w = decodeLdh w := by
  rw [decode_other (by rw [h]; decide), decodeOther, h]; rfl

/-- The decoder on major 0x0f. -/
theorem decode_major_0F {w : BitVec 32} (h : field w 26 6 = 15#6) : decodeWord w = decodeLdhu w := by
  rw [decode_other (by rw [h]; decide), decodeOther, h]; rfl

/-- The decoder on major 0x10. -/
theorem decode_major_10 {w : BitVec 32} (h : field w 26 6 = 16#6) : decodeWord w = decodeLdw w := by
  rw [decode_other (by rw [h]; decide), decodeOther, h]; rfl

/-- The decoder on major 0x11. -/
theorem decode_major_11 {w : BitVec 32} (h : field w 26 6 = 17#6) : decodeWord w = decodeLdwu w := by
  rw [decode_other (by rw [h]; decide), decodeOther, h]; rfl

/-- The decoder on major 0x12. -/
theorem decode_major_12 {w : BitVec 32} (h : field w 26 6 = 18#6) : decodeWord w = decodeLdd w := by
  rw [decode_other (by rw [h]; decide), decodeOther, h]; rfl

/-- The decoder on major 0x13. -/
theorem decode_major_13 {w : BitVec 32} (h : field w 26 6 = 19#6) : decodeWord w = decodeStb w := by
  rw [decode_other (by rw [h]; decide), decodeOther, h]; rfl

/-- The decoder on major 0x14. -/
theorem decode_major_14 {w : BitVec 32} (h : field w 26 6 = 20#6) : decodeWord w = decodeSth w := by
  rw [decode_other (by rw [h]; decide), decodeOther, h]; rfl

/-- The decoder on major 0x15. -/
theorem decode_major_15 {w : BitVec 32} (h : field w 26 6 = 21#6) : decodeWord w = decodeStw w := by
  rw [decode_other (by rw [h]; decide), decodeOther, h]; rfl

/-- The decoder on major 0x16. -/
theorem decode_major_16 {w : BitVec 32} (h : field w 26 6 = 22#6) : decodeWord w = decodeStd w := by
  rw [decode_other (by rw [h]; decide), decodeOther, h]; rfl

/-- The decoder on major 0x17. -/
theorem decode_major_17 {w : BitVec 32} (h : field w 26 6 = 23#6) : decodeWord w = decodeBeq w := by
  rw [decode_other (by rw [h]; decide), decodeOther, h]; rfl

/-- The decoder on major 0x18. -/
theorem decode_major_18 {w : BitVec 32} (h : field w 26 6 = 24#6) : decodeWord w = decodeBne w := by
  rw [decode_other (by rw [h]; decide), decodeOther, h]; rfl

/-- The decoder on major 0x19. -/
theorem decode_major_19 {w : BitVec 32} (h : field w 26 6 = 25#6) : decodeWord w = decodeBlt w := by
  rw [decode_other (by rw [h]; decide), decodeOther, h]; rfl

/-- The decoder on major 0x1a. -/
theorem decode_major_1A {w : BitVec 32} (h : field w 26 6 = 26#6) : decodeWord w = decodeBge w := by
  rw [decode_other (by rw [h]; decide), decodeOther, h]; rfl

/-- The decoder on major 0x1b. -/
theorem decode_major_1B {w : BitVec 32} (h : field w 26 6 = 27#6) : decodeWord w = decodeBltu w := by
  rw [decode_other (by rw [h]; decide), decodeOther, h]; rfl

/-- The decoder on major 0x1c. -/
theorem decode_major_1C {w : BitVec 32} (h : field w 26 6 = 28#6) : decodeWord w = decodeBgeu w := by
  rw [decode_other (by rw [h]; decide), decodeOther, h]; rfl

/-- The decoder on major 0x1d. -/
theorem decode_major_1D {w : BitVec 32} (h : field w 26 6 = 29#6) : decodeWord w = decodeJ w := by
  rw [decode_other (by rw [h]; decide), decodeOther, h]; rfl

/-- The decoder on major 0x1e. -/
theorem decode_major_1E {w : BitVec 32} (h : field w 26 6 = 30#6) : decodeWord w = decodeJal w := by
  rw [decode_other (by rw [h]; decide), decodeOther, h]; rfl

/-- The decoder on major 0x1f. -/
theorem decode_major_1F {w : BitVec 32} (h : field w 26 6 = 31#6) : decodeWord w = decodeJalr w := by
  rw [decode_other (by rw [h]; decide), decodeOther, h]; rfl

/-- The decoder on major 0x20. -/
theorem decode_major_20 {w : BitVec 32} (h : field w 26 6 = 32#6) : decodeWord w = decodeCtl w := by
  rw [decode_other (by rw [h]; decide), decodeOther, h]; rfl

/-- The decoder on major 0x21. -/
theorem decode_major_21 {w : BitVec 32} (h : field w 26 6 = 33#6) : decodeWord w = decodeVcfg w := by
  rw [decode_other (by rw [h]; decide), decodeOther, h]; rfl

/-- The decoder on major 0x22. -/
theorem decode_major_22 {w : BitVec 32} (h : field w 26 6 = 34#6) : decodeWord w = decodeVint w := by
  rw [decode_other (by rw [h]; decide), decodeOther, h]; rfl

/-- The decoder on major 0x23. -/
theorem decode_major_23 {w : BitVec 32} (h : field w 26 6 = 35#6) : decodeWord w = decodeVlog w := by
  rw [decode_other (by rw [h]; decide), decodeOther, h]; rfl

/-- The decoder on major 0x24. -/
theorem decode_major_24 {w : BitVec 32} (h : field w 26 6 = 36#6) : decodeWord w = decodeVfp w := by
  rw [decode_other (by rw [h]; decide), decodeOther, h]; rfl

/-- The decoder on major 0x25. -/
theorem decode_major_25 {w : BitVec 32} (h : field w 26 6 = 37#6) : decodeWord w = decodeVfma w := by
  rw [decode_other (by rw [h]; decide), decodeOther, h]; rfl

/-- The decoder on major 0x26. -/
theorem decode_major_26 {w : BitVec 32} (h : field w 26 6 = 38#6) : decodeWord w = decodeVcmp w := by
  rw [decode_other (by rw [h]; decide), decodeOther, h]; rfl

/-- The decoder on major 0x27. -/
theorem decode_major_27 {w : BitVec 32} (h : field w 26 6 = 39#6) : decodeWord w = decodeVcvt w := by
  rw [decode_other (by rw [h]; decide), decodeOther, h]; rfl

/-- The decoder on major 0x28. -/
theorem decode_major_28 {w : BitVec 32} (h : field w 26 6 = 40#6) : decodeWord w = decodeVmov w := by
  rw [decode_other (by rw [h]; decide), decodeOther, h]; rfl

/-- The decoder on major 0x29. -/
theorem decode_major_29 {w : BitVec 32} (h : field w 26 6 = 41#6) : decodeWord w = decodeVperm w := by
  rw [decode_other (by rw [h]; decide), decodeOther, h]; rfl

/-- The decoder on major 0x2a. -/
theorem decode_major_2A {w : BitVec 32} (h : field w 26 6 = 42#6) : decodeWord w = decodeVred w := by
  rw [decode_other (by rw [h]; decide), decodeOther, h]; rfl

/-- The decoder on major 0x2b. -/
theorem decode_major_2B {w : BitVec 32} (h : field w 26 6 = 43#6) : decodeWord w = decodeVmask w := by
  rw [decode_other (by rw [h]; decide), decodeOther, h]; rfl

/-- The decoder on major 0x2c. -/
theorem decode_major_2C {w : BitVec 32} (h : field w 26 6 = 44#6) : decodeWord w = decodeVld w := by
  rw [decode_other (by rw [h]; decide), decodeOther, h]; rfl

/-- The decoder on major 0x2d. -/
theorem decode_major_2D {w : BitVec 32} (h : field w 26 6 = 45#6) : decodeWord w = decodeVlds w := by
  rw [decode_other (by rw [h]; decide), decodeOther, h]; rfl

/-- The decoder on major 0x2e. -/
theorem decode_major_2E {w : BitVec 32} (h : field w 26 6 = 46#6) : decodeWord w = decodeVldx w := by
  rw [decode_other (by rw [h]; decide), decodeOther, h]; rfl

/-- The decoder on major 0x2f. -/
theorem decode_major_2F {w : BitVec 32} (h : field w 26 6 = 47#6) : decodeWord w = decodeVldl w := by
  rw [decode_other (by rw [h]; decide), decodeOther, h]; rfl

/-- The decoder on major 0x30. -/
theorem decode_major_30 {w : BitVec 32} (h : field w 26 6 = 48#6) : decodeWord w = decodeVst w := by
  rw [decode_other (by rw [h]; decide), decodeOther, h]; rfl

/-- The decoder on major 0x31. -/
theorem decode_major_31 {w : BitVec 32} (h : field w 26 6 = 49#6) : decodeWord w = decodeVsts w := by
  rw [decode_other (by rw [h]; decide), decodeOther, h]; rfl

/-- The decoder on major 0x32. -/
theorem decode_major_32 {w : BitVec 32} (h : field w 26 6 = 50#6) : decodeWord w = decodeVstx w := by
  rw [decode_other (by rw [h]; decide), decodeOther, h]; rfl

/-- The decoder on major 0x33. -/
theorem decode_major_33 {w : BitVec 32} (h : field w 26 6 = 51#6) : decodeWord w = decodeVstl w := by
  rw [decode_other (by rw [h]; decide), decodeOther, h]; rfl

/-- The decoder on major 0x34. -/
theorem decode_major_34 {w : BitVec 32} (h : field w 26 6 = 52#6) : decodeWord w = decodeVldb w := by
  rw [decode_other (by rw [h]; decide), decodeOther, h]; rfl

/-- The decoder on major 0x35. -/
theorem decode_major_35 {w : BitVec 32} (h : field w 26 6 = 53#6) : decodeWord w = decodeStream w := by
  rw [decode_other (by rw [h]; decide), decodeOther, h]; rfl

/-- The decoder on major 0x36. -/
theorem decode_major_36 {w : BitVec 32} (h : field w 26 6 = 54#6) : decodeWord w = decodeDiag w := by
  rw [decode_other (by rw [h]; decide), decodeOther, h]; rfl

/-- The decoder on major 0x37. -/
theorem decode_major_37 {w : BitVec 32} (h : field w 26 6 = 55#6) : decodeWord w = decodeTree w := by
  rw [decode_other (by rw [h]; decide), decodeOther, h]; rfl

/-- The decoder on major 0x38. -/
theorem decode_major_38 {w : BitVec 32} (h : field w 26 6 = 56#6) : decodeWord w = decodeKv w := by
  rw [decode_other (by rw [h]; decide), decodeOther, h]; rfl

/-- The decoder on major 0x39. -/
theorem decode_major_39 {w : BitVec 32} (h : field w 26 6 = 57#6) : decodeWord w = decodeAmo w := by
  rw [decode_other (by rw [h]; decide), decodeOther, h]; rfl

/-- The decoder on major 0x3a. -/
theorem decode_major_3A {w : BitVec 32} (h : field w 26 6 = 58#6) : decodeWord w = decodeVamo w := by
  rw [decode_other (by rw [h]; decide), decodeOther, h]; rfl

/-- The decoder on major 0x3b. -/
theorem decode_major_3B {w : BitVec 32} (h : field w 26 6 = 59#6) : decodeWord w = decodeFence w := by
  rw [decode_other (by rw [h]; decide), decodeOther, h]; rfl

/-- The decoder on major 0x3c. -/
theorem decode_major_3C {w : BitVec 32} (h : field w 26 6 = 60#6) : decodeWord w = decodeSync w := by
  rw [decode_other (by rw [h]; decide), decodeOther, h]; rfl

/-- The decoder on major 0x3d. -/
theorem decode_major_3D {w : BitVec 32} (h : field w 26 6 = 61#6) : decodeWord w = decodeWait w := by
  rw [decode_other (by rw [h]; decide), decodeOther, h]; rfl

/-- The decoder on major 0x3e. -/
theorem decode_major_3E {w : BitVec 32} (h : field w 26 6 = 62#6) : decodeWord w = decodeEngine w := by
  rw [decode_other (by rw [h]; decide), decodeOther, h]; rfl

end Sys2Proof.Laws
end

