-- ==== Sys2Proof/Laws/PerInstr.lean ====
section
/-! SUPPORT. The round trip of each instruction: decoding its encoded word gives it back (R29, R55, R56). -/

set_option linter.unusedSimpArgs false

namespace Sys2Proof.Laws

/-- The decoder reads the encoder's word of a well-formed instruction as that instruction. -/
def RoundTrip.Statement (i : Instr) : Prop := i.wf = true → i.isWord = true → decodeWord (encode i) = .ok i

theorem RoundTrip.add (d a b : BitVec 5) : RoundTrip.Statement (.add d a b) := by
  intro h _
  change decodeWord ((0x1#6) ++ d ++ a ++ b ++ (0x0#11)) = _
  rw [decode_major_01 (by simp (disch := decide) only [field, field_high, field_low]; try rfl)]
  simp (disch := decide) only [decodeInt, checked, ne_eq, BitVec.ofNat_eq_ofNat, field, field_high, field_low, mask_000007C0]
  simp

theorem RoundTrip.sub (d a b : BitVec 5) : RoundTrip.Statement (.sub d a b) := by
  intro h _
  change decodeWord ((0x1#6) ++ d ++ a ++ b ++ (0x1#11)) = _
  rw [decode_major_01 (by simp (disch := decide) only [field, field_high, field_low]; try rfl)]
  simp (disch := decide) only [decodeInt, checked, ne_eq, BitVec.ofNat_eq_ofNat, field, field_high, field_low, mask_000007C0]
  simp

theorem RoundTrip.and (d a b : BitVec 5) : RoundTrip.Statement (.and d a b) := by
  intro h _
  change decodeWord ((0x1#6) ++ d ++ a ++ b ++ (0x2#11)) = _
  rw [decode_major_01 (by simp (disch := decide) only [field, field_high, field_low]; try rfl)]
  simp (disch := decide) only [decodeInt, checked, ne_eq, BitVec.ofNat_eq_ofNat, field, field_high, field_low, mask_000007C0]
  simp

theorem RoundTrip.or (d a b : BitVec 5) : RoundTrip.Statement (.or d a b) := by
  intro h _
  change decodeWord ((0x1#6) ++ d ++ a ++ b ++ (0x3#11)) = _
  rw [decode_major_01 (by simp (disch := decide) only [field, field_high, field_low]; try rfl)]
  simp (disch := decide) only [decodeInt, checked, ne_eq, BitVec.ofNat_eq_ofNat, field, field_high, field_low, mask_000007C0]
  simp

theorem RoundTrip.xor (d a b : BitVec 5) : RoundTrip.Statement (.xor d a b) := by
  intro h _
  change decodeWord ((0x1#6) ++ d ++ a ++ b ++ (0x4#11)) = _
  rw [decode_major_01 (by simp (disch := decide) only [field, field_high, field_low]; try rfl)]
  simp (disch := decide) only [decodeInt, checked, ne_eq, BitVec.ofNat_eq_ofNat, field, field_high, field_low, mask_000007C0]
  simp

theorem RoundTrip.sll (d a b : BitVec 5) : RoundTrip.Statement (.sll d a b) := by
  intro h _
  change decodeWord ((0x1#6) ++ d ++ a ++ b ++ (0x5#11)) = _
  rw [decode_major_01 (by simp (disch := decide) only [field, field_high, field_low]; try rfl)]
  simp (disch := decide) only [decodeInt, checked, ne_eq, BitVec.ofNat_eq_ofNat, field, field_high, field_low, mask_000007C0]
  simp

theorem RoundTrip.srl (d a b : BitVec 5) : RoundTrip.Statement (.srl d a b) := by
  intro h _
  change decodeWord ((0x1#6) ++ d ++ a ++ b ++ (0x6#11)) = _
  rw [decode_major_01 (by simp (disch := decide) only [field, field_high, field_low]; try rfl)]
  simp (disch := decide) only [decodeInt, checked, ne_eq, BitVec.ofNat_eq_ofNat, field, field_high, field_low, mask_000007C0]
  simp

theorem RoundTrip.sra (d a b : BitVec 5) : RoundTrip.Statement (.sra d a b) := by
  intro h _
  change decodeWord ((0x1#6) ++ d ++ a ++ b ++ (0x7#11)) = _
  rw [decode_major_01 (by simp (disch := decide) only [field, field_high, field_low]; try rfl)]
  simp (disch := decide) only [decodeInt, checked, ne_eq, BitVec.ofNat_eq_ofNat, field, field_high, field_low, mask_000007C0]
  simp

theorem RoundTrip.slt (d a b : BitVec 5) : RoundTrip.Statement (.slt d a b) := by
  intro h _
  change decodeWord ((0x1#6) ++ d ++ a ++ b ++ (0x8#11)) = _
  rw [decode_major_01 (by simp (disch := decide) only [field, field_high, field_low]; try rfl)]
  simp (disch := decide) only [decodeInt, checked, ne_eq, BitVec.ofNat_eq_ofNat, field, field_high, field_low, mask_000007C0]
  simp

theorem RoundTrip.sltu (d a b : BitVec 5) : RoundTrip.Statement (.sltu d a b) := by
  intro h _
  change decodeWord ((0x1#6) ++ d ++ a ++ b ++ (0x9#11)) = _
  rw [decode_major_01 (by simp (disch := decide) only [field, field_high, field_low]; try rfl)]
  simp (disch := decide) only [decodeInt, checked, ne_eq, BitVec.ofNat_eq_ofNat, field, field_high, field_low, mask_000007C0]
  simp

theorem RoundTrip.min (d a b : BitVec 5) : RoundTrip.Statement (.min d a b) := by
  intro h _
  change decodeWord ((0x1#6) ++ d ++ a ++ b ++ (0xA#11)) = _
  rw [decode_major_01 (by simp (disch := decide) only [field, field_high, field_low]; try rfl)]
  simp (disch := decide) only [decodeInt, checked, ne_eq, BitVec.ofNat_eq_ofNat, field, field_high, field_low, mask_000007C0]
  simp

theorem RoundTrip.max (d a b : BitVec 5) : RoundTrip.Statement (.max d a b) := by
  intro h _
  change decodeWord ((0x1#6) ++ d ++ a ++ b ++ (0xB#11)) = _
  rw [decode_major_01 (by simp (disch := decide) only [field, field_high, field_low]; try rfl)]
  simp (disch := decide) only [decodeInt, checked, ne_eq, BitVec.ofNat_eq_ofNat, field, field_high, field_low, mask_000007C0]
  simp

theorem RoundTrip.minu (d a b : BitVec 5) : RoundTrip.Statement (.minu d a b) := by
  intro h _
  change decodeWord ((0x1#6) ++ d ++ a ++ b ++ (0xC#11)) = _
  rw [decode_major_01 (by simp (disch := decide) only [field, field_high, field_low]; try rfl)]
  simp (disch := decide) only [decodeInt, checked, ne_eq, BitVec.ofNat_eq_ofNat, field, field_high, field_low, mask_000007C0]
  simp

theorem RoundTrip.maxu (d a b : BitVec 5) : RoundTrip.Statement (.maxu d a b) := by
  intro h _
  change decodeWord ((0x1#6) ++ d ++ a ++ b ++ (0xD#11)) = _
  rw [decode_major_01 (by simp (disch := decide) only [field, field_high, field_low]; try rfl)]
  simp (disch := decide) only [decodeInt, checked, ne_eq, BitVec.ofNat_eq_ofNat, field, field_high, field_low, mask_000007C0]
  simp

theorem RoundTrip.mul (d a b : BitVec 5) : RoundTrip.Statement (.mul d a b) := by
  intro h _
  change decodeWord ((0x1#6) ++ d ++ a ++ b ++ (0xE#11)) = _
  rw [decode_major_01 (by simp (disch := decide) only [field, field_high, field_low]; try rfl)]
  simp (disch := decide) only [decodeInt, checked, ne_eq, BitVec.ofNat_eq_ofNat, field, field_high, field_low, mask_000007C0]
  simp

theorem RoundTrip.mulh (d a b : BitVec 5) : RoundTrip.Statement (.mulh d a b) := by
  intro h _
  change decodeWord ((0x1#6) ++ d ++ a ++ b ++ (0xF#11)) = _
  rw [decode_major_01 (by simp (disch := decide) only [field, field_high, field_low]; try rfl)]
  simp (disch := decide) only [decodeInt, checked, ne_eq, BitVec.ofNat_eq_ofNat, field, field_high, field_low, mask_000007C0]
  simp

theorem RoundTrip.mulhu (d a b : BitVec 5) : RoundTrip.Statement (.mulhu d a b) := by
  intro h _
  change decodeWord ((0x1#6) ++ d ++ a ++ b ++ (0x10#11)) = _
  rw [decode_major_01 (by simp (disch := decide) only [field, field_high, field_low]; try rfl)]
  simp (disch := decide) only [decodeInt, checked, ne_eq, BitVec.ofNat_eq_ofNat, field, field_high, field_low, mask_000007C0]
  simp

theorem RoundTrip.div (d a b : BitVec 5) : RoundTrip.Statement (.div d a b) := by
  intro h _
  change decodeWord ((0x1#6) ++ d ++ a ++ b ++ (0x11#11)) = _
  rw [decode_major_01 (by simp (disch := decide) only [field, field_high, field_low]; try rfl)]
  simp (disch := decide) only [decodeInt, checked, ne_eq, BitVec.ofNat_eq_ofNat, field, field_high, field_low, mask_000007C0]
  simp

theorem RoundTrip.divu (d a b : BitVec 5) : RoundTrip.Statement (.divu d a b) := by
  intro h _
  change decodeWord ((0x1#6) ++ d ++ a ++ b ++ (0x12#11)) = _
  rw [decode_major_01 (by simp (disch := decide) only [field, field_high, field_low]; try rfl)]
  simp (disch := decide) only [decodeInt, checked, ne_eq, BitVec.ofNat_eq_ofNat, field, field_high, field_low, mask_000007C0]
  simp

theorem RoundTrip.rem (d a b : BitVec 5) : RoundTrip.Statement (.rem d a b) := by
  intro h _
  change decodeWord ((0x1#6) ++ d ++ a ++ b ++ (0x13#11)) = _
  rw [decode_major_01 (by simp (disch := decide) only [field, field_high, field_low]; try rfl)]
  simp (disch := decide) only [decodeInt, checked, ne_eq, BitVec.ofNat_eq_ofNat, field, field_high, field_low, mask_000007C0]
  simp

theorem RoundTrip.remu (d a b : BitVec 5) : RoundTrip.Statement (.remu d a b) := by
  intro h _
  change decodeWord ((0x1#6) ++ d ++ a ++ b ++ (0x14#11)) = _
  rw [decode_major_01 (by simp (disch := decide) only [field, field_high, field_low]; try rfl)]
  simp (disch := decide) only [decodeInt, checked, ne_eq, BitVec.ofNat_eq_ofNat, field, field_high, field_low, mask_000007C0]
  simp

theorem RoundTrip.popc (d a : BitVec 5) : RoundTrip.Statement (.popc d a) := by
  intro h _
  change decodeWord ((0x1#6) ++ d ++ a ++ (0x15#16)) = _
  rw [decode_major_01 (by simp (disch := decide) only [field, field_high, field_low]; try rfl)]
  simp (disch := decide) only [decodeInt, checked, ne_eq, BitVec.ofNat_eq_ofNat, field, field_high, field_low, mask_0000FFC0]
  simp

theorem RoundTrip.clz (d a : BitVec 5) : RoundTrip.Statement (.clz d a) := by
  intro h _
  change decodeWord ((0x1#6) ++ d ++ a ++ (0x16#16)) = _
  rw [decode_major_01 (by simp (disch := decide) only [field, field_high, field_low]; try rfl)]
  simp (disch := decide) only [decodeInt, checked, ne_eq, BitVec.ofNat_eq_ofNat, field, field_high, field_low, mask_0000FFC0]
  simp

theorem RoundTrip.ctz (d a : BitVec 5) : RoundTrip.Statement (.ctz d a) := by
  intro h _
  change decodeWord ((0x1#6) ++ d ++ a ++ (0x17#16)) = _
  rw [decode_major_01 (by simp (disch := decide) only [field, field_high, field_low]; try rfl)]
  simp (disch := decide) only [decodeInt, checked, ne_eq, BitVec.ofNat_eq_ofNat, field, field_high, field_low, mask_0000FFC0]
  simp

theorem RoundTrip.addi (d a : BitVec 5) (i : BitVec 16) : RoundTrip.Statement (.addi d a i) := by
  intro h _
  change decodeWord ((0x2#6) ++ d ++ a ++ i) = _
  rw [decode_major_02 (by simp (disch := decide) only [field, field_high, field_low]; try rfl)]
  simp (disch := decide) only [decodeAddi, checked, ne_eq, BitVec.ofNat_eq_ofNat, field, field_high, field_low]
  simp

theorem RoundTrip.andi (d a : BitVec 5) (i : BitVec 16) : RoundTrip.Statement (.andi d a i) := by
  intro h _
  change decodeWord ((0x3#6) ++ d ++ a ++ i) = _
  rw [decode_major_03 (by simp (disch := decide) only [field, field_high, field_low]; try rfl)]
  simp (disch := decide) only [decodeAndi, checked, ne_eq, BitVec.ofNat_eq_ofNat, field, field_high, field_low]
  simp

theorem RoundTrip.ori (d a : BitVec 5) (i : BitVec 16) : RoundTrip.Statement (.ori d a i) := by
  intro h _
  change decodeWord ((0x4#6) ++ d ++ a ++ i) = _
  rw [decode_major_04 (by simp (disch := decide) only [field, field_high, field_low]; try rfl)]
  simp (disch := decide) only [decodeOri, checked, ne_eq, BitVec.ofNat_eq_ofNat, field, field_high, field_low]
  simp

theorem RoundTrip.xori (d a : BitVec 5) (i : BitVec 16) : RoundTrip.Statement (.xori d a i) := by
  intro h _
  change decodeWord ((0x5#6) ++ d ++ a ++ i) = _
  rw [decode_major_05 (by simp (disch := decide) only [field, field_high, field_low]; try rfl)]
  simp (disch := decide) only [decodeXori, checked, ne_eq, BitVec.ofNat_eq_ofNat, field, field_high, field_low]
  simp

theorem RoundTrip.slti (d a : BitVec 5) (i : BitVec 16) : RoundTrip.Statement (.slti d a i) := by
  intro h _
  change decodeWord ((0x6#6) ++ d ++ a ++ i) = _
  rw [decode_major_06 (by simp (disch := decide) only [field, field_high, field_low]; try rfl)]
  simp (disch := decide) only [decodeSlti, checked, ne_eq, BitVec.ofNat_eq_ofNat, field, field_high, field_low]
  simp

theorem RoundTrip.slli (d a : BitVec 5) (n : BitVec 6) : RoundTrip.Statement (.slli d a n) := by
  intro h _
  change decodeWord ((0x7#6) ++ d ++ a ++ (0x0#10) ++ n) = _
  rw [decode_major_07 (by simp (disch := decide) only [field, field_high, field_low]; try rfl)]
  simp (disch := decide) only [decodeShi, checked, ne_eq, BitVec.ofNat_eq_ofNat, field, field_high, field_low, mask_00003FC0]
  simp

theorem RoundTrip.srli (d a : BitVec 5) (n : BitVec 6) : RoundTrip.Statement (.srli d a n) := by
  intro h _
  change decodeWord ((0x7#6) ++ d ++ a ++ (0x100#10) ++ n) = _
  rw [decode_major_07 (by simp (disch := decide) only [field, field_high, field_low]; try rfl)]
  simp (disch := decide) only [decodeShi, checked, ne_eq, BitVec.ofNat_eq_ofNat, field, field_high, field_low, mask_00003FC0]
  simp

theorem RoundTrip.srai (d a : BitVec 5) (n : BitVec 6) : RoundTrip.Statement (.srai d a n) := by
  intro h _
  change decodeWord ((0x7#6) ++ d ++ a ++ (0x200#10) ++ n) = _
  rw [decode_major_07 (by simp (disch := decide) only [field, field_high, field_low]; try rfl)]
  simp (disch := decide) only [decodeShi, checked, ne_eq, BitVec.ofNat_eq_ofNat, field, field_high, field_low, mask_00003FC0]
  simp

theorem RoundTrip.lui (d : BitVec 5) (i : BitVec 21) : RoundTrip.Statement (.lui d i) := by
  intro h _
  change decodeWord ((0xA#6) ++ d ++ i) = _
  rw [decode_major_0A (by simp (disch := decide) only [field, field_high, field_low]; try rfl)]
  simp (disch := decide) only [decodeLui, checked, ne_eq, BitVec.ofNat_eq_ofNat, field, field_high, field_low]
  simp

theorem RoundTrip.lqa (d : BitVec 5) (i : BitVec 21) : RoundTrip.Statement (.lqa d i) := by
  intro h _
  change decodeWord ((0xB#6) ++ d ++ i) = _
  rw [decode_major_0B (by simp (disch := decide) only [field, field_high, field_low]; try rfl)]
  simp (disch := decide) only [decodeLqa, checked, ne_eq, BitVec.ofNat_eq_ofNat, field, field_high, field_low]
  simp

theorem RoundTrip.ldb (d a : BitVec 5) (c : BitVec 4) (o : BitVec 12) : RoundTrip.Statement (.ldb d a c o) := by
  intro h _
  change decodeWord ((0xC#6) ++ d ++ a ++ c ++ o) = _
  rw [decode_major_0C (by simp (disch := decide) only [field, field_high, field_low]; try rfl)]
  simp (disch := decide) only [decodeLdb, checked, ne_eq, BitVec.ofNat_eq_ofNat, field, field_high, field_low]
  simp

theorem RoundTrip.ldbu (d a : BitVec 5) (c : BitVec 4) (o : BitVec 12) : RoundTrip.Statement (.ldbu d a c o) := by
  intro h _
  change decodeWord ((0xD#6) ++ d ++ a ++ c ++ o) = _
  rw [decode_major_0D (by simp (disch := decide) only [field, field_high, field_low]; try rfl)]
  simp (disch := decide) only [decodeLdbu, checked, ne_eq, BitVec.ofNat_eq_ofNat, field, field_high, field_low]
  simp

theorem RoundTrip.ldh (d a : BitVec 5) (c : BitVec 4) (o : BitVec 12) : RoundTrip.Statement (.ldh d a c o) := by
  intro h _
  change decodeWord ((0xE#6) ++ d ++ a ++ c ++ o) = _
  rw [decode_major_0E (by simp (disch := decide) only [field, field_high, field_low]; try rfl)]
  simp (disch := decide) only [decodeLdh, checked, ne_eq, BitVec.ofNat_eq_ofNat, field, field_high, field_low]
  simp

theorem RoundTrip.ldhu (d a : BitVec 5) (c : BitVec 4) (o : BitVec 12) : RoundTrip.Statement (.ldhu d a c o) := by
  intro h _
  change decodeWord ((0xF#6) ++ d ++ a ++ c ++ o) = _
  rw [decode_major_0F (by simp (disch := decide) only [field, field_high, field_low]; try rfl)]
  simp (disch := decide) only [decodeLdhu, checked, ne_eq, BitVec.ofNat_eq_ofNat, field, field_high, field_low]
  simp

theorem RoundTrip.ldw (d a : BitVec 5) (c : BitVec 4) (o : BitVec 12) : RoundTrip.Statement (.ldw d a c o) := by
  intro h _
  change decodeWord ((0x10#6) ++ d ++ a ++ c ++ o) = _
  rw [decode_major_10 (by simp (disch := decide) only [field, field_high, field_low]; try rfl)]
  simp (disch := decide) only [decodeLdw, checked, ne_eq, BitVec.ofNat_eq_ofNat, field, field_high, field_low]
  simp

theorem RoundTrip.ldwu (d a : BitVec 5) (c : BitVec 4) (o : BitVec 12) : RoundTrip.Statement (.ldwu d a c o) := by
  intro h _
  change decodeWord ((0x11#6) ++ d ++ a ++ c ++ o) = _
  rw [decode_major_11 (by simp (disch := decide) only [field, field_high, field_low]; try rfl)]
  simp (disch := decide) only [decodeLdwu, checked, ne_eq, BitVec.ofNat_eq_ofNat, field, field_high, field_low]
  simp

theorem RoundTrip.ldd (d a : BitVec 5) (c : BitVec 4) (o : BitVec 12) : RoundTrip.Statement (.ldd d a c o) := by
  intro h _
  change decodeWord ((0x12#6) ++ d ++ a ++ c ++ o) = _
  rw [decode_major_12 (by simp (disch := decide) only [field, field_high, field_low]; try rfl)]
  simp (disch := decide) only [decodeLdd, checked, ne_eq, BitVec.ofNat_eq_ofNat, field, field_high, field_low]
  simp

theorem RoundTrip.stb (d a : BitVec 5) (c : BitVec 4) (o : BitVec 12) : RoundTrip.Statement (.stb d a c o) := by
  intro h _
  change decodeWord ((0x13#6) ++ d ++ a ++ c ++ o) = _
  rw [decode_major_13 (by simp (disch := decide) only [field, field_high, field_low]; try rfl)]
  simp (disch := decide) only [decodeStb, checked, ne_eq, BitVec.ofNat_eq_ofNat, field, field_high, field_low]
  simp

theorem RoundTrip.sth (d a : BitVec 5) (c : BitVec 4) (o : BitVec 12) : RoundTrip.Statement (.sth d a c o) := by
  intro h _
  change decodeWord ((0x14#6) ++ d ++ a ++ c ++ o) = _
  rw [decode_major_14 (by simp (disch := decide) only [field, field_high, field_low]; try rfl)]
  simp (disch := decide) only [decodeSth, checked, ne_eq, BitVec.ofNat_eq_ofNat, field, field_high, field_low]
  simp

theorem RoundTrip.stw (d a : BitVec 5) (c : BitVec 4) (o : BitVec 12) : RoundTrip.Statement (.stw d a c o) := by
  intro h _
  change decodeWord ((0x15#6) ++ d ++ a ++ c ++ o) = _
  rw [decode_major_15 (by simp (disch := decide) only [field, field_high, field_low]; try rfl)]
  simp (disch := decide) only [decodeStw, checked, ne_eq, BitVec.ofNat_eq_ofNat, field, field_high, field_low]
  simp

theorem RoundTrip.std (d a : BitVec 5) (c : BitVec 4) (o : BitVec 12) : RoundTrip.Statement (.std d a c o) := by
  intro h _
  change decodeWord ((0x16#6) ++ d ++ a ++ c ++ o) = _
  rw [decode_major_16 (by simp (disch := decide) only [field, field_high, field_low]; try rfl)]
  simp (disch := decide) only [decodeStd, checked, ne_eq, BitVec.ofNat_eq_ofNat, field, field_high, field_low]
  simp

theorem RoundTrip.beq (a b : BitVec 5) (o : BitVec 16) : RoundTrip.Statement (.beq a b o) := by
  intro h _
  change decodeWord ((0x17#6) ++ a ++ b ++ o) = _
  rw [decode_major_17 (by simp (disch := decide) only [field, field_high, field_low]; try rfl)]
  simp (disch := decide) only [decodeBeq, checked, ne_eq, BitVec.ofNat_eq_ofNat, field, field_high, field_low]
  simp

theorem RoundTrip.bne (a b : BitVec 5) (o : BitVec 16) : RoundTrip.Statement (.bne a b o) := by
  intro h _
  change decodeWord ((0x18#6) ++ a ++ b ++ o) = _
  rw [decode_major_18 (by simp (disch := decide) only [field, field_high, field_low]; try rfl)]
  simp (disch := decide) only [decodeBne, checked, ne_eq, BitVec.ofNat_eq_ofNat, field, field_high, field_low]
  simp

theorem RoundTrip.blt (a b : BitVec 5) (o : BitVec 16) : RoundTrip.Statement (.blt a b o) := by
  intro h _
  change decodeWord ((0x19#6) ++ a ++ b ++ o) = _
  rw [decode_major_19 (by simp (disch := decide) only [field, field_high, field_low]; try rfl)]
  simp (disch := decide) only [decodeBlt, checked, ne_eq, BitVec.ofNat_eq_ofNat, field, field_high, field_low]
  simp

theorem RoundTrip.bge (a b : BitVec 5) (o : BitVec 16) : RoundTrip.Statement (.bge a b o) := by
  intro h _
  change decodeWord ((0x1A#6) ++ a ++ b ++ o) = _
  rw [decode_major_1A (by simp (disch := decide) only [field, field_high, field_low]; try rfl)]
  simp (disch := decide) only [decodeBge, checked, ne_eq, BitVec.ofNat_eq_ofNat, field, field_high, field_low]
  simp

theorem RoundTrip.bltu (a b : BitVec 5) (o : BitVec 16) : RoundTrip.Statement (.bltu a b o) := by
  intro h _
  change decodeWord ((0x1B#6) ++ a ++ b ++ o) = _
  rw [decode_major_1B (by simp (disch := decide) only [field, field_high, field_low]; try rfl)]
  simp (disch := decide) only [decodeBltu, checked, ne_eq, BitVec.ofNat_eq_ofNat, field, field_high, field_low]
  simp

theorem RoundTrip.bgeu (a b : BitVec 5) (o : BitVec 16) : RoundTrip.Statement (.bgeu a b o) := by
  intro h _
  change decodeWord ((0x1C#6) ++ a ++ b ++ o) = _
  rw [decode_major_1C (by simp (disch := decide) only [field, field_high, field_low]; try rfl)]
  simp (disch := decide) only [decodeBgeu, checked, ne_eq, BitVec.ofNat_eq_ofNat, field, field_high, field_low]
  simp

theorem RoundTrip.j (o : BitVec 26) : RoundTrip.Statement (.j o) := by
  intro h _
  change decodeWord ((0x1D#6) ++ o) = _
  rw [decode_major_1D (by simp (disch := decide) only [field, field_high, field_low]; try rfl)]
  simp (disch := decide) only [decodeJ, checked, ne_eq, BitVec.ofNat_eq_ofNat, field, field_high, field_low]
  simp

theorem RoundTrip.jal (o : BitVec 26) : RoundTrip.Statement (.jal o) := by
  intro h _
  change decodeWord ((0x1E#6) ++ o) = _
  rw [decode_major_1E (by simp (disch := decide) only [field, field_high, field_low]; try rfl)]
  simp (disch := decide) only [decodeJal, checked, ne_eq, BitVec.ofNat_eq_ofNat, field, field_high, field_low]
  simp

theorem RoundTrip.jalr (d a : BitVec 5) (i : BitVec 16) : RoundTrip.Statement (.jalr d a i) := by
  intro h _
  change decodeWord ((0x1F#6) ++ d ++ a ++ i) = _
  rw [decode_major_1F (by simp (disch := decide) only [field, field_high, field_low]; try rfl)]
  simp (disch := decide) only [decodeJalr, checked, ne_eq, BitVec.ofNat_eq_ofNat, field, field_high, field_low]
  simp

theorem RoundTrip.fadd (d a b : BitVec 5) : RoundTrip.Statement (.fadd d a b) := by
  intro h _
  change decodeWord ((0x8#6) ++ d ++ a ++ b ++ (0x0#11)) = _
  rw [decode_major_08 (by simp (disch := decide) only [field, field_high, field_low]; try rfl)]
  simp (disch := decide) only [decodeFps, checked, ne_eq, BitVec.ofNat_eq_ofNat, field, field_high, field_low, mask_000007C0]
  simp

theorem RoundTrip.fsub (d a b : BitVec 5) : RoundTrip.Statement (.fsub d a b) := by
  intro h _
  change decodeWord ((0x8#6) ++ d ++ a ++ b ++ (0x1#11)) = _
  rw [decode_major_08 (by simp (disch := decide) only [field, field_high, field_low]; try rfl)]
  simp (disch := decide) only [decodeFps, checked, ne_eq, BitVec.ofNat_eq_ofNat, field, field_high, field_low, mask_000007C0]
  simp

theorem RoundTrip.fmul (d a b : BitVec 5) : RoundTrip.Statement (.fmul d a b) := by
  intro h _
  change decodeWord ((0x8#6) ++ d ++ a ++ b ++ (0x2#11)) = _
  rw [decode_major_08 (by simp (disch := decide) only [field, field_high, field_low]; try rfl)]
  simp (disch := decide) only [decodeFps, checked, ne_eq, BitVec.ofNat_eq_ofNat, field, field_high, field_low, mask_000007C0]
  simp

theorem RoundTrip.fdiv (d a b : BitVec 5) : RoundTrip.Statement (.fdiv d a b) := by
  intro h _
  change decodeWord ((0x8#6) ++ d ++ a ++ b ++ (0x3#11)) = _
  rw [decode_major_08 (by simp (disch := decide) only [field, field_high, field_low]; try rfl)]
  simp (disch := decide) only [decodeFps, checked, ne_eq, BitVec.ofNat_eq_ofNat, field, field_high, field_low, mask_000007C0]
  simp

theorem RoundTrip.fsqrt (d a : BitVec 5) : RoundTrip.Statement (.fsqrt d a) := by
  intro h _
  change decodeWord ((0x8#6) ++ d ++ a ++ (0x4#16)) = _
  rw [decode_major_08 (by simp (disch := decide) only [field, field_high, field_low]; try rfl)]
  simp (disch := decide) only [decodeFps, checked, ne_eq, BitVec.ofNat_eq_ofNat, field, field_high, field_low, mask_0000FFC0]
  simp

theorem RoundTrip.fmin (d a b : BitVec 5) : RoundTrip.Statement (.fmin d a b) := by
  intro h _
  change decodeWord ((0x8#6) ++ d ++ a ++ b ++ (0x5#11)) = _
  rw [decode_major_08 (by simp (disch := decide) only [field, field_high, field_low]; try rfl)]
  simp (disch := decide) only [decodeFps, checked, ne_eq, BitVec.ofNat_eq_ofNat, field, field_high, field_low, mask_000007C0]
  simp

theorem RoundTrip.fmax (d a b : BitVec 5) : RoundTrip.Statement (.fmax d a b) := by
  intro h _
  change decodeWord ((0x8#6) ++ d ++ a ++ b ++ (0x6#11)) = _
  rw [decode_major_08 (by simp (disch := decide) only [field, field_high, field_low]; try rfl)]
  simp (disch := decide) only [decodeFps, checked, ne_eq, BitVec.ofNat_eq_ofNat, field, field_high, field_low, mask_000007C0]
  simp

theorem RoundTrip.feq (d a b : BitVec 5) : RoundTrip.Statement (.feq d a b) := by
  intro h _
  change decodeWord ((0x8#6) ++ d ++ a ++ b ++ (0x7#11)) = _
  rw [decode_major_08 (by simp (disch := decide) only [field, field_high, field_low]; try rfl)]
  simp (disch := decide) only [decodeFps, checked, ne_eq, BitVec.ofNat_eq_ofNat, field, field_high, field_low, mask_000007C0]
  simp

theorem RoundTrip.flt (d a b : BitVec 5) : RoundTrip.Statement (.flt d a b) := by
  intro h _
  change decodeWord ((0x8#6) ++ d ++ a ++ b ++ (0x8#11)) = _
  rw [decode_major_08 (by simp (disch := decide) only [field, field_high, field_low]; try rfl)]
  simp (disch := decide) only [decodeFps, checked, ne_eq, BitVec.ofNat_eq_ofNat, field, field_high, field_low, mask_000007C0]
  simp

theorem RoundTrip.fle (d a b : BitVec 5) : RoundTrip.Statement (.fle d a b) := by
  intro h _
  change decodeWord ((0x8#6) ++ d ++ a ++ b ++ (0x9#11)) = _
  rw [decode_major_08 (by simp (disch := decide) only [field, field_high, field_low]; try rfl)]
  simp (disch := decide) only [decodeFps, checked, ne_eq, BitVec.ofNat_eq_ofNat, field, field_high, field_low, mask_000007C0]
  simp

theorem RoundTrip.fcvtfi (d a : BitVec 5) : RoundTrip.Statement (.fcvtfi d a) := by
  intro h _
  change decodeWord ((0x8#6) ++ d ++ a ++ (0xA#16)) = _
  rw [decode_major_08 (by simp (disch := decide) only [field, field_high, field_low]; try rfl)]
  simp (disch := decide) only [decodeFps, checked, ne_eq, BitVec.ofNat_eq_ofNat, field, field_high, field_low, mask_0000FFC0]
  simp

theorem RoundTrip.fcvtif (d a : BitVec 5) : RoundTrip.Statement (.fcvtif d a) := by
  intro h _
  change decodeWord ((0x8#6) ++ d ++ a ++ (0xB#16)) = _
  rw [decode_major_08 (by simp (disch := decide) only [field, field_high, field_low]; try rfl)]
  simp (disch := decide) only [decodeFps, checked, ne_eq, BitVec.ofNat_eq_ofNat, field, field_high, field_low, mask_0000FFC0]
  simp

theorem RoundTrip.vfceq (d a b : BitVec 5) (k e : BitVec 3) (l s : BitVec 1) : RoundTrip.Statement (.vfceq d a b k e l s) := by
  intro h _
  replace h : ((d.toNat ≤ 7) : Bool) = true := h
  simp only [Bool.and_eq_true, decide_eq_true_eq] at h
  change decodeWord ((0x9#6) ++ d ++ a ++ b ++ k ++ e ++ l ++ s ++ (0x0#3)) = _
  rw [decode_major_09 (by simp (disch := decide) only [field, field_high, field_low]; try rfl)]
  simp (disch := decide) only [decodeVfcmp, checked, ne_eq, BitVec.ofNat_eq_ofNat, field, field_high, field_low]
  simp [h]

theorem RoundTrip.vfcne (d a b : BitVec 5) (k e : BitVec 3) (l s : BitVec 1) : RoundTrip.Statement (.vfcne d a b k e l s) := by
  intro h _
  replace h : ((d.toNat ≤ 7) : Bool) = true := h
  simp only [Bool.and_eq_true, decide_eq_true_eq] at h
  change decodeWord ((0x9#6) ++ d ++ a ++ b ++ k ++ e ++ l ++ s ++ (0x1#3)) = _
  rw [decode_major_09 (by simp (disch := decide) only [field, field_high, field_low]; try rfl)]
  simp (disch := decide) only [decodeVfcmp, checked, ne_eq, BitVec.ofNat_eq_ofNat, field, field_high, field_low]
  simp [h]

theorem RoundTrip.vfclt (d a b : BitVec 5) (k e : BitVec 3) (l s : BitVec 1) : RoundTrip.Statement (.vfclt d a b k e l s) := by
  intro h _
  replace h : ((d.toNat ≤ 7) : Bool) = true := h
  simp only [Bool.and_eq_true, decide_eq_true_eq] at h
  change decodeWord ((0x9#6) ++ d ++ a ++ b ++ k ++ e ++ l ++ s ++ (0x2#3)) = _
  rw [decode_major_09 (by simp (disch := decide) only [field, field_high, field_low]; try rfl)]
  simp (disch := decide) only [decodeVfcmp, checked, ne_eq, BitVec.ofNat_eq_ofNat, field, field_high, field_low]
  simp [h]

theorem RoundTrip.vfcle (d a b : BitVec 5) (k e : BitVec 3) (l s : BitVec 1) : RoundTrip.Statement (.vfcle d a b k e l s) := by
  intro h _
  replace h : ((d.toNat ≤ 7) : Bool) = true := h
  simp only [Bool.and_eq_true, decide_eq_true_eq] at h
  change decodeWord ((0x9#6) ++ d ++ a ++ b ++ k ++ e ++ l ++ s ++ (0x3#3)) = _
  rw [decode_major_09 (by simp (disch := decide) only [field, field_high, field_low]; try rfl)]
  simp (disch := decide) only [decodeVfcmp, checked, ne_eq, BitVec.ofNat_eq_ofNat, field, field_high, field_low]
  simp [h]

theorem RoundTrip.vfcgt (d a b : BitVec 5) (k e : BitVec 3) (l s : BitVec 1) : RoundTrip.Statement (.vfcgt d a b k e l s) := by
  intro h _
  replace h : ((d.toNat ≤ 7) : Bool) = true := h
  simp only [Bool.and_eq_true, decide_eq_true_eq] at h
  change decodeWord ((0x9#6) ++ d ++ a ++ b ++ k ++ e ++ l ++ s ++ (0x4#3)) = _
  rw [decode_major_09 (by simp (disch := decide) only [field, field_high, field_low]; try rfl)]
  simp (disch := decide) only [decodeVfcmp, checked, ne_eq, BitVec.ofNat_eq_ofNat, field, field_high, field_low]
  simp [h]

theorem RoundTrip.vfcge (d a b : BitVec 5) (k e : BitVec 3) (l s : BitVec 1) : RoundTrip.Statement (.vfcge d a b k e l s) := by
  intro h _
  replace h : ((d.toNat ≤ 7) : Bool) = true := h
  simp only [Bool.and_eq_true, decide_eq_true_eq] at h
  change decodeWord ((0x9#6) ++ d ++ a ++ b ++ k ++ e ++ l ++ s ++ (0x5#3)) = _
  rw [decode_major_09 (by simp (disch := decide) only [field, field_high, field_low]; try rfl)]
  simp (disch := decide) only [decodeVfcmp, checked, ne_eq, BitVec.ofNat_eq_ofNat, field, field_high, field_low]
  simp [h]

theorem RoundTrip.vfcun (d a b : BitVec 5) (k e : BitVec 3) (l s : BitVec 1) : RoundTrip.Statement (.vfcun d a b k e l s) := by
  intro h _
  replace h : ((d.toNat ≤ 7) : Bool) = true := h
  simp only [Bool.and_eq_true, decide_eq_true_eq] at h
  change decodeWord ((0x9#6) ++ d ++ a ++ b ++ k ++ e ++ l ++ s ++ (0x6#3)) = _
  rw [decode_major_09 (by simp (disch := decide) only [field, field_high, field_low]; try rfl)]
  simp (disch := decide) only [decodeVfcmp, checked, ne_eq, BitVec.ofNat_eq_ofNat, field, field_high, field_low]
  simp [h]

theorem RoundTrip.csrr (d : BitVec 5) (c : BitVec 12) : RoundTrip.Statement (.csrr d c) := by
  intro h _
  replace h : (csrReadable c.toNat : Bool) = true := h
  change decodeWord ((0x20#6) ++ d ++ (0x0#5) ++ c ++ (0x0#4)) = _
  rw [decode_major_20 (by simp (disch := decide) only [field, field_high, field_low]; try rfl)]
  simp (disch := decide) only [decodeCtl, checked, ne_eq, BitVec.ofNat_eq_ofNat, field, field_high, field_low, mask_001F0000]
  simp [h]

theorem RoundTrip.csrw (a : BitVec 5) (c : BitVec 12) : RoundTrip.Statement (.csrw a c) := by
  intro h _
  replace h : (csrWritable c.toNat : Bool) = true := h
  change decodeWord ((0x400#11) ++ a ++ c ++ (0x1#4)) = _
  rw [decode_major_20 (by simp (disch := decide) only [field, field_high, field_low]; try rfl)]
  simp (disch := decide) only [decodeCtl, checked, ne_eq, BitVec.ofNat_eq_ofNat, field, field_high, field_low, mask_03E00000]
  simp [h]

theorem RoundTrip.csrs (a : BitVec 5) (c : BitVec 12) : RoundTrip.Statement (.csrs a c) := by
  intro h _
  replace h : (csrWritable c.toNat : Bool) = true := h
  change decodeWord ((0x400#11) ++ a ++ c ++ (0x2#4)) = _
  rw [decode_major_20 (by simp (disch := decide) only [field, field_high, field_low]; try rfl)]
  simp (disch := decide) only [decodeCtl, checked, ne_eq, BitVec.ofNat_eq_ofNat, field, field_high, field_low, mask_03E00000]
  simp [h]

theorem RoundTrip.csrc (a : BitVec 5) (c : BitVec 12) : RoundTrip.Statement (.csrc a c) := by
  intro h _
  replace h : (csrWritable c.toNat : Bool) = true := h
  change decodeWord ((0x400#11) ++ a ++ c ++ (0x3#4)) = _
  rw [decode_major_20 (by simp (disch := decide) only [field, field_high, field_low]; try rfl)]
  simp (disch := decide) only [decodeCtl, checked, ne_eq, BitVec.ofNat_eq_ofNat, field, field_high, field_low, mask_03E00000]
  simp [h]

theorem RoundTrip.trapu (n : BitVec 12) : RoundTrip.Statement (.trapu n) := by
  intro h _
  change decodeWord ((0x8000#16) ++ n ++ (0x5#4)) = _
  rw [decode_major_20 (by simp (disch := decide) only [field, field_high, field_low]; try rfl)]
  simp (disch := decide) only [decodeCtl, checked, ne_eq, BitVec.ofNat_eq_ofNat, field, field_high, field_low, mask_03FF0000]
  simp

theorem RoundTrip.setvl (d a : BitVec 5) : RoundTrip.Statement (.setvl d a) := by
  intro h _
  change decodeWord ((0x21#6) ++ d ++ a ++ (0x0#16)) = _
  rw [decode_major_21 (by simp (disch := decide) only [field, field_high, field_low]; try rfl)]
  simp (disch := decide) only [decodeVcfg, checked, ne_eq, BitVec.ofNat_eq_ofNat, field, field_high, field_low, mask_0000FFC0]
  simp

theorem RoundTrip.setvlhw (d a b : BitVec 5) : RoundTrip.Statement (.setvlhw d a b) := by
  intro h _
  change decodeWord ((0x21#6) ++ d ++ a ++ b ++ (0x1#11)) = _
  rw [decode_major_21 (by simp (disch := decide) only [field, field_high, field_low]; try rfl)]
  simp (disch := decide) only [decodeVcfg, checked, ne_eq, BitVec.ofNat_eq_ofNat, field, field_high, field_low, mask_000007C0]
  simp

theorem RoundTrip.settype (d a : BitVec 5) : RoundTrip.Statement (.settype d a) := by
  intro h _
  change decodeWord ((0x21#6) ++ d ++ a ++ (0x2#16)) = _
  rw [decode_major_21 (by simp (disch := decide) only [field, field_high, field_low]; try rfl)]
  simp (disch := decide) only [decodeVcfg, checked, ne_eq, BitVec.ofNat_eq_ofNat, field, field_high, field_low, mask_0000FFC0]
  simp

theorem RoundTrip.vadd (d a b : BitVec 5) (k : BitVec 3) (l s : BitVec 1) : RoundTrip.Statement (.vadd d a b k l s) := by
  intro h _
  change decodeWord ((0x22#6) ++ d ++ a ++ b ++ k ++ (0x0#3) ++ l ++ s ++ (0x0#3)) = _
  rw [decode_major_22 (by simp (disch := decide) only [field, field_high, field_low]; try rfl)]
  simp (disch := decide) only [decodeVint, checked, ne_eq, BitVec.ofNat_eq_ofNat, field, field_high, field_low, mask_000000E0]
  simp

theorem RoundTrip.vsub (d a b : BitVec 5) (k : BitVec 3) (l s : BitVec 1) : RoundTrip.Statement (.vsub d a b k l s) := by
  intro h _
  change decodeWord ((0x22#6) ++ d ++ a ++ b ++ k ++ (0x0#3) ++ l ++ s ++ (0x1#3)) = _
  rw [decode_major_22 (by simp (disch := decide) only [field, field_high, field_low]; try rfl)]
  simp (disch := decide) only [decodeVint, checked, ne_eq, BitVec.ofNat_eq_ofNat, field, field_high, field_low, mask_000000E0]
  simp

theorem RoundTrip.vmul (d a b : BitVec 5) (k : BitVec 3) (l s : BitVec 1) : RoundTrip.Statement (.vmul d a b k l s) := by
  intro h _
  change decodeWord ((0x22#6) ++ d ++ a ++ b ++ k ++ (0x0#3) ++ l ++ s ++ (0x2#3)) = _
  rw [decode_major_22 (by simp (disch := decide) only [field, field_high, field_low]; try rfl)]
  simp (disch := decide) only [decodeVint, checked, ne_eq, BitVec.ofNat_eq_ofNat, field, field_high, field_low, mask_000000E0]
  simp

theorem RoundTrip.vmulh (d a b : BitVec 5) (k : BitVec 3) (l s : BitVec 1) : RoundTrip.Statement (.vmulh d a b k l s) := by
  intro h _
  change decodeWord ((0x22#6) ++ d ++ a ++ b ++ k ++ (0x0#3) ++ l ++ s ++ (0x3#3)) = _
  rw [decode_major_22 (by simp (disch := decide) only [field, field_high, field_low]; try rfl)]
  simp (disch := decide) only [decodeVint, checked, ne_eq, BitVec.ofNat_eq_ofNat, field, field_high, field_low, mask_000000E0]
  simp

theorem RoundTrip.vmin (d a b : BitVec 5) (k : BitVec 3) (l s : BitVec 1) : RoundTrip.Statement (.vmin d a b k l s) := by
  intro h _
  change decodeWord ((0x22#6) ++ d ++ a ++ b ++ k ++ (0x0#3) ++ l ++ s ++ (0x4#3)) = _
  rw [decode_major_22 (by simp (disch := decide) only [field, field_high, field_low]; try rfl)]
  simp (disch := decide) only [decodeVint, checked, ne_eq, BitVec.ofNat_eq_ofNat, field, field_high, field_low, mask_000000E0]
  simp

theorem RoundTrip.vmax (d a b : BitVec 5) (k : BitVec 3) (l s : BitVec 1) : RoundTrip.Statement (.vmax d a b k l s) := by
  intro h _
  change decodeWord ((0x22#6) ++ d ++ a ++ b ++ k ++ (0x0#3) ++ l ++ s ++ (0x5#3)) = _
  rw [decode_major_22 (by simp (disch := decide) only [field, field_high, field_low]; try rfl)]
  simp (disch := decide) only [decodeVint, checked, ne_eq, BitVec.ofNat_eq_ofNat, field, field_high, field_low, mask_000000E0]
  simp

theorem RoundTrip.vminu (d a b : BitVec 5) (k : BitVec 3) (l s : BitVec 1) : RoundTrip.Statement (.vminu d a b k l s) := by
  intro h _
  change decodeWord ((0x22#6) ++ d ++ a ++ b ++ k ++ (0x0#3) ++ l ++ s ++ (0x6#3)) = _
  rw [decode_major_22 (by simp (disch := decide) only [field, field_high, field_low]; try rfl)]
  simp (disch := decide) only [decodeVint, checked, ne_eq, BitVec.ofNat_eq_ofNat, field, field_high, field_low, mask_000000E0]
  simp

theorem RoundTrip.vmaxu (d a b : BitVec 5) (k : BitVec 3) (l s : BitVec 1) : RoundTrip.Statement (.vmaxu d a b k l s) := by
  intro h _
  change decodeWord ((0x22#6) ++ d ++ a ++ b ++ k ++ (0x0#3) ++ l ++ s ++ (0x7#3)) = _
  rw [decode_major_22 (by simp (disch := decide) only [field, field_high, field_low]; try rfl)]
  simp (disch := decide) only [decodeVint, checked, ne_eq, BitVec.ofNat_eq_ofNat, field, field_high, field_low, mask_000000E0]
  simp

theorem RoundTrip.vand (d a b : BitVec 5) (k : BitVec 3) (l s : BitVec 1) : RoundTrip.Statement (.vand d a b k l s) := by
  intro h _
  change decodeWord ((0x23#6) ++ d ++ a ++ b ++ k ++ (0x0#3) ++ l ++ s ++ (0x0#3)) = _
  rw [decode_major_23 (by simp (disch := decide) only [field, field_high, field_low]; try rfl)]
  simp (disch := decide) only [decodeVlog, checked, ne_eq, BitVec.ofNat_eq_ofNat, field, field_high, field_low, mask_000000E0]
  simp

theorem RoundTrip.vor (d a b : BitVec 5) (k : BitVec 3) (l s : BitVec 1) : RoundTrip.Statement (.vor d a b k l s) := by
  intro h _
  change decodeWord ((0x23#6) ++ d ++ a ++ b ++ k ++ (0x0#3) ++ l ++ s ++ (0x1#3)) = _
  rw [decode_major_23 (by simp (disch := decide) only [field, field_high, field_low]; try rfl)]
  simp (disch := decide) only [decodeVlog, checked, ne_eq, BitVec.ofNat_eq_ofNat, field, field_high, field_low, mask_000000E0]
  simp

theorem RoundTrip.vxor (d a b : BitVec 5) (k : BitVec 3) (l s : BitVec 1) : RoundTrip.Statement (.vxor d a b k l s) := by
  intro h _
  change decodeWord ((0x23#6) ++ d ++ a ++ b ++ k ++ (0x0#3) ++ l ++ s ++ (0x2#3)) = _
  rw [decode_major_23 (by simp (disch := decide) only [field, field_high, field_low]; try rfl)]
  simp (disch := decide) only [decodeVlog, checked, ne_eq, BitVec.ofNat_eq_ofNat, field, field_high, field_low, mask_000000E0]
  simp

theorem RoundTrip.vsll (d a b : BitVec 5) (k : BitVec 3) (l s : BitVec 1) : RoundTrip.Statement (.vsll d a b k l s) := by
  intro h _
  change decodeWord ((0x23#6) ++ d ++ a ++ b ++ k ++ (0x0#3) ++ l ++ s ++ (0x3#3)) = _
  rw [decode_major_23 (by simp (disch := decide) only [field, field_high, field_low]; try rfl)]
  simp (disch := decide) only [decodeVlog, checked, ne_eq, BitVec.ofNat_eq_ofNat, field, field_high, field_low, mask_000000E0]
  simp

theorem RoundTrip.vsrl (d a b : BitVec 5) (k : BitVec 3) (l s : BitVec 1) : RoundTrip.Statement (.vsrl d a b k l s) := by
  intro h _
  change decodeWord ((0x23#6) ++ d ++ a ++ b ++ k ++ (0x0#3) ++ l ++ s ++ (0x4#3)) = _
  rw [decode_major_23 (by simp (disch := decide) only [field, field_high, field_low]; try rfl)]
  simp (disch := decide) only [decodeVlog, checked, ne_eq, BitVec.ofNat_eq_ofNat, field, field_high, field_low, mask_000000E0]
  simp

theorem RoundTrip.vsra (d a b : BitVec 5) (k : BitVec 3) (l s : BitVec 1) : RoundTrip.Statement (.vsra d a b k l s) := by
  intro h _
  change decodeWord ((0x23#6) ++ d ++ a ++ b ++ k ++ (0x0#3) ++ l ++ s ++ (0x5#3)) = _
  rw [decode_major_23 (by simp (disch := decide) only [field, field_high, field_low]; try rfl)]
  simp (disch := decide) only [decodeVlog, checked, ne_eq, BitVec.ofNat_eq_ofNat, field, field_high, field_low, mask_000000E0]
  simp

theorem RoundTrip.vpopc (d a : BitVec 5) (k : BitVec 3) (l : BitVec 1) : RoundTrip.Statement (.vpopc d a k l) := by
  intro h _
  change decodeWord ((0x23#6) ++ d ++ a ++ (0x0#5) ++ k ++ (0x0#3) ++ l ++ (0x6#4)) = _
  rw [decode_major_23 (by simp (disch := decide) only [field, field_high, field_low]; try rfl)]
  simp (disch := decide) only [decodeVlog, checked, ne_eq, BitVec.ofNat_eq_ofNat, field, field_high, field_low, mask_0000F8E8]
  simp

theorem RoundTrip.vclz (d a : BitVec 5) (k : BitVec 3) (l : BitVec 1) : RoundTrip.Statement (.vclz d a k l) := by
  intro h _
  change decodeWord ((0x23#6) ++ d ++ a ++ (0x0#5) ++ k ++ (0x0#3) ++ l ++ (0x7#4)) = _
  rw [decode_major_23 (by simp (disch := decide) only [field, field_high, field_low]; try rfl)]
  simp (disch := decide) only [decodeVlog, checked, ne_eq, BitVec.ofNat_eq_ofNat, field, field_high, field_low, mask_0000F8E8]
  simp

theorem RoundTrip.vfadd (d a b : BitVec 5) (k e : BitVec 3) (l s : BitVec 1) : RoundTrip.Statement (.vfadd d a b k e l s) := by
  intro h _
  change decodeWord ((0x24#6) ++ d ++ a ++ b ++ k ++ e ++ l ++ s ++ (0x0#3)) = _
  rw [decode_major_24 (by simp (disch := decide) only [field, field_high, field_low]; try rfl)]
  simp (disch := decide) only [decodeVfp, checked, ne_eq, BitVec.ofNat_eq_ofNat, field, field_high, field_low]
  simp

theorem RoundTrip.vfsub (d a b : BitVec 5) (k e : BitVec 3) (l s : BitVec 1) : RoundTrip.Statement (.vfsub d a b k e l s) := by
  intro h _
  change decodeWord ((0x24#6) ++ d ++ a ++ b ++ k ++ e ++ l ++ s ++ (0x1#3)) = _
  rw [decode_major_24 (by simp (disch := decide) only [field, field_high, field_low]; try rfl)]
  simp (disch := decide) only [decodeVfp, checked, ne_eq, BitVec.ofNat_eq_ofNat, field, field_high, field_low]
  simp

theorem RoundTrip.vfmul (d a b : BitVec 5) (k e : BitVec 3) (l s : BitVec 1) : RoundTrip.Statement (.vfmul d a b k e l s) := by
  intro h _
  change decodeWord ((0x24#6) ++ d ++ a ++ b ++ k ++ e ++ l ++ s ++ (0x2#3)) = _
  rw [decode_major_24 (by simp (disch := decide) only [field, field_high, field_low]; try rfl)]
  simp (disch := decide) only [decodeVfp, checked, ne_eq, BitVec.ofNat_eq_ofNat, field, field_high, field_low]
  simp

theorem RoundTrip.vfdiv (d a b : BitVec 5) (k e : BitVec 3) (l s : BitVec 1) : RoundTrip.Statement (.vfdiv d a b k e l s) := by
  intro h _
  change decodeWord ((0x24#6) ++ d ++ a ++ b ++ k ++ e ++ l ++ s ++ (0x3#3)) = _
  rw [decode_major_24 (by simp (disch := decide) only [field, field_high, field_low]; try rfl)]
  simp (disch := decide) only [decodeVfp, checked, ne_eq, BitVec.ofNat_eq_ofNat, field, field_high, field_low]
  simp

theorem RoundTrip.vfmin (d a b : BitVec 5) (k e : BitVec 3) (l s : BitVec 1) : RoundTrip.Statement (.vfmin d a b k e l s) := by
  intro h _
  change decodeWord ((0x24#6) ++ d ++ a ++ b ++ k ++ e ++ l ++ s ++ (0x4#3)) = _
  rw [decode_major_24 (by simp (disch := decide) only [field, field_high, field_low]; try rfl)]
  simp (disch := decide) only [decodeVfp, checked, ne_eq, BitVec.ofNat_eq_ofNat, field, field_high, field_low]
  simp

theorem RoundTrip.vfmax (d a b : BitVec 5) (k e : BitVec 3) (l s : BitVec 1) : RoundTrip.Statement (.vfmax d a b k e l s) := by
  intro h _
  change decodeWord ((0x24#6) ++ d ++ a ++ b ++ k ++ e ++ l ++ s ++ (0x5#3)) = _
  rw [decode_major_24 (by simp (disch := decide) only [field, field_high, field_low]; try rfl)]
  simp (disch := decide) only [decodeVfp, checked, ne_eq, BitVec.ofNat_eq_ofNat, field, field_high, field_low]
  simp

theorem RoundTrip.vfsqrt (d a : BitVec 5) (k e : BitVec 3) (l : BitVec 1) : RoundTrip.Statement (.vfsqrt d a k e l) := by
  intro h _
  change decodeWord ((0x24#6) ++ d ++ a ++ (0x0#5) ++ k ++ e ++ l ++ (0x6#4)) = _
  rw [decode_major_24 (by simp (disch := decide) only [field, field_high, field_low]; try rfl)]
  simp (disch := decide) only [decodeVfp, checked, ne_eq, BitVec.ofNat_eq_ofNat, field, field_high, field_low, mask_0000F808]
  simp

theorem RoundTrip.vfrsq (d a : BitVec 5) (k e : BitVec 3) (l : BitVec 1) : RoundTrip.Statement (.vfrsq d a k e l) := by
  intro h _
  change decodeWord ((0x24#6) ++ d ++ a ++ (0x0#5) ++ k ++ e ++ l ++ (0x7#4)) = _
  rw [decode_major_24 (by simp (disch := decide) only [field, field_high, field_low]; try rfl)]
  simp (disch := decide) only [decodeVfp, checked, ne_eq, BitVec.ofNat_eq_ofNat, field, field_high, field_low, mask_0000F808]
  simp

theorem RoundTrip.vfma (d a b : BitVec 5) (k e : BitVec 3) (l s : BitVec 1) : RoundTrip.Statement (.vfma d a b k e l s) := by
  intro h _
  change decodeWord ((0x25#6) ++ d ++ a ++ b ++ k ++ e ++ l ++ s ++ (0x0#3)) = _
  rw [decode_major_25 (by simp (disch := decide) only [field, field_high, field_low]; try rfl)]
  simp (disch := decide) only [decodeVfma, checked, ne_eq, BitVec.ofNat_eq_ofNat, field, field_high, field_low]
  simp

theorem RoundTrip.vfms (d a b : BitVec 5) (k e : BitVec 3) (l s : BitVec 1) : RoundTrip.Statement (.vfms d a b k e l s) := by
  intro h _
  change decodeWord ((0x25#6) ++ d ++ a ++ b ++ k ++ e ++ l ++ s ++ (0x1#3)) = _
  rw [decode_major_25 (by simp (disch := decide) only [field, field_high, field_low]; try rfl)]
  simp (disch := decide) only [decodeVfma, checked, ne_eq, BitVec.ofNat_eq_ofNat, field, field_high, field_low]
  simp

theorem RoundTrip.vfnma (d a b : BitVec 5) (k e : BitVec 3) (l s : BitVec 1) : RoundTrip.Statement (.vfnma d a b k e l s) := by
  intro h _
  change decodeWord ((0x25#6) ++ d ++ a ++ b ++ k ++ e ++ l ++ s ++ (0x2#3)) = _
  rw [decode_major_25 (by simp (disch := decide) only [field, field_high, field_low]; try rfl)]
  simp (disch := decide) only [decodeVfma, checked, ne_eq, BitVec.ofNat_eq_ofNat, field, field_high, field_low]
  simp

theorem RoundTrip.vfnms (d a b : BitVec 5) (k e : BitVec 3) (l s : BitVec 1) : RoundTrip.Statement (.vfnms d a b k e l s) := by
  intro h _
  change decodeWord ((0x25#6) ++ d ++ a ++ b ++ k ++ e ++ l ++ s ++ (0x3#3)) = _
  rw [decode_major_25 (by simp (disch := decide) only [field, field_high, field_low]; try rfl)]
  simp (disch := decide) only [decodeVfma, checked, ne_eq, BitVec.ofNat_eq_ofNat, field, field_high, field_low]
  simp

theorem RoundTrip.vfexp2 (d a : BitVec 5) (k e : BitVec 3) (l : BitVec 1) : RoundTrip.Statement (.vfexp2 d a k e l) := by
  intro h _
  change decodeWord ((0x25#6) ++ d ++ a ++ (0x0#5) ++ k ++ e ++ l ++ (0x4#4)) = _
  rw [decode_major_25 (by simp (disch := decide) only [field, field_high, field_low]; try rfl)]
  simp (disch := decide) only [decodeVfma, checked, ne_eq, BitVec.ofNat_eq_ofNat, field, field_high, field_low, mask_0000F808]
  simp

theorem RoundTrip.vflog2 (d a : BitVec 5) (k e : BitVec 3) (l : BitVec 1) : RoundTrip.Statement (.vflog2 d a k e l) := by
  intro h _
  change decodeWord ((0x25#6) ++ d ++ a ++ (0x0#5) ++ k ++ e ++ l ++ (0x5#4)) = _
  rw [decode_major_25 (by simp (disch := decide) only [field, field_high, field_low]; try rfl)]
  simp (disch := decide) only [decodeVfma, checked, ne_eq, BitVec.ofNat_eq_ofNat, field, field_high, field_low, mask_0000F808]
  simp

theorem RoundTrip.vfrcp (d a : BitVec 5) (k e : BitVec 3) (l : BitVec 1) : RoundTrip.Statement (.vfrcp d a k e l) := by
  intro h _
  change decodeWord ((0x25#6) ++ d ++ a ++ (0x0#5) ++ k ++ e ++ l ++ (0x6#4)) = _
  rw [decode_major_25 (by simp (disch := decide) only [field, field_high, field_low]; try rfl)]
  simp (disch := decide) only [decodeVfma, checked, ne_eq, BitVec.ofNat_eq_ofNat, field, field_high, field_low, mask_0000F808]
  simp

theorem RoundTrip.vfclass (d a : BitVec 5) (k : BitVec 3) (l : BitVec 1) : RoundTrip.Statement (.vfclass d a k l) := by
  intro h _
  change decodeWord ((0x25#6) ++ d ++ a ++ (0x0#5) ++ k ++ (0x0#3) ++ l ++ (0x7#4)) = _
  rw [decode_major_25 (by simp (disch := decide) only [field, field_high, field_low]; try rfl)]
  simp (disch := decide) only [decodeVfma, checked, ne_eq, BitVec.ofNat_eq_ofNat, field, field_high, field_low, mask_0000F8E8]
  simp

theorem RoundTrip.vceq (d a b : BitVec 5) (k : BitVec 3) (l s : BitVec 1) : RoundTrip.Statement (.vceq d a b k l s) := by
  intro h _
  replace h : ((d.toNat ≤ 7) : Bool) = true := h
  simp only [Bool.and_eq_true, decide_eq_true_eq] at h
  change decodeWord ((0x26#6) ++ d ++ a ++ b ++ k ++ (0x0#3) ++ l ++ s ++ (0x0#3)) = _
  rw [decode_major_26 (by simp (disch := decide) only [field, field_high, field_low]; try rfl)]
  simp (disch := decide) only [decodeVcmp, checked, ne_eq, BitVec.ofNat_eq_ofNat, field, field_high, field_low, mask_000000E0]
  simp [h]

theorem RoundTrip.vcne (d a b : BitVec 5) (k : BitVec 3) (l s : BitVec 1) : RoundTrip.Statement (.vcne d a b k l s) := by
  intro h _
  replace h : ((d.toNat ≤ 7) : Bool) = true := h
  simp only [Bool.and_eq_true, decide_eq_true_eq] at h
  change decodeWord ((0x26#6) ++ d ++ a ++ b ++ k ++ (0x0#3) ++ l ++ s ++ (0x1#3)) = _
  rw [decode_major_26 (by simp (disch := decide) only [field, field_high, field_low]; try rfl)]
  simp (disch := decide) only [decodeVcmp, checked, ne_eq, BitVec.ofNat_eq_ofNat, field, field_high, field_low, mask_000000E0]
  simp [h]

theorem RoundTrip.vclt (d a b : BitVec 5) (k : BitVec 3) (l s : BitVec 1) : RoundTrip.Statement (.vclt d a b k l s) := by
  intro h _
  replace h : ((d.toNat ≤ 7) : Bool) = true := h
  simp only [Bool.and_eq_true, decide_eq_true_eq] at h
  change decodeWord ((0x26#6) ++ d ++ a ++ b ++ k ++ (0x0#3) ++ l ++ s ++ (0x2#3)) = _
  rw [decode_major_26 (by simp (disch := decide) only [field, field_high, field_low]; try rfl)]
  simp (disch := decide) only [decodeVcmp, checked, ne_eq, BitVec.ofNat_eq_ofNat, field, field_high, field_low, mask_000000E0]
  simp [h]

theorem RoundTrip.vcle (d a b : BitVec 5) (k : BitVec 3) (l s : BitVec 1) : RoundTrip.Statement (.vcle d a b k l s) := by
  intro h _
  replace h : ((d.toNat ≤ 7) : Bool) = true := h
  simp only [Bool.and_eq_true, decide_eq_true_eq] at h
  change decodeWord ((0x26#6) ++ d ++ a ++ b ++ k ++ (0x0#3) ++ l ++ s ++ (0x3#3)) = _
  rw [decode_major_26 (by simp (disch := decide) only [field, field_high, field_low]; try rfl)]
  simp (disch := decide) only [decodeVcmp, checked, ne_eq, BitVec.ofNat_eq_ofNat, field, field_high, field_low, mask_000000E0]
  simp [h]

theorem RoundTrip.vcltu (d a b : BitVec 5) (k : BitVec 3) (l s : BitVec 1) : RoundTrip.Statement (.vcltu d a b k l s) := by
  intro h _
  replace h : ((d.toNat ≤ 7) : Bool) = true := h
  simp only [Bool.and_eq_true, decide_eq_true_eq] at h
  change decodeWord ((0x26#6) ++ d ++ a ++ b ++ k ++ (0x0#3) ++ l ++ s ++ (0x4#3)) = _
  rw [decode_major_26 (by simp (disch := decide) only [field, field_high, field_low]; try rfl)]
  simp (disch := decide) only [decodeVcmp, checked, ne_eq, BitVec.ofNat_eq_ofNat, field, field_high, field_low, mask_000000E0]
  simp [h]

theorem RoundTrip.vcleu (d a b : BitVec 5) (k : BitVec 3) (l s : BitVec 1) : RoundTrip.Statement (.vcleu d a b k l s) := by
  intro h _
  replace h : ((d.toNat ≤ 7) : Bool) = true := h
  simp only [Bool.and_eq_true, decide_eq_true_eq] at h
  change decodeWord ((0x26#6) ++ d ++ a ++ b ++ k ++ (0x0#3) ++ l ++ s ++ (0x5#3)) = _
  rw [decode_major_26 (by simp (disch := decide) only [field, field_high, field_low]; try rfl)]
  simp (disch := decide) only [decodeVcmp, checked, ne_eq, BitVec.ofNat_eq_ofNat, field, field_high, field_low, mask_000000E0]
  simp [h]

theorem RoundTrip.vcgt (d a b : BitVec 5) (k : BitVec 3) (l s : BitVec 1) : RoundTrip.Statement (.vcgt d a b k l s) := by
  intro h _
  replace h : ((d.toNat ≤ 7) : Bool) = true := h
  simp only [Bool.and_eq_true, decide_eq_true_eq] at h
  change decodeWord ((0x26#6) ++ d ++ a ++ b ++ k ++ (0x0#3) ++ l ++ s ++ (0x6#3)) = _
  rw [decode_major_26 (by simp (disch := decide) only [field, field_high, field_low]; try rfl)]
  simp (disch := decide) only [decodeVcmp, checked, ne_eq, BitVec.ofNat_eq_ofNat, field, field_high, field_low, mask_000000E0]
  simp [h]

theorem RoundTrip.vcgtu (d a b : BitVec 5) (k : BitVec 3) (l s : BitVec 1) : RoundTrip.Statement (.vcgtu d a b k l s) := by
  intro h _
  replace h : ((d.toNat ≤ 7) : Bool) = true := h
  simp only [Bool.and_eq_true, decide_eq_true_eq] at h
  change decodeWord ((0x26#6) ++ d ++ a ++ b ++ k ++ (0x0#3) ++ l ++ s ++ (0x7#3)) = _
  rw [decode_major_26 (by simp (disch := decide) only [field, field_high, field_low]; try rfl)]
  simp (disch := decide) only [decodeVcmp, checked, ne_eq, BitVec.ofNat_eq_ofNat, field, field_high, field_low, mask_000000E0]
  simp [h]

theorem RoundTrip.vcvtFBf (d a : BitVec 5) (k e : BitVec 3) (l : BitVec 1) : RoundTrip.Statement (.vcvtFBf d a k e l) := by
  intro h _
  change decodeWord ((0x27#6) ++ d ++ a ++ (0x0#5) ++ k ++ e ++ l ++ (0x0#4)) = _
  rw [decode_major_27 (by simp (disch := decide) only [field, field_high, field_low]; try rfl)]
  simp (disch := decide) only [decodeVcvt, checked, ne_eq, BitVec.ofNat_eq_ofNat, field, field_high, field_low, mask_0000F808]
  simp

theorem RoundTrip.vcvtBfF (d a : BitVec 5) (k e : BitVec 3) (l : BitVec 1) : RoundTrip.Statement (.vcvtBfF d a k e l) := by
  intro h _
  change decodeWord ((0x27#6) ++ d ++ a ++ (0x0#5) ++ k ++ e ++ l ++ (0x1#4)) = _
  rw [decode_major_27 (by simp (disch := decide) only [field, field_high, field_low]; try rfl)]
  simp (disch := decide) only [decodeVcvt, checked, ne_eq, BitVec.ofNat_eq_ofNat, field, field_high, field_low, mask_0000F808]
  simp

theorem RoundTrip.vcvtFI (d a : BitVec 5) (k e : BitVec 3) (l : BitVec 1) : RoundTrip.Statement (.vcvtFI d a k e l) := by
  intro h _
  change decodeWord ((0x27#6) ++ d ++ a ++ (0x0#5) ++ k ++ e ++ l ++ (0x2#4)) = _
  rw [decode_major_27 (by simp (disch := decide) only [field, field_high, field_low]; try rfl)]
  simp (disch := decide) only [decodeVcvt, checked, ne_eq, BitVec.ofNat_eq_ofNat, field, field_high, field_low, mask_0000F808]
  simp

theorem RoundTrip.vcvtIF (d a : BitVec 5) (k e : BitVec 3) (l : BitVec 1) : RoundTrip.Statement (.vcvtIF d a k e l) := by
  intro h _
  change decodeWord ((0x27#6) ++ d ++ a ++ (0x0#5) ++ k ++ e ++ l ++ (0x3#4)) = _
  rw [decode_major_27 (by simp (disch := decide) only [field, field_high, field_low]; try rfl)]
  simp (disch := decide) only [decodeVcvt, checked, ne_eq, BitVec.ofNat_eq_ofNat, field, field_high, field_low, mask_0000F808]
  simp

theorem RoundTrip.vwiden (d a : BitVec 5) (k : BitVec 3) (l : BitVec 1) : RoundTrip.Statement (.vwiden d a k l) := by
  intro h _
  change decodeWord ((0x27#6) ++ d ++ a ++ (0x0#5) ++ k ++ (0x0#3) ++ l ++ (0x4#4)) = _
  rw [decode_major_27 (by simp (disch := decide) only [field, field_high, field_low]; try rfl)]
  simp (disch := decide) only [decodeVcvt, checked, ne_eq, BitVec.ofNat_eq_ofNat, field, field_high, field_low, mask_0000F8E8]
  simp

theorem RoundTrip.vwidenu (d a : BitVec 5) (k : BitVec 3) (l : BitVec 1) : RoundTrip.Statement (.vwidenu d a k l) := by
  intro h _
  change decodeWord ((0x27#6) ++ d ++ a ++ (0x0#5) ++ k ++ (0x0#3) ++ l ++ (0x5#4)) = _
  rw [decode_major_27 (by simp (disch := decide) only [field, field_high, field_low]; try rfl)]
  simp (disch := decide) only [decodeVcvt, checked, ne_eq, BitVec.ofNat_eq_ofNat, field, field_high, field_low, mask_0000F8E8]
  simp

theorem RoundTrip.vnarrow (d a : BitVec 5) (k : BitVec 3) (l : BitVec 1) : RoundTrip.Statement (.vnarrow d a k l) := by
  intro h _
  change decodeWord ((0x27#6) ++ d ++ a ++ (0x0#5) ++ k ++ (0x0#3) ++ l ++ (0x6#4)) = _
  rw [decode_major_27 (by simp (disch := decide) only [field, field_high, field_low]; try rfl)]
  simp (disch := decide) only [decodeVcvt, checked, ne_eq, BitVec.ofNat_eq_ofNat, field, field_high, field_low, mask_0000F8E8]
  simp

theorem RoundTrip.vnarrowu (d a : BitVec 5) (k : BitVec 3) (l : BitVec 1) : RoundTrip.Statement (.vnarrowu d a k l) := by
  intro h _
  change decodeWord ((0x27#6) ++ d ++ a ++ (0x0#5) ++ k ++ (0x0#3) ++ l ++ (0x7#4)) = _
  rw [decode_major_27 (by simp (disch := decide) only [field, field_high, field_low]; try rfl)]
  simp (disch := decide) only [decodeVcvt, checked, ne_eq, BitVec.ofNat_eq_ofNat, field, field_high, field_low, mask_0000F8E8]
  simp

theorem RoundTrip.vmv (d a : BitVec 5) (k : BitVec 3) (l : BitVec 1) : RoundTrip.Statement (.vmv d a k l) := by
  intro h _
  change decodeWord ((0x28#6) ++ d ++ a ++ (0x0#5) ++ k ++ (0x0#3) ++ l ++ (0x0#4)) = _
  rw [decode_major_28 (by simp (disch := decide) only [field, field_high, field_low]; try rfl)]
  simp (disch := decide) only [decodeVmov, checked, ne_eq, BitVec.ofNat_eq_ofNat, field, field_high, field_low, mask_0000F8E8]
  simp

theorem RoundTrip.vbcast (d b : BitVec 5) (k : BitVec 3) : RoundTrip.Statement (.vbcast d b k) := by
  intro h _
  change decodeWord ((0x28#6) ++ d ++ (0x0#5) ++ b ++ k ++ (0x9#8)) = _
  rw [decode_major_28 (by simp (disch := decide) only [field, field_high, field_low]; try rfl)]
  simp (disch := decide) only [decodeVmov, checked, ne_eq, BitVec.ofNat_eq_ofNat, field, field_high, field_low, mask_001F00F0, bit3_set]
  simp

theorem RoundTrip.vmerge (d a b : BitVec 5) (k : BitVec 3) (l s : BitVec 1) : RoundTrip.Statement (.vmerge d a b k l s) := by
  intro h _
  change decodeWord ((0x28#6) ++ d ++ a ++ b ++ k ++ (0x0#3) ++ l ++ s ++ (0x2#3)) = _
  rw [decode_major_28 (by simp (disch := decide) only [field, field_high, field_low]; try rfl)]
  simp (disch := decide) only [decodeVmov, checked, ne_eq, BitVec.ofNat_eq_ofNat, field, field_high, field_low, mask_000000E0]
  simp

theorem RoundTrip.vextr (d a b : BitVec 5) : RoundTrip.Statement (.vextr d a b) := by
  intro h _
  change decodeWord ((0x28#6) ++ d ++ a ++ b ++ (0xB#11)) = _
  rw [decode_major_28 (by simp (disch := decide) only [field, field_high, field_low]; try rfl)]
  simp (disch := decide) only [decodeVmov, checked, ne_eq, BitVec.ofNat_eq_ofNat, field, field_high, field_low, mask_000007F0, bit3_set]
  simp

theorem RoundTrip.vins (d a b : BitVec 5) : RoundTrip.Statement (.vins d a b) := by
  intro h _
  change decodeWord ((0x28#6) ++ d ++ a ++ b ++ (0xC#11)) = _
  rw [decode_major_28 (by simp (disch := decide) only [field, field_high, field_low]; try rfl)]
  simp (disch := decide) only [decodeVmov, checked, ne_eq, BitVec.ofNat_eq_ofNat, field, field_high, field_low, mask_000007F0, bit3_set]
  simp

theorem RoundTrip.vid (d : BitVec 5) (k : BitVec 3) : RoundTrip.Statement (.vid d k) := by
  intro h _
  change decodeWord ((0x28#6) ++ d ++ (0x0#10) ++ k ++ (0x5#8)) = _
  rw [decode_major_28 (by simp (disch := decide) only [field, field_high, field_low]; try rfl)]
  simp (disch := decide) only [decodeVmov, checked, ne_eq, BitVec.ofNat_eq_ofNat, field, field_high, field_low, mask_001FF8F8]
  simp

theorem RoundTrip.viota (d a : BitVec 5) (k : BitVec 3) : RoundTrip.Statement (.viota d a k) := by
  intro h _
  replace h : ((a.toNat ≤ 7) : Bool) = true := h
  simp only [Bool.and_eq_true, decide_eq_true_eq] at h
  change decodeWord ((0x28#6) ++ d ++ a ++ (0x0#5) ++ k ++ (0x6#8)) = _
  rw [decode_major_28 (by simp (disch := decide) only [field, field_high, field_low]; try rfl)]
  simp (disch := decide) only [decodeVmov, checked, ne_eq, BitVec.ofNat_eq_ofNat, field, field_high, field_low, mask_0000F8F8]
  simp [h]

theorem RoundTrip.vcompress (d a : BitVec 5) (k : BitVec 3) (l : BitVec 1) : RoundTrip.Statement (.vcompress d a k l) := by
  intro h _
  change decodeWord ((0x28#6) ++ d ++ a ++ (0x0#5) ++ k ++ (0x0#3) ++ l ++ (0x7#4)) = _
  rw [decode_major_28 (by simp (disch := decide) only [field, field_high, field_low]; try rfl)]
  simp (disch := decide) only [decodeVmov, checked, ne_eq, BitVec.ofNat_eq_ofNat, field, field_high, field_low, mask_0000F8E8]
  simp

theorem RoundTrip.vslideup (d a b : BitVec 5) (k : BitVec 3) (l : BitVec 1) : RoundTrip.Statement (.vslideup d a b k l) := by
  intro h _
  change decodeWord ((0x29#6) ++ d ++ a ++ b ++ k ++ (0x0#3) ++ l ++ (0x8#4)) = _
  rw [decode_major_29 (by simp (disch := decide) only [field, field_high, field_low]; try rfl)]
  simp (disch := decide) only [decodeVperm, checked, ne_eq, BitVec.ofNat_eq_ofNat, field, field_high, field_low, mask_000000E0, bit3_set]
  simp

theorem RoundTrip.vslidedn (d a b : BitVec 5) (k : BitVec 3) (l : BitVec 1) : RoundTrip.Statement (.vslidedn d a b k l) := by
  intro h _
  change decodeWord ((0x29#6) ++ d ++ a ++ b ++ k ++ (0x0#3) ++ l ++ (0x9#4)) = _
  rw [decode_major_29 (by simp (disch := decide) only [field, field_high, field_low]; try rfl)]
  simp (disch := decide) only [decodeVperm, checked, ne_eq, BitVec.ofNat_eq_ofNat, field, field_high, field_low, mask_000000E0, bit3_set]
  simp

theorem RoundTrip.vpermute (d a b : BitVec 5) (k : BitVec 3) (l : BitVec 1) : RoundTrip.Statement (.vpermute d a b k l) := by
  intro h _
  change decodeWord ((0x29#6) ++ d ++ a ++ b ++ k ++ (0x0#3) ++ l ++ (0x2#4)) = _
  rw [decode_major_29 (by simp (disch := decide) only [field, field_high, field_low]; try rfl)]
  simp (disch := decide) only [decodeVperm, checked, ne_eq, BitVec.ofNat_eq_ofNat, field, field_high, field_low, mask_000000E0, mask_00000008]
  simp

theorem RoundTrip.vexpand (d a : BitVec 5) (k : BitVec 3) (l : BitVec 1) : RoundTrip.Statement (.vexpand d a k l) := by
  intro h _
  change decodeWord ((0x29#6) ++ d ++ a ++ (0x0#5) ++ k ++ (0x0#3) ++ l ++ (0x3#4)) = _
  rw [decode_major_29 (by simp (disch := decide) only [field, field_high, field_low]; try rfl)]
  simp (disch := decide) only [decodeVperm, checked, ne_eq, BitVec.ofNat_eq_ofNat, field, field_high, field_low, mask_0000F8E8]
  simp

theorem RoundTrip.vconflict (d a : BitVec 5) (k : BitVec 3) (l : BitVec 1) : RoundTrip.Statement (.vconflict d a k l) := by
  intro h _
  replace h : ((d.toNat ≤ 7) : Bool) = true := h
  simp only [Bool.and_eq_true, decide_eq_true_eq] at h
  change decodeWord ((0x29#6) ++ d ++ a ++ (0x0#5) ++ k ++ (0x0#3) ++ l ++ (0x4#4)) = _
  rw [decode_major_29 (by simp (disch := decide) only [field, field_high, field_low]; try rfl)]
  simp (disch := decide) only [decodeVperm, checked, ne_eq, BitVec.ofNat_eq_ofNat, field, field_high, field_low, mask_0000F8E8]
  simp [h]

theorem RoundTrip.vtopk (d a b : BitVec 5) (k : BitVec 3) (l : BitVec 1) : RoundTrip.Statement (.vtopk d a b k l) := by
  intro h _
  change decodeWord ((0x29#6) ++ d ++ a ++ b ++ k ++ (0x0#3) ++ l ++ (0xD#4)) = _
  rw [decode_major_29 (by simp (disch := decide) only [field, field_high, field_low]; try rfl)]
  simp (disch := decide) only [decodeVperm, checked, ne_eq, BitVec.ofNat_eq_ofNat, field, field_high, field_low, mask_000000E0, bit3_set]
  simp

theorem RoundTrip.vrev (d a : BitVec 5) (k : BitVec 3) (l : BitVec 1) : RoundTrip.Statement (.vrev d a k l) := by
  intro h _
  change decodeWord ((0x29#6) ++ d ++ a ++ (0x0#5) ++ k ++ (0x0#3) ++ l ++ (0x6#4)) = _
  rw [decode_major_29 (by simp (disch := decide) only [field, field_high, field_low]; try rfl)]
  simp (disch := decide) only [decodeVperm, checked, ne_eq, BitVec.ofNat_eq_ofNat, field, field_high, field_low, mask_0000F8E8]
  simp

theorem RoundTrip.vscan (d a b : BitVec 5) (k : BitVec 3) (l : BitVec 1) : RoundTrip.Statement (.vscan d a b k l) := by
  intro h _
  change decodeWord ((0x29#6) ++ d ++ a ++ b ++ k ++ (0x0#3) ++ l ++ (0xF#4)) = _
  rw [decode_major_29 (by simp (disch := decide) only [field, field_high, field_low]; try rfl)]
  simp (disch := decide) only [decodeVperm, checked, ne_eq, BitVec.ofNat_eq_ofNat, field, field_high, field_low, mask_000000E0, bit3_set]
  simp

theorem RoundTrip.vredsum (d a b : BitVec 5) (k : BitVec 3) (l : BitVec 1) : RoundTrip.Statement (.vredsum d a b k l) := by
  intro h _
  change decodeWord ((0x2A#6) ++ d ++ a ++ b ++ k ++ (0x0#3) ++ l ++ (0x8#4)) = _
  rw [decode_major_2A (by simp (disch := decide) only [field, field_high, field_low]; try rfl)]
  simp (disch := decide) only [decodeVred, checked, ne_eq, BitVec.ofNat_eq_ofNat, field, field_high, field_low, mask_000000E0, bit3_set]
  simp

theorem RoundTrip.vfredsum (d a b : BitVec 5) (k : BitVec 3) (l : BitVec 1) : RoundTrip.Statement (.vfredsum d a b k l) := by
  intro h _
  change decodeWord ((0x2A#6) ++ d ++ a ++ b ++ k ++ (0x0#3) ++ l ++ (0x9#4)) = _
  rw [decode_major_2A (by simp (disch := decide) only [field, field_high, field_low]; try rfl)]
  simp (disch := decide) only [decodeVred, checked, ne_eq, BitVec.ofNat_eq_ofNat, field, field_high, field_low, mask_000000E0, bit3_set]
  simp

theorem RoundTrip.vfredosum (d a b : BitVec 5) (k : BitVec 3) (l : BitVec 1) : RoundTrip.Statement (.vfredosum d a b k l) := by
  intro h _
  change decodeWord ((0x2A#6) ++ d ++ a ++ b ++ k ++ (0x0#3) ++ l ++ (0xA#4)) = _
  rw [decode_major_2A (by simp (disch := decide) only [field, field_high, field_low]; try rfl)]
  simp (disch := decide) only [decodeVred, checked, ne_eq, BitVec.ofNat_eq_ofNat, field, field_high, field_low, mask_000000E0, bit3_set]
  simp

theorem RoundTrip.vredmin (d a b : BitVec 5) (k : BitVec 3) (l : BitVec 1) : RoundTrip.Statement (.vredmin d a b k l) := by
  intro h _
  change decodeWord ((0x2A#6) ++ d ++ a ++ b ++ k ++ (0x0#3) ++ l ++ (0xB#4)) = _
  rw [decode_major_2A (by simp (disch := decide) only [field, field_high, field_low]; try rfl)]
  simp (disch := decide) only [decodeVred, checked, ne_eq, BitVec.ofNat_eq_ofNat, field, field_high, field_low, mask_000000E0, bit3_set]
  simp

theorem RoundTrip.vredmax (d a b : BitVec 5) (k : BitVec 3) (l : BitVec 1) : RoundTrip.Statement (.vredmax d a b k l) := by
  intro h _
  change decodeWord ((0x2A#6) ++ d ++ a ++ b ++ k ++ (0x0#3) ++ l ++ (0xC#4)) = _
  rw [decode_major_2A (by simp (disch := decide) only [field, field_high, field_low]; try rfl)]
  simp (disch := decide) only [decodeVred, checked, ne_eq, BitVec.ofNat_eq_ofNat, field, field_high, field_low, mask_000000E0, bit3_set]
  simp

theorem RoundTrip.vfredmini (d a : BitVec 5) (k : BitVec 3) (l : BitVec 1) : RoundTrip.Statement (.vfredmini d a k l) := by
  intro h _
  change decodeWord ((0x2A#6) ++ d ++ a ++ (0x0#5) ++ k ++ (0x0#3) ++ l ++ (0x5#4)) = _
  rw [decode_major_2A (by simp (disch := decide) only [field, field_high, field_low]; try rfl)]
  simp (disch := decide) only [decodeVred, checked, ne_eq, BitVec.ofNat_eq_ofNat, field, field_high, field_low, mask_0000F8E8]
  simp

theorem RoundTrip.vfredmaxi (d a : BitVec 5) (k : BitVec 3) (l : BitVec 1) : RoundTrip.Statement (.vfredmaxi d a k l) := by
  intro h _
  change decodeWord ((0x2A#6) ++ d ++ a ++ (0x0#5) ++ k ++ (0x0#3) ++ l ++ (0x6#4)) = _
  rw [decode_major_2A (by simp (disch := decide) only [field, field_high, field_low]; try rfl)]
  simp (disch := decide) only [decodeVred, checked, ne_eq, BitVec.ofNat_eq_ofNat, field, field_high, field_low, mask_0000F8E8]
  simp

theorem RoundTrip.vredminui (d a : BitVec 5) (k : BitVec 3) (l : BitVec 1) : RoundTrip.Statement (.vredminui d a k l) := by
  intro h _
  change decodeWord ((0x2A#6) ++ d ++ a ++ (0x0#5) ++ k ++ (0x0#3) ++ l ++ (0x7#4)) = _
  rw [decode_major_2A (by simp (disch := decide) only [field, field_high, field_low]; try rfl)]
  simp (disch := decide) only [decodeVred, checked, ne_eq, BitVec.ofNat_eq_ofNat, field, field_high, field_low, mask_0000F8E8]
  simp

theorem RoundTrip.kand (d a b : BitVec 5) : RoundTrip.Statement (.kand d a b) := by
  intro h _
  replace h : ((d.toNat ≤ 7) && (a.toNat ≤ 7) && (b.toNat ≤ 7) : Bool) = true := h
  simp only [Bool.and_eq_true, decide_eq_true_eq] at h
  change decodeWord ((0x2B#6) ++ d ++ a ++ b ++ (0x0#11)) = _
  rw [decode_major_2B (by simp (disch := decide) only [field, field_high, field_low]; try rfl)]
  simp (disch := decide) only [decodeVmask, checked, ne_eq, BitVec.ofNat_eq_ofNat, field, field_high, field_low, mask_000007F8]
  simp [h]

theorem RoundTrip.kor (d a b : BitVec 5) : RoundTrip.Statement (.kor d a b) := by
  intro h _
  replace h : ((d.toNat ≤ 7) && (a.toNat ≤ 7) && (b.toNat ≤ 7) : Bool) = true := h
  simp only [Bool.and_eq_true, decide_eq_true_eq] at h
  change decodeWord ((0x2B#6) ++ d ++ a ++ b ++ (0x1#11)) = _
  rw [decode_major_2B (by simp (disch := decide) only [field, field_high, field_low]; try rfl)]
  simp (disch := decide) only [decodeVmask, checked, ne_eq, BitVec.ofNat_eq_ofNat, field, field_high, field_low, mask_000007F8]
  simp [h]

theorem RoundTrip.kxor (d a b : BitVec 5) : RoundTrip.Statement (.kxor d a b) := by
  intro h _
  replace h : ((d.toNat ≤ 7) && (a.toNat ≤ 7) && (b.toNat ≤ 7) : Bool) = true := h
  simp only [Bool.and_eq_true, decide_eq_true_eq] at h
  change decodeWord ((0x2B#6) ++ d ++ a ++ b ++ (0x2#11)) = _
  rw [decode_major_2B (by simp (disch := decide) only [field, field_high, field_low]; try rfl)]
  simp (disch := decide) only [decodeVmask, checked, ne_eq, BitVec.ofNat_eq_ofNat, field, field_high, field_low, mask_000007F8]
  simp [h]

theorem RoundTrip.kandn (d a b : BitVec 5) : RoundTrip.Statement (.kandn d a b) := by
  intro h _
  replace h : ((d.toNat ≤ 7) && (a.toNat ≤ 7) && (b.toNat ≤ 7) : Bool) = true := h
  simp only [Bool.and_eq_true, decide_eq_true_eq] at h
  change decodeWord ((0x2B#6) ++ d ++ a ++ b ++ (0x3#11)) = _
  rw [decode_major_2B (by simp (disch := decide) only [field, field_high, field_low]; try rfl)]
  simp (disch := decide) only [decodeVmask, checked, ne_eq, BitVec.ofNat_eq_ofNat, field, field_high, field_low, mask_000007F8]
  simp [h]

theorem RoundTrip.knot (d a : BitVec 5) : RoundTrip.Statement (.knot d a) := by
  intro h _
  replace h : ((d.toNat ≤ 7) && (a.toNat ≤ 7) : Bool) = true := h
  simp only [Bool.and_eq_true, decide_eq_true_eq] at h
  change decodeWord ((0x2B#6) ++ d ++ a ++ (0x4#16)) = _
  rw [decode_major_2B (by simp (disch := decide) only [field, field_high, field_low]; try rfl)]
  simp (disch := decide) only [decodeVmask, checked, ne_eq, BitVec.ofNat_eq_ofNat, field, field_high, field_low, mask_0000FFF8]
  simp [h]

theorem RoundTrip.kloop (d : BitVec 5) : RoundTrip.Statement (.kloop d) := by
  intro h _
  replace h : ((d.toNat ≤ 7) : Bool) = true := h
  simp only [Bool.and_eq_true, decide_eq_true_eq] at h
  change decodeWord ((0x2B#6) ++ d ++ (0x5#21)) = _
  rw [decode_major_2B (by simp (disch := decide) only [field, field_high, field_low]; try rfl)]
  simp (disch := decide) only [decodeVmask, checked, ne_eq, BitVec.ofNat_eq_ofNat, field, field_high, field_low, mask_001FFFF8]
  simp [h]

theorem RoundTrip.kpopc (d a : BitVec 5) : RoundTrip.Statement (.kpopc d a) := by
  intro h _
  replace h : ((d.toNat ≤ 7) && (a.toNat ≤ 7) : Bool) = true := h
  simp only [Bool.and_eq_true, decide_eq_true_eq] at h
  change decodeWord ((0x2B#6) ++ d ++ a ++ (0x6#16)) = _
  rw [decode_major_2B (by simp (disch := decide) only [field, field_high, field_low]; try rfl)]
  simp (disch := decide) only [decodeVmask, checked, ne_eq, BitVec.ofNat_eq_ofNat, field, field_high, field_low, mask_0000FFF8]
  simp [h]

theorem RoundTrip.kfirst (d a : BitVec 5) : RoundTrip.Statement (.kfirst d a) := by
  intro h _
  replace h : ((d.toNat ≤ 7) && (a.toNat ≤ 7) : Bool) = true := h
  simp only [Bool.and_eq_true, decide_eq_true_eq] at h
  change decodeWord ((0x2B#6) ++ d ++ a ++ (0x7#16)) = _
  rw [decode_major_2B (by simp (disch := decide) only [field, field_high, field_low]; try rfl)]
  simp (disch := decide) only [decodeVmask, checked, ne_eq, BitVec.ofNat_eq_ofNat, field, field_high, field_low, mask_0000FFF8]
  simp [h]

theorem RoundTrip.vld (v a b : BitVec 5) (k : BitVec 3) (c f : BitVec 4) : RoundTrip.Statement (.vld v a b k c f) := by
  intro h _
  replace h : ((f.toNat ≤ 13) : Bool) = true := h
  simp only [Bool.and_eq_true, decide_eq_true_eq] at h
  change decodeWord ((0x2C#6) ++ v ++ a ++ b ++ k ++ c ++ f) = _
  rw [decode_major_2C (by simp (disch := decide) only [field, field_high, field_low]; try rfl)]
  simp (disch := decide) only [decodeVld, checked, ne_eq, BitVec.ofNat_eq_ofNat, field, field_high, field_low]
  simp [h]

theorem RoundTrip.vlds (v a b : BitVec 5) (k : BitVec 3) (c f : BitVec 4) : RoundTrip.Statement (.vlds v a b k c f) := by
  intro h _
  replace h : ((f.toNat ≤ 13) : Bool) = true := h
  simp only [Bool.and_eq_true, decide_eq_true_eq] at h
  change decodeWord ((0x2D#6) ++ v ++ a ++ b ++ k ++ c ++ f) = _
  rw [decode_major_2D (by simp (disch := decide) only [field, field_high, field_low]; try rfl)]
  simp (disch := decide) only [decodeVlds, checked, ne_eq, BitVec.ofNat_eq_ofNat, field, field_high, field_low]
  simp [h]

theorem RoundTrip.vldx (v a b : BitVec 5) (k : BitVec 3) (c f : BitVec 4) : RoundTrip.Statement (.vldx v a b k c f) := by
  intro h _
  replace h : ((f.toNat ≤ 13) : Bool) = true := h
  simp only [Bool.and_eq_true, decide_eq_true_eq] at h
  change decodeWord ((0x2E#6) ++ v ++ a ++ b ++ k ++ c ++ f) = _
  rw [decode_major_2E (by simp (disch := decide) only [field, field_high, field_low]; try rfl)]
  simp (disch := decide) only [decodeVldx, checked, ne_eq, BitVec.ofNat_eq_ofNat, field, field_high, field_low]
  simp [h]

theorem RoundTrip.vldl (v a b : BitVec 5) (k : BitVec 3) (c f : BitVec 4) : RoundTrip.Statement (.vldl v a b k c f) := by
  intro h _
  replace h : ((f.toNat ≤ 13) : Bool) = true := h
  simp only [Bool.and_eq_true, decide_eq_true_eq] at h
  change decodeWord ((0x2F#6) ++ v ++ a ++ b ++ k ++ c ++ f) = _
  rw [decode_major_2F (by simp (disch := decide) only [field, field_high, field_low]; try rfl)]
  simp (disch := decide) only [decodeVldl, checked, ne_eq, BitVec.ofNat_eq_ofNat, field, field_high, field_low]
  simp [h]

theorem RoundTrip.vst (v a b : BitVec 5) (k : BitVec 3) (c f : BitVec 4) : RoundTrip.Statement (.vst v a b k c f) := by
  intro h _
  replace h : ((f.toNat ≤ 13) : Bool) = true := h
  simp only [Bool.and_eq_true, decide_eq_true_eq] at h
  change decodeWord ((0x30#6) ++ v ++ a ++ b ++ k ++ c ++ f) = _
  rw [decode_major_30 (by simp (disch := decide) only [field, field_high, field_low]; try rfl)]
  simp (disch := decide) only [decodeVst, checked, ne_eq, BitVec.ofNat_eq_ofNat, field, field_high, field_low]
  simp [h]

theorem RoundTrip.vsts (v a b : BitVec 5) (k : BitVec 3) (c f : BitVec 4) : RoundTrip.Statement (.vsts v a b k c f) := by
  intro h _
  replace h : ((f.toNat ≤ 13) : Bool) = true := h
  simp only [Bool.and_eq_true, decide_eq_true_eq] at h
  change decodeWord ((0x31#6) ++ v ++ a ++ b ++ k ++ c ++ f) = _
  rw [decode_major_31 (by simp (disch := decide) only [field, field_high, field_low]; try rfl)]
  simp (disch := decide) only [decodeVsts, checked, ne_eq, BitVec.ofNat_eq_ofNat, field, field_high, field_low]
  simp [h]

theorem RoundTrip.vstx (v a b : BitVec 5) (k : BitVec 3) (c f : BitVec 4) : RoundTrip.Statement (.vstx v a b k c f) := by
  intro h _
  replace h : ((f.toNat ≤ 13) : Bool) = true := h
  simp only [Bool.and_eq_true, decide_eq_true_eq] at h
  change decodeWord ((0x32#6) ++ v ++ a ++ b ++ k ++ c ++ f) = _
  rw [decode_major_32 (by simp (disch := decide) only [field, field_high, field_low]; try rfl)]
  simp (disch := decide) only [decodeVstx, checked, ne_eq, BitVec.ofNat_eq_ofNat, field, field_high, field_low]
  simp [h]

theorem RoundTrip.vstl (v a b : BitVec 5) (k : BitVec 3) (c f : BitVec 4) : RoundTrip.Statement (.vstl v a b k c f) := by
  intro h _
  replace h : ((f.toNat ≤ 13) : Bool) = true := h
  simp only [Bool.and_eq_true, decide_eq_true_eq] at h
  change decodeWord ((0x33#6) ++ v ++ a ++ b ++ k ++ c ++ f) = _
  rw [decode_major_33 (by simp (disch := decide) only [field, field_high, field_low]; try rfl)]
  simp (disch := decide) only [decodeVstl, checked, ne_eq, BitVec.ofNat_eq_ofNat, field, field_high, field_low]
  simp [h]

theorem RoundTrip.vldb (v a b : BitVec 5) (k : BitVec 3) (c f : BitVec 4) : RoundTrip.Statement (.vldb v a b k c f) := by
  intro h _
  replace h : ((f.toNat ≤ 13) : Bool) = true := h
  simp only [Bool.and_eq_true, decide_eq_true_eq] at h
  change decodeWord ((0x34#6) ++ v ++ a ++ b ++ k ++ c ++ f) = _
  rw [decode_major_34 (by simp (disch := decide) only [field, field_high, field_low]; try rfl)]
  simp (disch := decide) only [decodeVldb, checked, ne_eq, BitVec.ofNat_eq_ofNat, field, field_high, field_low]
  simp [h]

theorem RoundTrip.sbind (v a : BitVec 5) : RoundTrip.Statement (.sbind v a) := by
  intro h _
  change decodeWord ((0x35#6) ++ v ++ a ++ (0x0#16)) = _
  rw [decode_major_35 (by simp (disch := decide) only [field, field_high, field_low]; try rfl)]
  simp (disch := decide) only [decodeStream, checked, ne_eq, BitVec.ofNat_eq_ofNat, field, field_high, field_low, mask_0000FFC0]
  simp

theorem RoundTrip.sunbind (v : BitVec 5) : RoundTrip.Statement (.sunbind v) := by
  intro h _
  change decodeWord ((0x35#6) ++ v ++ (0x1#21)) = _
  rw [decode_major_35 (by simp (disch := decide) only [field, field_high, field_low]; try rfl)]
  simp (disch := decide) only [decodeStream, checked, ne_eq, BitVec.ofNat_eq_ofNat, field, field_high, field_low, mask_001FFFC0]
  simp

theorem RoundTrip.send (d v : BitVec 5) : RoundTrip.Statement (.send d v) := by
  intro h _
  change decodeWord ((0x35#6) ++ d ++ v ++ (0x2#16)) = _
  rw [decode_major_35 (by simp (disch := decide) only [field, field_high, field_low]; try rfl)]
  simp (disch := decide) only [decodeStream, checked, ne_eq, BitVec.ofNat_eq_ofNat, field, field_high, field_low, mask_0000FFC0]
  simp

theorem RoundTrip.sseek (v a : BitVec 5) : RoundTrip.Statement (.sseek v a) := by
  intro h _
  change decodeWord ((0x35#6) ++ v ++ a ++ (0x3#16)) = _
  rw [decode_major_35 (by simp (disch := decide) only [field, field_high, field_low]; try rfl)]
  simp (disch := decide) only [decodeStream, checked, ne_eq, BitVec.ofNat_eq_ofNat, field, field_high, field_low, mask_0000FFC0]
  simp

theorem RoundTrip.spos (d v : BitVec 5) : RoundTrip.Statement (.spos d v) := by
  intro h _
  change decodeWord ((0x35#6) ++ d ++ v ++ (0x4#16)) = _
  rw [decode_major_35 (by simp (disch := decide) only [field, field_high, field_low]; try rfl)]
  simp (disch := decide) only [decodeStream, checked, ne_eq, BitVec.ofNat_eq_ofNat, field, field_high, field_low, mask_0000FFC0]
  simp

theorem RoundTrip.dcfg (x : BitVec 3) (c : BitVec 5) : RoundTrip.Statement (.dcfg x c) := by
  intro h _
  change decodeWord ((0x36#6) ++ x ++ (0x0#13) ++ c ++ (0x0#5)) = _
  rw [decode_major_36 (by simp (disch := decide) only [field, field_high, field_low]; try rfl)]
  simp (disch := decide) only [decodeDiag, checked, ne_eq, BitVec.ofNat_eq_ofNat, field, field_high, field_low, mask_007FFC00]
  simp

theorem RoundTrip.dzero (x : BitVec 3) : RoundTrip.Statement (.dzero x) := by
  intro h _
  change decodeWord ((0x36#6) ++ x ++ (0x1#23)) = _
  rw [decode_major_36 (by simp (disch := decide) only [field, field_high, field_low]; try rfl)]
  simp (disch := decide) only [decodeDiag, checked, ne_eq, BitVec.ofNat_eq_ofNat, field, field_high, field_low, mask_007FFFE0]
  simp

theorem RoundTrip.dmac (x k : BitVec 3) (a b c : BitVec 5) : RoundTrip.Statement (.dmac x k a b c) := by
  intro h _
  change decodeWord ((0x36#6) ++ x ++ k ++ a ++ b ++ c ++ (0x2#5)) = _
  rw [decode_major_36 (by simp (disch := decide) only [field, field_high, field_low]; try rfl)]
  simp (disch := decide) only [decodeDiag, checked, ne_eq, BitVec.ofNat_eq_ofNat, field, field_high, field_low]
  simp

theorem RoundTrip.dmacs (x k : BitVec 3) (a b c : BitVec 5) : RoundTrip.Statement (.dmacs x k a b c) := by
  intro h _
  change decodeWord ((0x36#6) ++ x ++ k ++ a ++ b ++ c ++ (0x3#5)) = _
  rw [decode_major_36 (by simp (disch := decide) only [field, field_high, field_low]; try rfl)]
  simp (disch := decide) only [decodeDiag, checked, ne_eq, BitVec.ofNat_eq_ofNat, field, field_high, field_low]
  simp

theorem RoundTrip.dmact (x k : BitVec 3) (b c : BitVec 5) : RoundTrip.Statement (.dmact x k b c) := by
  intro h _
  change decodeWord ((0x36#6) ++ x ++ k ++ (0x0#5) ++ b ++ c ++ (0x4#5)) = _
  rw [decode_major_36 (by simp (disch := decide) only [field, field_high, field_low]; try rfl)]
  simp (disch := decide) only [decodeDiag, checked, ne_eq, BitVec.ofNat_eq_ofNat, field, field_high, field_low, mask_000F8000]
  simp

theorem RoundTrip.dmm (x : BitVec 3) (a b c : BitVec 5) : RoundTrip.Statement (.dmm x a b c) := by
  intro h _
  change decodeWord ((0x36#6) ++ x ++ (0x0#3) ++ a ++ b ++ c ++ (0x5#5)) = _
  rw [decode_major_36 (by simp (disch := decide) only [field, field_high, field_low]; try rfl)]
  simp (disch := decide) only [decodeDiag, checked, ne_eq, BitVec.ofNat_eq_ofNat, field, field_high, field_low, mask_00700000]
  simp

theorem RoundTrip.drd (x k : BitVec 3) (a c : BitVec 5) : RoundTrip.Statement (.drd x k a c) := by
  intro h _
  change decodeWord ((0x36#6) ++ x ++ k ++ a ++ (0x0#5) ++ c ++ (0x6#5)) = _
  rw [decode_major_36 (by simp (disch := decide) only [field, field_high, field_low]; try rfl)]
  simp (disch := decide) only [decodeDiag, checked, ne_eq, BitVec.ofNat_eq_ofNat, field, field_high, field_low, mask_00007C00]
  simp

theorem RoundTrip.dwr (x k : BitVec 3) (a c : BitVec 5) : RoundTrip.Statement (.dwr x k a c) := by
  intro h _
  change decodeWord ((0x36#6) ++ x ++ k ++ a ++ (0x0#5) ++ c ++ (0x7#5)) = _
  rw [decode_major_36 (by simp (disch := decide) only [field, field_high, field_low]; try rfl)]
  simp (disch := decide) only [decodeDiag, checked, ne_eq, BitVec.ofNat_eq_ofNat, field, field_high, field_low, mask_00007C00]
  simp

theorem RoundTrip.dwmark (x : BitVec 3) (c : BitVec 5) : RoundTrip.Statement (.dwmark x c) := by
  intro h _
  change decodeWord ((0x36#6) ++ x ++ (0x0#13) ++ c ++ (0x8#5)) = _
  rw [decode_major_36 (by simp (disch := decide) only [field, field_high, field_low]; try rfl)]
  simp (disch := decide) only [decodeDiag, checked, ne_eq, BitVec.ofNat_eq_ofNat, field, field_high, field_low, mask_007FFC00]
  simp

theorem RoundTrip.ttclr (t b : BitVec 5) : RoundTrip.Statement (.ttclr t b) := by
  intro h _
  replace h : ((t.toNat ≤ 3) : Bool) = true := h
  simp only [Bool.and_eq_true, decide_eq_true_eq] at h
  change decodeWord ((0x6E0#11) ++ t ++ b ++ (0x8#11)) = _
  rw [decode_major_37 (by simp (disch := decide) only [field, field_high, field_low]; try rfl)]
  simp (disch := decide) only [decodeTree, checked, ne_eq, BitVec.ofNat_eq_ofNat, field, field_high, field_low, mask_03E007F0, bit3_set]
  simp [h]

theorem RoundTrip.ttadd (d t b : BitVec 5) : RoundTrip.Statement (.ttadd d t b) := by
  intro h _
  replace h : ((t.toNat ≤ 3) : Bool) = true := h
  simp only [Bool.and_eq_true, decide_eq_true_eq] at h
  change decodeWord ((0x37#6) ++ d ++ t ++ b ++ (0x1#11)) = _
  rw [decode_major_37 (by simp (disch := decide) only [field, field_high, field_low]; try rfl)]
  simp (disch := decide) only [decodeTree, checked, ne_eq, BitVec.ofNat_eq_ofNat, field, field_high, field_low, mask_000007F0, mask_00000008]
  simp [h]

theorem RoundTrip.ttmask (d t b : BitVec 5) : RoundTrip.Statement (.ttmask d t b) := by
  intro h _
  replace h : ((d.toNat ≤ 7) && (t.toNat ≤ 3) : Bool) = true := h
  simp only [Bool.and_eq_true, decide_eq_true_eq] at h
  change decodeWord ((0x37#6) ++ d ++ t ++ b ++ (0xA#11)) = _
  rw [decode_major_37 (by simp (disch := decide) only [field, field_high, field_low]; try rfl)]
  simp (disch := decide) only [decodeTree, checked, ne_eq, BitVec.ofNat_eq_ofNat, field, field_high, field_low, mask_000007F0, bit3_set]
  simp [h]

theorem RoundTrip.ttpos (d t : BitVec 5) : RoundTrip.Statement (.ttpos d t) := by
  intro h _
  replace h : ((t.toNat ≤ 3) : Bool) = true := h
  simp only [Bool.and_eq_true, decide_eq_true_eq] at h
  change decodeWord ((0x37#6) ++ d ++ t ++ (0x3#16)) = _
  rw [decode_major_37 (by simp (disch := decide) only [field, field_high, field_low]; try rfl)]
  simp (disch := decide) only [decodeTree, checked, ne_eq, BitVec.ofNat_eq_ofNat, field, field_high, field_low, mask_0000FFF0, mask_00000008]
  simp [h]

theorem RoundTrip.ttpath (d t b : BitVec 5) : RoundTrip.Statement (.ttpath d t b) := by
  intro h _
  replace h : ((t.toNat ≤ 3) : Bool) = true := h
  simp only [Bool.and_eq_true, decide_eq_true_eq] at h
  change decodeWord ((0x37#6) ++ d ++ t ++ b ++ (0xC#11)) = _
  rw [decode_major_37 (by simp (disch := decide) only [field, field_high, field_low]; try rfl)]
  simp (disch := decide) only [decodeTree, checked, ne_eq, BitVec.ofNat_eq_ofNat, field, field_high, field_low, mask_000007F0, bit3_set]
  simp [h]

theorem RoundTrip.ttprune (d t b : BitVec 5) : RoundTrip.Statement (.ttprune d t b) := by
  intro h _
  replace h : ((t.toNat ≤ 3) : Bool) = true := h
  simp only [Bool.and_eq_true, decide_eq_true_eq] at h
  change decodeWord ((0x37#6) ++ d ++ t ++ b ++ (0xD#11)) = _
  rw [decode_major_37 (by simp (disch := decide) only [field, field_high, field_low]; try rfl)]
  simp (disch := decide) only [decodeTree, checked, ne_eq, BitVec.ofNat_eq_ofNat, field, field_high, field_low, mask_000007F0, bit3_set]
  simp [h]

theorem RoundTrip.ttcommit (d t b : BitVec 5) : RoundTrip.Statement (.ttcommit d t b) := by
  intro h _
  replace h : ((t.toNat ≤ 3) : Bool) = true := h
  simp only [Bool.and_eq_true, decide_eq_true_eq] at h
  change decodeWord ((0x37#6) ++ d ++ t ++ b ++ (0xE#11)) = _
  rw [decode_major_37 (by simp (disch := decide) only [field, field_high, field_low]; try rfl)]
  simp (disch := decide) only [decodeTree, checked, ne_eq, BitVec.ofNat_eq_ofNat, field, field_high, field_low, mask_000007F0, bit3_set]
  simp [h]

theorem RoundTrip.ttcount (d t : BitVec 5) : RoundTrip.Statement (.ttcount d t) := by
  intro h _
  replace h : ((t.toNat ≤ 3) : Bool) = true := h
  simp only [Bool.and_eq_true, decide_eq_true_eq] at h
  change decodeWord ((0x37#6) ++ d ++ t ++ (0x7#16)) = _
  rw [decode_major_37 (by simp (disch := decide) only [field, field_high, field_low]; try rfl)]
  simp (disch := decide) only [decodeTree, checked, ne_eq, BitVec.ofNat_eq_ofNat, field, field_high, field_low, mask_0000FFF0, mask_00000008]
  simp [h]

theorem RoundTrip.kvwalk (d a b : BitVec 5) (k : BitVec 3) (l : BitVec 1) : RoundTrip.Statement (.kvwalk d a b k l) := by
  intro h _
  change decodeWord ((0x38#6) ++ d ++ a ++ b ++ k ++ (0x0#3) ++ l ++ (0x8#4)) = _
  rw [decode_major_38 (by simp (disch := decide) only [field, field_high, field_low]; try rfl)]
  simp (disch := decide) only [decodeKv, checked, ne_eq, BitVec.ofNat_eq_ofNat, field, field_high, field_low, mask_000000E0, bit3_set]
  simp

theorem RoundTrip.kvhint (a b : BitVec 5) (k : BitVec 3) (l : BitVec 1) : RoundTrip.Statement (.kvhint a b k l) := by
  intro h _
  change decodeWord ((0x700#11) ++ a ++ b ++ k ++ (0x0#3) ++ l ++ (0x9#4)) = _
  rw [decode_major_38 (by simp (disch := decide) only [field, field_high, field_low]; try rfl)]
  simp (disch := decide) only [decodeKv, checked, ne_eq, BitVec.ofNat_eq_ofNat, field, field_high, field_low, mask_03E000E0, bit3_set]
  simp

theorem RoundTrip.kvdrop (a : BitVec 5) (k : BitVec 3) (l : BitVec 1) : RoundTrip.Statement (.kvdrop a k l) := by
  intro h _
  change decodeWord ((0x700#11) ++ a ++ (0x0#5) ++ k ++ (0x0#3) ++ l ++ (0x2#4)) = _
  rw [decode_major_38 (by simp (disch := decide) only [field, field_high, field_low]; try rfl)]
  simp (disch := decide) only [decodeKv, checked, ne_eq, BitVec.ofNat_eq_ofNat, field, field_high, field_low, mask_03E0F8E0, mask_00000008]
  simp

theorem RoundTrip.amoadd (d a b : BitVec 5) (s : BitVec 4) (o : BitVec 2) (w : BitVec 1) : RoundTrip.Statement (.amoadd d a b s o w) := by
  intro h _
  rcases bit_cases w with rfl | rfl
  · change decodeWord ((0x39#6) ++ d ++ a ++ b ++ s ++ o ++ (0x0#4) ++ 0#1) = _
    rw [decode_major_39 (by simp (disch := decide) only [field, field_high, field_low]; try rfl)]
    simp (disch := decide) only [decodeAmo, checked, ne_eq, BitVec.ofNat_eq_ofNat, field, field_high, field_low, field_cross]
    simp
  · change decodeWord ((0x39#6) ++ d ++ a ++ b ++ s ++ o ++ (0x0#4) ++ 1#1) = _
    rw [decode_major_39 (by simp (disch := decide) only [field, field_high, field_low]; try rfl)]
    simp (disch := decide) only [decodeAmo, checked, ne_eq, BitVec.ofNat_eq_ofNat, field, field_high, field_low, field_cross]
    simp

theorem RoundTrip.amomin (d a b : BitVec 5) (s : BitVec 4) (o : BitVec 2) (w : BitVec 1) : RoundTrip.Statement (.amomin d a b s o w) := by
  intro h _
  rcases bit_cases w with rfl | rfl
  · change decodeWord ((0x39#6) ++ d ++ a ++ b ++ s ++ o ++ (0x1#4) ++ 0#1) = _
    rw [decode_major_39 (by simp (disch := decide) only [field, field_high, field_low]; try rfl)]
    simp (disch := decide) only [decodeAmo, checked, ne_eq, BitVec.ofNat_eq_ofNat, field, field_high, field_low, field_cross]
    simp
  · change decodeWord ((0x39#6) ++ d ++ a ++ b ++ s ++ o ++ (0x1#4) ++ 1#1) = _
    rw [decode_major_39 (by simp (disch := decide) only [field, field_high, field_low]; try rfl)]
    simp (disch := decide) only [decodeAmo, checked, ne_eq, BitVec.ofNat_eq_ofNat, field, field_high, field_low, field_cross]
    simp

theorem RoundTrip.amomax (d a b : BitVec 5) (s : BitVec 4) (o : BitVec 2) (w : BitVec 1) : RoundTrip.Statement (.amomax d a b s o w) := by
  intro h _
  rcases bit_cases w with rfl | rfl
  · change decodeWord ((0x39#6) ++ d ++ a ++ b ++ s ++ o ++ (0x2#4) ++ 0#1) = _
    rw [decode_major_39 (by simp (disch := decide) only [field, field_high, field_low]; try rfl)]
    simp (disch := decide) only [decodeAmo, checked, ne_eq, BitVec.ofNat_eq_ofNat, field, field_high, field_low, field_cross]
    simp
  · change decodeWord ((0x39#6) ++ d ++ a ++ b ++ s ++ o ++ (0x2#4) ++ 1#1) = _
    rw [decode_major_39 (by simp (disch := decide) only [field, field_high, field_low]; try rfl)]
    simp (disch := decide) only [decodeAmo, checked, ne_eq, BitVec.ofNat_eq_ofNat, field, field_high, field_low, field_cross]
    simp

theorem RoundTrip.amominu (d a b : BitVec 5) (s : BitVec 4) (o : BitVec 2) (w : BitVec 1) : RoundTrip.Statement (.amominu d a b s o w) := by
  intro h _
  rcases bit_cases w with rfl | rfl
  · change decodeWord ((0x39#6) ++ d ++ a ++ b ++ s ++ o ++ (0x3#4) ++ 0#1) = _
    rw [decode_major_39 (by simp (disch := decide) only [field, field_high, field_low]; try rfl)]
    simp (disch := decide) only [decodeAmo, checked, ne_eq, BitVec.ofNat_eq_ofNat, field, field_high, field_low, field_cross]
    simp
  · change decodeWord ((0x39#6) ++ d ++ a ++ b ++ s ++ o ++ (0x3#4) ++ 1#1) = _
    rw [decode_major_39 (by simp (disch := decide) only [field, field_high, field_low]; try rfl)]
    simp (disch := decide) only [decodeAmo, checked, ne_eq, BitVec.ofNat_eq_ofNat, field, field_high, field_low, field_cross]
    simp

theorem RoundTrip.amomaxu (d a b : BitVec 5) (s : BitVec 4) (o : BitVec 2) (w : BitVec 1) : RoundTrip.Statement (.amomaxu d a b s o w) := by
  intro h _
  rcases bit_cases w with rfl | rfl
  · change decodeWord ((0x39#6) ++ d ++ a ++ b ++ s ++ o ++ (0x4#4) ++ 0#1) = _
    rw [decode_major_39 (by simp (disch := decide) only [field, field_high, field_low]; try rfl)]
    simp (disch := decide) only [decodeAmo, checked, ne_eq, BitVec.ofNat_eq_ofNat, field, field_high, field_low, field_cross]
    simp
  · change decodeWord ((0x39#6) ++ d ++ a ++ b ++ s ++ o ++ (0x4#4) ++ 1#1) = _
    rw [decode_major_39 (by simp (disch := decide) only [field, field_high, field_low]; try rfl)]
    simp (disch := decide) only [decodeAmo, checked, ne_eq, BitVec.ofNat_eq_ofNat, field, field_high, field_low, field_cross]
    simp

theorem RoundTrip.amoand (d a b : BitVec 5) (s : BitVec 4) (o : BitVec 2) (w : BitVec 1) : RoundTrip.Statement (.amoand d a b s o w) := by
  intro h _
  rcases bit_cases w with rfl | rfl
  · change decodeWord ((0x39#6) ++ d ++ a ++ b ++ s ++ o ++ (0x5#4) ++ 0#1) = _
    rw [decode_major_39 (by simp (disch := decide) only [field, field_high, field_low]; try rfl)]
    simp (disch := decide) only [decodeAmo, checked, ne_eq, BitVec.ofNat_eq_ofNat, field, field_high, field_low, field_cross]
    simp
  · change decodeWord ((0x39#6) ++ d ++ a ++ b ++ s ++ o ++ (0x5#4) ++ 1#1) = _
    rw [decode_major_39 (by simp (disch := decide) only [field, field_high, field_low]; try rfl)]
    simp (disch := decide) only [decodeAmo, checked, ne_eq, BitVec.ofNat_eq_ofNat, field, field_high, field_low, field_cross]
    simp

theorem RoundTrip.amoor (d a b : BitVec 5) (s : BitVec 4) (o : BitVec 2) (w : BitVec 1) : RoundTrip.Statement (.amoor d a b s o w) := by
  intro h _
  rcases bit_cases w with rfl | rfl
  · change decodeWord ((0x39#6) ++ d ++ a ++ b ++ s ++ o ++ (0x6#4) ++ 0#1) = _
    rw [decode_major_39 (by simp (disch := decide) only [field, field_high, field_low]; try rfl)]
    simp (disch := decide) only [decodeAmo, checked, ne_eq, BitVec.ofNat_eq_ofNat, field, field_high, field_low, field_cross]
    simp
  · change decodeWord ((0x39#6) ++ d ++ a ++ b ++ s ++ o ++ (0x6#4) ++ 1#1) = _
    rw [decode_major_39 (by simp (disch := decide) only [field, field_high, field_low]; try rfl)]
    simp (disch := decide) only [decodeAmo, checked, ne_eq, BitVec.ofNat_eq_ofNat, field, field_high, field_low, field_cross]
    simp

theorem RoundTrip.amoxor (d a b : BitVec 5) (s : BitVec 4) (o : BitVec 2) (w : BitVec 1) : RoundTrip.Statement (.amoxor d a b s o w) := by
  intro h _
  rcases bit_cases w with rfl | rfl
  · change decodeWord ((0x39#6) ++ d ++ a ++ b ++ s ++ o ++ (0x7#4) ++ 0#1) = _
    rw [decode_major_39 (by simp (disch := decide) only [field, field_high, field_low]; try rfl)]
    simp (disch := decide) only [decodeAmo, checked, ne_eq, BitVec.ofNat_eq_ofNat, field, field_high, field_low, field_cross]
    simp
  · change decodeWord ((0x39#6) ++ d ++ a ++ b ++ s ++ o ++ (0x7#4) ++ 1#1) = _
    rw [decode_major_39 (by simp (disch := decide) only [field, field_high, field_low]; try rfl)]
    simp (disch := decide) only [decodeAmo, checked, ne_eq, BitVec.ofNat_eq_ofNat, field, field_high, field_low, field_cross]
    simp

theorem RoundTrip.amoswp (d a b : BitVec 5) (s : BitVec 4) (o : BitVec 2) (w : BitVec 1) : RoundTrip.Statement (.amoswp d a b s o w) := by
  intro h _
  rcases bit_cases w with rfl | rfl
  · change decodeWord ((0x39#6) ++ d ++ a ++ b ++ s ++ o ++ (0x8#4) ++ 0#1) = _
    rw [decode_major_39 (by simp (disch := decide) only [field, field_high, field_low]; try rfl)]
    simp (disch := decide) only [decodeAmo, checked, ne_eq, BitVec.ofNat_eq_ofNat, field, field_high, field_low, field_cross]
    simp
  · change decodeWord ((0x39#6) ++ d ++ a ++ b ++ s ++ o ++ (0x8#4) ++ 1#1) = _
    rw [decode_major_39 (by simp (disch := decide) only [field, field_high, field_low]; try rfl)]
    simp (disch := decide) only [decodeAmo, checked, ne_eq, BitVec.ofNat_eq_ofNat, field, field_high, field_low, field_cross]
    simp

theorem RoundTrip.amocas (d a b : BitVec 5) (s : BitVec 4) (o : BitVec 2) (w : BitVec 1) : RoundTrip.Statement (.amocas d a b s o w) := by
  intro h _
  rcases bit_cases w with rfl | rfl
  · change decodeWord ((0x39#6) ++ d ++ a ++ b ++ s ++ o ++ (0x9#4) ++ 0#1) = _
    rw [decode_major_39 (by simp (disch := decide) only [field, field_high, field_low]; try rfl)]
    simp (disch := decide) only [decodeAmo, checked, ne_eq, BitVec.ofNat_eq_ofNat, field, field_high, field_low, field_cross]
    simp
  · change decodeWord ((0x39#6) ++ d ++ a ++ b ++ s ++ o ++ (0x9#4) ++ 1#1) = _
    rw [decode_major_39 (by simp (disch := decide) only [field, field_high, field_low]; try rfl)]
    simp (disch := decide) only [decodeAmo, checked, ne_eq, BitVec.ofNat_eq_ofNat, field, field_high, field_low, field_cross]
    simp

theorem RoundTrip.amofadd (d a b : BitVec 5) (s : BitVec 4) (o : BitVec 2) : RoundTrip.Statement (.amofadd d a b s o) := by
  intro h _
  change decodeWord ((0x39#6) ++ d ++ a ++ b ++ s ++ o ++ (0x14#5)) = _
  rw [decode_major_39 (by simp (disch := decide) only [field, field_high, field_low]; try rfl)]
  simp (disch := decide) only [decodeAmo, checked, ne_eq, BitVec.ofNat_eq_ofNat, field, field_high, field_low]
  simp

theorem RoundTrip.lda (d a : BitVec 5) (s : BitVec 4) (o w : BitVec 1) : RoundTrip.Statement (.lda d a s o w) := by
  intro h _
  rcases bit_cases w with rfl | rfl
  · change decodeWord ((0x39#6) ++ d ++ a ++ (0x0#5) ++ s ++ (0x0#1) ++ o ++ (0xB#4) ++ 0#1) = _
    rw [decode_major_39 (by simp (disch := decide) only [field, field_high, field_low]; try rfl)]
    simp (disch := decide) only [decodeAmo, checked, ne_eq, BitVec.ofNat_eq_ofNat, field, field_high, field_low, field_cross, mask_0000F800, mask_00000040]
    simp
  · change decodeWord ((0x39#6) ++ d ++ a ++ (0x0#5) ++ s ++ (0x0#1) ++ o ++ (0xB#4) ++ 1#1) = _
    rw [decode_major_39 (by simp (disch := decide) only [field, field_high, field_low]; try rfl)]
    simp (disch := decide) only [decodeAmo, checked, ne_eq, BitVec.ofNat_eq_ofNat, field, field_high, field_low, field_cross, mask_0000F800, mask_00000040]
    simp

theorem RoundTrip.stl (a b : BitVec 5) (s : BitVec 4) (o w : BitVec 1) : RoundTrip.Statement (.stl a b s o w) := by
  intro h _
  rcases bit_cases w with rfl | rfl
  · change decodeWord ((0x720#11) ++ a ++ b ++ s ++ o ++ (0xC#5) ++ 0#1) = _
    rw [decode_major_39 (by simp (disch := decide) only [field, field_high, field_low]; try rfl)]
    simp (disch := decide) only [decodeAmo, checked, ne_eq, BitVec.ofNat_eq_ofNat, field, field_high, field_low, field_cross, mask_03E00000, mask_00000020]
    simp
  · change decodeWord ((0x720#11) ++ a ++ b ++ s ++ o ++ (0xC#5) ++ 1#1) = _
    rw [decode_major_39 (by simp (disch := decide) only [field, field_high, field_low]; try rfl)]
    simp (disch := decide) only [decodeAmo, checked, ne_eq, BitVec.ofNat_eq_ofNat, field, field_high, field_low, field_cross, mask_03E00000, mask_00000020]
    simp

theorem RoundTrip.vamoadd (v a b : BitVec 5) (k : BitVec 3) (s : BitVec 4) : RoundTrip.Statement (.vamoadd v a b k s) := by
  intro h _
  change decodeWord ((0x3A#6) ++ v ++ a ++ b ++ k ++ s ++ (0x0#4)) = _
  rw [decode_major_3A (by simp (disch := decide) only [field, field_high, field_low]; try rfl)]
  simp (disch := decide) only [decodeVamo, checked, ne_eq, BitVec.ofNat_eq_ofNat, field, field_high, field_low]
  simp

theorem RoundTrip.vamomin (v a b : BitVec 5) (k : BitVec 3) (s : BitVec 4) : RoundTrip.Statement (.vamomin v a b k s) := by
  intro h _
  change decodeWord ((0x3A#6) ++ v ++ a ++ b ++ k ++ s ++ (0x1#4)) = _
  rw [decode_major_3A (by simp (disch := decide) only [field, field_high, field_low]; try rfl)]
  simp (disch := decide) only [decodeVamo, checked, ne_eq, BitVec.ofNat_eq_ofNat, field, field_high, field_low]
  simp

theorem RoundTrip.vamomax (v a b : BitVec 5) (k : BitVec 3) (s : BitVec 4) : RoundTrip.Statement (.vamomax v a b k s) := by
  intro h _
  change decodeWord ((0x3A#6) ++ v ++ a ++ b ++ k ++ s ++ (0x2#4)) = _
  rw [decode_major_3A (by simp (disch := decide) only [field, field_high, field_low]; try rfl)]
  simp (disch := decide) only [decodeVamo, checked, ne_eq, BitVec.ofNat_eq_ofNat, field, field_high, field_low]
  simp

theorem RoundTrip.vamofadd (v a b : BitVec 5) (k : BitVec 3) (s : BitVec 4) : RoundTrip.Statement (.vamofadd v a b k s) := by
  intro h _
  change decodeWord ((0x3A#6) ++ v ++ a ++ b ++ k ++ s ++ (0x3#4)) = _
  rw [decode_major_3A (by simp (disch := decide) only [field, field_high, field_low]; try rfl)]
  simp (disch := decide) only [decodeVamo, checked, ne_eq, BitVec.ofNat_eq_ofNat, field, field_high, field_low]
  simp

theorem RoundTrip.vscadd (v a b : BitVec 5) (k : BitVec 3) (s : BitVec 4) : RoundTrip.Statement (.vscadd v a b k s) := by
  intro h _
  change decodeWord ((0x3A#6) ++ v ++ a ++ b ++ k ++ s ++ (0x4#4)) = _
  rw [decode_major_3A (by simp (disch := decide) only [field, field_high, field_low]; try rfl)]
  simp (disch := decide) only [decodeVamo, checked, ne_eq, BitVec.ofNat_eq_ofNat, field, field_high, field_low]
  simp

theorem RoundTrip.accw (a b : BitVec 5) (s : BitVec 4) : RoundTrip.Statement (.accw a b s) := by
  intro h _
  change decodeWord ((0x740#11) ++ a ++ b ++ (0x0#3) ++ s ++ (0x5#4)) = _
  rw [decode_major_3A (by simp (disch := decide) only [field, field_high, field_low]; try rfl)]
  simp (disch := decide) only [decodeVamo, checked, ne_eq, BitVec.ofNat_eq_ofNat, field, field_high, field_low, mask_03E00700]
  simp

theorem RoundTrip.vacc (v a b : BitVec 5) (k : BitVec 3) (s : BitVec 4) : RoundTrip.Statement (.vacc v a b k s) := by
  intro h _
  change decodeWord ((0x3A#6) ++ v ++ a ++ b ++ k ++ s ++ (0x6#4)) = _
  rw [decode_major_3A (by simp (disch := decide) only [field, field_high, field_low]; try rfl)]
  simp (disch := decide) only [decodeVamo, checked, ne_eq, BitVec.ofNat_eq_ofNat, field, field_high, field_low]
  simp

theorem RoundTrip.merge (a : BitVec 5) (s : BitVec 4) : RoundTrip.Statement (.merge a s) := by
  intro h _
  change decodeWord ((0x740#11) ++ a ++ (0x0#8) ++ s ++ (0x7#4)) = _
  rw [decode_major_3A (by simp (disch := decide) only [field, field_high, field_low]; try rfl)]
  simp (disch := decide) only [decodeVamo, checked, ne_eq, BitVec.ofNat_eq_ofNat, field, field_high, field_low, mask_03E0FF00]
  simp

theorem RoundTrip.fence (m : BitVec 16) (s : BitVec 4) : RoundTrip.Statement (.fence m s) := by
  intro h _
  change decodeWord ((0x3B#6) ++ m ++ s ++ (0x0#6)) = _
  rw [decode_major_3B (by simp (disch := decide) only [field, field_high, field_low]; try rfl)]
  simp (disch := decide) only [decodeFence, checked, ne_eq, BitVec.ofNat_eq_ofNat, field, field_high, field_low, mask_00000007]
  simp

theorem RoundTrip.fenceRel (m : BitVec 16) (s : BitVec 4) : RoundTrip.Statement (.fenceRel m s) := by
  intro h _
  change decodeWord ((0x3B#6) ++ m ++ s ++ (0x8#6)) = _
  rw [decode_major_3B (by simp (disch := decide) only [field, field_high, field_low]; try rfl)]
  simp (disch := decide) only [decodeFence, checked, ne_eq, BitVec.ofNat_eq_ofNat, field, field_high, field_low, mask_00000007]
  simp

theorem RoundTrip.fenceAcq (m : BitVec 16) (s : BitVec 4) : RoundTrip.Statement (.fenceAcq m s) := by
  intro h _
  change decodeWord ((0x3B#6) ++ m ++ s ++ (0x10#6)) = _
  rw [decode_major_3B (by simp (disch := decide) only [field, field_high, field_low]; try rfl)]
  simp (disch := decide) only [decodeFence, checked, ne_eq, BitVec.ofNat_eq_ofNat, field, field_high, field_low, mask_00000007]
  simp

theorem RoundTrip.invro (s : BitVec 4) : RoundTrip.Statement (.invro s) := by
  intro h _
  change decodeWord ((0x3B0000#22) ++ s ++ (0x18#6)) = _
  rw [decode_major_3B (by simp (disch := decide) only [field, field_high, field_low]; try rfl)]
  simp (disch := decide) only [decodeFence, checked, ne_eq, BitVec.ofNat_eq_ofNat, field, field_high, field_low, mask_00000007, mask_03FFFC00]
  simp

theorem RoundTrip.cclean (s : BitVec 4) : RoundTrip.Statement (.cclean s) := by
  intro h _
  change decodeWord ((0x3B0000#22) ++ s ++ (0x20#6)) = _
  rw [decode_major_3B (by simp (disch := decide) only [field, field_high, field_low]; try rfl)]
  simp (disch := decide) only [decodeFence, checked, ne_eq, BitVec.ofNat_eq_ofNat, field, field_high, field_low, mask_00000007, mask_03FFFC00]
  simp

theorem RoundTrip.cinval (s : BitVec 4) : RoundTrip.Statement (.cinval s) := by
  intro h _
  change decodeWord ((0x3B0000#22) ++ s ++ (0x28#6)) = _
  rw [decode_major_3B (by simp (disch := decide) only [field, field_high, field_low]; try rfl)]
  simp (disch := decide) only [decodeFence, checked, ne_eq, BitVec.ofNat_eq_ofNat, field, field_high, field_low, mask_00000007, mask_03FFFC00]
  simp

theorem RoundTrip.scopeput (d a : BitVec 5) (s : BitVec 4) : RoundTrip.Statement (.scopeput d a s) := by
  intro h _
  change decodeWord ((0x3C#6) ++ d ++ a ++ (0x0#5) ++ s ++ (0x0#7)) = _
  rw [decode_major_3C (by simp (disch := decide) only [field, field_high, field_low]; try rfl)]
  simp (disch := decide) only [decodeSync, checked, ne_eq, BitVec.ofNat_eq_ofNat, field, field_high, field_low, mask_0000F800, mask_00000060]
  simp

theorem RoundTrip.scopeget (d a : BitVec 5) (s : BitVec 4) : RoundTrip.Statement (.scopeget d a s) := by
  intro h _
  change decodeWord ((0x3C#6) ++ d ++ a ++ (0x0#5) ++ s ++ (0x1#7)) = _
  rw [decode_major_3C (by simp (disch := decide) only [field, field_high, field_low]; try rfl)]
  simp (disch := decide) only [decodeSync, checked, ne_eq, BitVec.ofNat_eq_ofNat, field, field_high, field_low, mask_0000F800, mask_00000060]
  simp

theorem RoundTrip.scopepin (a : BitVec 5) (s : BitVec 4) : RoundTrip.Statement (.scopepin a s) := by
  intro h _
  change decodeWord ((0x780#11) ++ a ++ (0x0#5) ++ s ++ (0x2#7)) = _
  rw [decode_major_3C (by simp (disch := decide) only [field, field_high, field_low]; try rfl)]
  simp (disch := decide) only [decodeSync, checked, ne_eq, BitVec.ofNat_eq_ofNat, field, field_high, field_low, mask_03E0F800, mask_00000060]
  simp

theorem RoundTrip.bar (d : BitVec 5) (s : BitVec 4) : RoundTrip.Statement (.bar d s) := by
  intro h _
  change decodeWord ((0x3C#6) ++ d ++ (0x0#10) ++ s ++ (0x3#7)) = _
  rw [decode_major_3C (by simp (disch := decide) only [field, field_high, field_low]; try rfl)]
  simp (disch := decide) only [decodeSync, checked, ne_eq, BitVec.ofNat_eq_ofNat, field, field_high, field_low, mask_001FF800, mask_00000060]
  simp

theorem RoundTrip.semwait (d a b : BitVec 5) (s : BitVec 4) : RoundTrip.Statement (.semwait d a b s) := by
  intro h _
  change decodeWord ((0x3C#6) ++ d ++ a ++ b ++ s ++ (0x4#7)) = _
  rw [decode_major_3C (by simp (disch := decide) only [field, field_high, field_low]; try rfl)]
  simp (disch := decide) only [decodeSync, checked, ne_eq, BitVec.ofNat_eq_ofNat, field, field_high, field_low, mask_00000060]
  simp

theorem RoundTrip.semtry (d a b : BitVec 5) (s : BitVec 4) : RoundTrip.Statement (.semtry d a b s) := by
  intro h _
  change decodeWord ((0x3C#6) ++ d ++ a ++ b ++ s ++ (0x5#7)) = _
  rw [decode_major_3C (by simp (disch := decide) only [field, field_high, field_low]; try rfl)]
  simp (disch := decide) only [decodeSync, checked, ne_eq, BitVec.ofNat_eq_ofNat, field, field_high, field_low, mask_00000060]
  simp

theorem RoundTrip.sempost (d a b : BitVec 5) (s : BitVec 4) : RoundTrip.Statement (.sempost d a b s) := by
  intro h _
  change decodeWord ((0x3C#6) ++ d ++ a ++ b ++ s ++ (0x6#7)) = _
  rw [decode_major_3C (by simp (disch := decide) only [field, field_high, field_low]; try rfl)]
  simp (disch := decide) only [decodeSync, checked, ne_eq, BitVec.ofNat_eq_ofNat, field, field_high, field_low, mask_00000060]
  simp

theorem RoundTrip.pubhw (d a b : BitVec 5) (s : BitVec 4) : RoundTrip.Statement (.pubhw d a b s) := by
  intro h _
  change decodeWord ((0x3C#6) ++ d ++ a ++ b ++ s ++ (0x7#7)) = _
  rw [decode_major_3C (by simp (disch := decide) only [field, field_high, field_low]; try rfl)]
  simp (disch := decide) only [decodeSync, checked, ne_eq, BitVec.ofNat_eq_ofNat, field, field_high, field_low, mask_00000060]
  simp

theorem RoundTrip.wait (l s c t : BitVec 5) : RoundTrip.Statement (.wait l s c t) := by
  intro h _
  change decodeWord ((0x3D#6) ++ l ++ s ++ c ++ t ++ (0x0#6)) = _
  rw [decode_major_3D (by simp (disch := decide) only [field, field_high, field_low]; try rfl)]
  simp (disch := decide) only [decodeWait, checked, ne_eq, BitVec.ofNat_eq_ofNat, field, field_high, field_low, mask_0000003F]
  simp

theorem RoundTrip.copy (d a b : BitVec 5) (q : BitVec 6) : RoundTrip.Statement (.copy d a b q) := by
  intro h _
  replace h : ((q.toNat < 32) : Bool) = true := h
  simp only [Bool.and_eq_true, decide_eq_true_eq] at h
  change decodeWord ((0x3E#6) ++ d ++ a ++ b ++ q ++ (0x0#5)) = _
  rw [decode_major_3E (by simp (disch := decide) only [field, field_high, field_low]; try rfl)]
  simp (disch := decide) only [decodeEngine, checked, ne_eq, BitVec.ofNat_eq_ofNat, field, field_high, field_low]
  simp [h]

theorem RoundTrip.copy2d (d a : BitVec 5) (q : BitVec 6) : RoundTrip.Statement (.copy2d d a q) := by
  intro h _
  replace h : ((q.toNat < 32) : Bool) = true := h
  simp only [Bool.and_eq_true, decide_eq_true_eq] at h
  change decodeWord ((0x3E#6) ++ d ++ a ++ (0x0#5) ++ q ++ (0x1#5)) = _
  rw [decode_major_3E (by simp (disch := decide) only [field, field_high, field_low]; try rfl)]
  simp (disch := decide) only [decodeEngine, checked, ne_eq, BitVec.ofNat_eq_ofNat, field, field_high, field_low, mask_0000F800]
  simp [h]

theorem RoundTrip.qcopy (d a : BitVec 5) (q : BitVec 6) : RoundTrip.Statement (.qcopy d a q) := by
  intro h _
  replace h : ((q.toNat < 32) : Bool) = true := h
  simp only [Bool.and_eq_true, decide_eq_true_eq] at h
  change decodeWord ((0x3E#6) ++ d ++ a ++ (0x0#5) ++ q ++ (0x2#5)) = _
  rw [decode_major_3E (by simp (disch := decide) only [field, field_high, field_low]; try rfl)]
  simp (disch := decide) only [decodeEngine, checked, ne_eq, BitVec.ofNat_eq_ofNat, field, field_high, field_low, mask_0000F800]
  simp [h]

theorem RoundTrip.decbind (v a : BitVec 5) : RoundTrip.Statement (.decbind v a) := by
  intro h _
  change decodeWord ((0x3E#6) ++ v ++ a ++ (0x3#16)) = _
  rw [decode_major_3E (by simp (disch := decide) only [field, field_high, field_low]; try rfl)]
  simp (disch := decide) only [decodeEngine, checked, ne_eq, BitVec.ofNat_eq_ofNat, field, field_high, field_low, mask_0000FFE0]
  simp

theorem RoundTrip.mcmd (d a : BitVec 5) (q : BitVec 6) : RoundTrip.Statement (.mcmd d a q) := by
  intro h _
  replace h : ((32 ≤ q.toNat && q.toNat < 48) : Bool) = true := h
  simp only [Bool.and_eq_true, decide_eq_true_eq] at h
  change decodeWord ((0x3E#6) ++ d ++ a ++ (0x0#5) ++ q ++ (0x4#5)) = _
  rw [decode_major_3E (by simp (disch := decide) only [field, field_high, field_low]; try rfl)]
  simp (disch := decide) only [decodeEngine, checked, ne_eq, BitVec.ofNat_eq_ofNat, field, field_high, field_low, mask_0000F800]
  simp [h]

theorem RoundTrip.launch (d a : BitVec 5) : RoundTrip.Statement (.launch d a) := by
  intro h _
  change decodeWord ((0x3E#6) ++ d ++ a ++ (0x5#16)) = _
  rw [decode_major_3E (by simp (disch := decide) only [field, field_high, field_low]; try rfl)]
  simp (disch := decide) only [decodeEngine, checked, ne_eq, BitVec.ofNat_eq_ofNat, field, field_high, field_low, mask_0000FFE0]
  simp

theorem RoundTrip.tspawn (d a b : BitVec 5) : RoundTrip.Statement (.tspawn d a b) := by
  intro h _
  change decodeWord ((0x3E#6) ++ d ++ a ++ b ++ (0x6#11)) = _
  rw [decode_major_3E (by simp (disch := decide) only [field, field_high, field_low]; try rfl)]
  simp (disch := decide) only [decodeEngine, checked, ne_eq, BitVec.ofNat_eq_ofNat, field, field_high, field_low, mask_000007E0]
  simp

theorem RoundTrip.tjoin (d : BitVec 5) : RoundTrip.Statement (.tjoin d) := by
  intro h _
  change decodeWord ((0x3E#6) ++ d ++ (0x7#21)) = _
  rw [decode_major_3E (by simp (disch := decide) only [field, field_high, field_low]; try rfl)]
  simp (disch := decide) only [decodeEngine, checked, ne_eq, BitVec.ofNat_eq_ofNat, field, field_high, field_low, mask_001FFFE0]
  simp

theorem RoundTrip.qfence (a : BitVec 5) : RoundTrip.Statement (.qfence a) := by
  intro h _
  change decodeWord ((0x7C0#11) ++ a ++ (0x8#16)) = _
  rw [decode_major_3E (by simp (disch := decide) only [field, field_high, field_low]; try rfl)]
  simp (disch := decide) only [decodeEngine, checked, ne_eq, BitVec.ofNat_eq_ofNat, field, field_high, field_low, mask_03E0FFE0]
  simp

theorem RoundTrip.trap (a : BitVec 5) : RoundTrip.Statement (.trap a) := by
  intro h _
  change decodeWord ((0x7E0#11) ++ a ++ (0x0#16)) = _
  rw [decode_major_3F (by simp (disch := decide) only [field, field_high, field_low]; try rfl) (by simp (disch := decide) only [field, field_high, field_low]; decide) (by simp (disch := decide) only [field, field_high, field_low]; decide)]
  simp (disch := decide) only [decodeSystem, checked, ne_eq, BitVec.ofNat_eq_ofNat, field, field_high, field_low, mask_03E0F800]
  simp

theorem RoundTrip.tlbinv (a b : BitVec 5) : RoundTrip.Statement (.tlbinv a b) := by
  intro h _
  change decodeWord ((0x7E0#11) ++ a ++ b ++ (0x2#11)) = _
  rw [decode_major_3F (by simp (disch := decide) only [field, field_high, field_low]; try rfl) (by simp (disch := decide) only [field, field_high, field_low]; decide) (by simp (disch := decide) only [field, field_high, field_low]; decide)]
  simp (disch := decide) only [decodeSystem, checked, ne_eq, BitVec.ofNat_eq_ofNat, field, field_high, field_low, mask_03E00000]
  simp

theorem RoundTrip.ctxsave (d a b : BitVec 5) : RoundTrip.Statement (.ctxsave d a b) := by
  intro h _
  change decodeWord ((0x3F#6) ++ d ++ a ++ b ++ (0x3#11)) = _
  rw [decode_major_3F (by simp (disch := decide) only [field, field_high, field_low]; try rfl) (by simp (disch := decide) only [field, field_high, field_low]; decide) (by simp (disch := decide) only [field, field_high, field_low]; decide)]
  simp (disch := decide) only [decodeSystem, checked, ne_eq, BitVec.ofNat_eq_ofNat, field, field_high, field_low]
  simp

theorem RoundTrip.ctxload (d a b : BitVec 5) : RoundTrip.Statement (.ctxload d a b) := by
  intro h _
  change decodeWord ((0x3F#6) ++ d ++ a ++ b ++ (0x4#11)) = _
  rw [decode_major_3F (by simp (disch := decide) only [field, field_high, field_low]; try rfl) (by simp (disch := decide) only [field, field_high, field_low]; decide) (by simp (disch := decide) only [field, field_high, field_low]; decide)]
  simp (disch := decide) only [decodeSystem, checked, ne_eq, BitVec.ofNat_eq_ofNat, field, field_high, field_low]
  simp

theorem RoundTrip.engrst (a : BitVec 5) : RoundTrip.Statement (.engrst a) := by
  intro h _
  change decodeWord ((0x7E0#11) ++ a ++ (0x5#16)) = _
  simp (disch := decide) only [decodeWord, isEngrstWord, isMigrateWord, ne_eq, BitVec.ofNat_eq_ofNat, engrstError, mask_03E0F800, field, field_high, field_low]
  simp

theorem RoundTrip.migrate (d a : BitVec 5) : RoundTrip.Statement (.migrate d a) := by
  intro h _
  change decodeWord ((0x3F#6) ++ d ++ a ++ (0x7#16)) = _
  simp (disch := decide) only [decodeWord, isEngrstWord, isMigrateWord, ne_eq, BitVec.ofNat_eq_ofNat, migrateError, mask_0000F800, field, field_high, field_low]
  simp

theorem RoundTrip.tret : RoundTrip.Statement (.tret) := by
  intro h _
  change decodeWord ((0x80000004#32)) = _
  rw [decode_major_20 (by decide)]; rfl

theorem RoundTrip.yield : RoundTrip.Statement (.yield) := by
  intro h _
  change decodeWord ((0x80000006#32)) = _
  rw [decode_major_20 (by decide)]; rfl

theorem RoundTrip.eret : RoundTrip.Statement (.eret) := by
  intro h _
  change decodeWord ((0xFC000001#32)) = _
  rw [decode_major_3F (by decide) (by decide) (by decide)]; rfl

theorem RoundTrip.halt : RoundTrip.Statement (.halt) := by
  intro h _
  change decodeWord ((0xFC000006#32)) = _
  rw [decode_major_3F (by decide) (by decide) (by decide)]; rfl

theorem RoundTrip.idle : RoundTrip.Statement (.idle) := by
  intro h _
  change decodeWord ((0xFC000008#32)) = _
  rw [decode_major_3F (by decide) (by decide) (by decide)]; rfl

theorem RoundTrip.convoyIssue (core : Nat) : RoundTrip.Statement (.convoyIssue core) := by
  intro _ h; cases h

theorem RoundTrip.issueAgeing (core slot : Nat) : RoundTrip.Statement (.issueAgeing core slot) := by
  intro _ h; cases h

theorem RoundTrip.governorWindow (core : Nat) : RoundTrip.Statement (.governorWindow core) := by
  intro _ h; cases h

theorem RoundTrip.trapRecordWrite : RoundTrip.Statement (.trapRecordWrite) := by
  intro _ h; cases h

theorem RoundTrip.threadResume (value : BitVec 64) : RoundTrip.Statement (.threadResume value) := by
  intro _ h; cases h

theorem RoundTrip.doorbell (value : BitVec 64) : RoundTrip.Statement (.doorbell value) := by
  intro _ h; cases h

theorem RoundTrip.dependenceCellRead (launch : Nat) : RoundTrip.Statement (.dependenceCellRead launch) := by
  intro _ h; cases h

theorem RoundTrip.gangPlacement (die cluster : Nat) : RoundTrip.Statement (.gangPlacement die cluster) := by
  intro _ h; cases h

theorem RoundTrip.park (die launch gang : Nat) : RoundTrip.Statement (.park die launch gang) := by
  intro _ h; cases h

theorem RoundTrip.resume (die cluster : Nat) : RoundTrip.Statement (.resume die cluster) := by
  intro _ h; cases h

theorem RoundTrip.taskStart (core slot : Nat) : RoundTrip.Statement (.taskStart core slot) := by
  intro _ h; cases h

theorem RoundTrip.taskDeadlock (launch gang : Nat) : RoundTrip.Statement (.taskDeadlock launch gang) := by
  intro _ h; cases h

theorem RoundTrip.tjoinRelease (core slot : Nat) : RoundTrip.Statement (.tjoinRelease core slot) := by
  intro _ h; cases h

theorem RoundTrip.launchCompletion (launch : Nat) : RoundTrip.Statement (.launchCompletion launch) := by
  intro _ h; cases h

theorem RoundTrip.engineCommandExecute (queue : Nat) : RoundTrip.Statement (.engineCommandExecute queue) := by
  intro _ h; cases h

theorem RoundTrip.commandCompletion (queue : Nat) : RoundTrip.Statement (.commandCompletion queue) := by
  intro _ h; cases h

theorem RoundTrip.mediaParameterRead (queue : Nat) : RoundTrip.Statement (.mediaParameterRead queue) := by
  intro _ h; cases h

theorem RoundTrip.mediaEngineFailure (queue reason : Nat) : RoundTrip.Statement (.mediaEngineFailure queue reason) := by
  intro _ h; cases h

theorem RoundTrip.pageExpand (asid : BitVec 16) (va target : BitVec 64) : RoundTrip.Statement (.pageExpand asid va target) := by
  intro _ h; cases h

theorem RoundTrip.strainerDecode (core slot reg : Nat) : RoundTrip.Statement (.strainerDecode core slot reg) := by
  intro _ h; cases h

theorem RoundTrip.streamPrefetch (core slot reg : Nat) : RoundTrip.Statement (.streamPrefetch core slot reg) := by
  intro _ h; cases h

theorem RoundTrip.diagWordCompletion (core : Nat) : RoundTrip.Statement (.diagWordCompletion core) := by
  intro _ h; cases h

theorem RoundTrip.setvlhwWake (line : Nat) : RoundTrip.Statement (.setvlhwWake line) := by
  intro _ h; cases h

theorem RoundTrip.scopeputDrainComplete (slot entry : Nat) : RoundTrip.Statement (.scopeputDrainComplete slot entry) := by
  intro _ h; cases h

theorem RoundTrip.sharedRead (line agent : Nat) : RoundTrip.Statement (.sharedRead line agent) := by
  intro _ h; cases h

theorem RoundTrip.ownRead (line agent : Nat) : RoundTrip.Statement (.ownRead line agent) := by
  intro _ h; cases h

theorem RoundTrip.writeBack (line agent : Nat) : RoundTrip.Statement (.writeBack line agent) := by
  intro _ h; cases h

theorem RoundTrip.cleanEvict (line agent : Nat) : RoundTrip.Statement (.cleanEvict line agent) := by
  intro _ h; cases h

theorem RoundTrip.forward (line agent : Nat) (own : Bool) : RoundTrip.Statement (.forward line agent own) := by
  intro _ h; cases h

theorem RoundTrip.invalidation (line agent : Nat) : RoundTrip.Statement (.invalidation line agent) := by
  intro _ h; cases h

theorem RoundTrip.clusterCacheEviction (cluster sector : Nat) : RoundTrip.Statement (.clusterCacheEviction cluster sector) := by
  intro _ h; cases h

theorem RoundTrip.memoryScrub (die : Nat) : RoundTrip.Statement (.memoryScrub die) := by
  intro _ h; cases h

theorem RoundTrip.contextCreate (slot : Nat) : RoundTrip.Statement (.contextCreate slot) := by
  intro _ h; cases h

theorem RoundTrip.contextTerminate (slot : Nat) : RoundTrip.Statement (.contextTerminate slot) := by
  intro _ h; cases h

theorem RoundTrip.maxlane (core : Nat) (value : BitVec 64) : RoundTrip.Statement (.maxlane core value) := by
  intro _ h; cases h

theorem RoundTrip.dbudget (core : Nat) (value : BitVec 64) : RoundTrip.Statement (.dbudget core value) := by
  intro _ h; cases h

theorem RoundTrip.lostLineClear (value : BitVec 64) : RoundTrip.Statement (.lostLineClear value) := by
  intro _ h; cases h

theorem RoundTrip.deviceResetWrite (value : BitVec 64) : RoundTrip.Statement (.deviceResetWrite value) := by
  intro _ h; cases h

theorem RoundTrip.deviceRegisterWrite (offset size : Nat) (value : BitVec 64) : RoundTrip.Statement (.deviceRegisterWrite offset size value) := by
  intro _ h; cases h

theorem RoundTrip.mgmtSemaphoreCas (port : Bool) (expected new : BitVec 64) : RoundTrip.Statement (.mgmtSemaphoreCas port expected new) := by
  intro _ h; cases h

theorem RoundTrip.holderLinkDown (port : Bool) : RoundTrip.Statement (.holderLinkDown port) := by
  intro _ h; cases h

theorem RoundTrip.stageImage (port : Bool) (image : List (BitVec 8)) : RoundTrip.Statement (.stageImage port image) := by
  intro _ h; cases h

theorem RoundTrip.commitVersion (port : Bool) (stage : Nat) : RoundTrip.Statement (.commitVersion port stage) := by
  intro _ h; cases h

theorem RoundTrip.setIdentity (port : Bool) (value : BitVec 64) : RoundTrip.Statement (.setIdentity port value) := by
  intro _ h; cases h

theorem RoundTrip.mgmtDeviceReset (port : Bool) : RoundTrip.Statement (.mgmtDeviceReset port) := by
  intro _ h; cases h

theorem RoundTrip.attestationRequest (port : Bool) (nonce : BitVec 256) : RoundTrip.Statement (.attestationRequest port nonce) := by
  intro _ h; cases h

theorem RoundTrip.blackBoxRead (port : Bool) : RoundTrip.Statement (.blackBoxRead port) := by
  intro _ h; cases h

theorem RoundTrip.linkTraining (port : Nat) (peer : BitVec 16) : RoundTrip.Statement (.linkTraining port peer) := by
  intro _ h; cases h

theorem RoundTrip.flitReplay (port : Nat) (good : Bool) : RoundTrip.Statement (.flitReplay port good) := by
  intro _ h; cases h

theorem RoundTrip.coldBoot : RoundTrip.Statement (.coldBoot) := by
  intro _ h; cases h

theorem RoundTrip.wearUpdate (die : Nat) (value : BitVec 16) (firmware : Bool) : RoundTrip.Statement (.wearUpdate die value firmware) := by
  intro _ h; cases h

theorem RoundTrip.idleWake (core : Nat) : RoundTrip.Statement (.idleWake core) := by
  intro _ h; cases h

theorem RoundTrip.fabricLinkDown (port : Nat) : RoundTrip.Statement (.fabricLinkDown port) := by
  intro _ h; cases h

theorem RoundTrip.hostQueueEnable (queue slot : Nat) (base : BitVec 64) (k : Nat) : RoundTrip.Statement (.hostQueueEnable queue slot base k) := by
  intro _ h; cases h

theorem RoundTrip.networkWindowResponse (port : Bool) (offset : Nat) (value : BitVec 512) : RoundTrip.Statement (.networkWindowResponse port offset value) := by
  intro _ h; cases h

end Sys2Proof.Laws
end

