-- ==== Sys2Proof/Tests/Slice0.lean ====
section
/-! SUPPORT. The model's own tests: ill-formed terms that the checks refuse, words from the spec's encoding table, single steps against
values worked out by hand from the spec, and a witness for the hypotheses of each statement. -/

namespace Sys2Proof.Tests

open Sys2Proof Sys2Proof.Machine Sys2Proof.Claims

set_option Elab.async false
set_option synthInstance.maxSize 1000
set_option synthInstance.maxHeartbeats 200000

/-! ## Well-formedness: an ill-formed term for each kind of check -/

theorem test_wf_mask_registers :
    (Instr.vfceq 8 0 0 0 0 0 0).wf = false ∧ (Instr.vceq 8 0 0 0 0 0).wf = false ∧ (Instr.vconflict 8 0 0 0).wf = false ∧
    (Instr.viota 0 8 0).wf = false ∧ (Instr.kand 8 0 0).wf = false ∧ (Instr.kor 0 8 0).wf = false ∧ (Instr.kxor 0 0 8).wf = false ∧
    (Instr.knot 0 8).wf = false ∧ (Instr.kloop 8).wf = false ∧ (Instr.ttmask 8 0 0).wf = false ∧
    (Instr.kandn 7 7 7).wf = true := by decide +kernel

/-- R61: 0x00C is no control register, 0x003 only hardware writes; from 0x800 up the check follows privilege. -/
theorem test_wf_control_registers :
    (Instr.csrr 0 0x00C).wf = false ∧ (Instr.csrw 0 0x003).wf = false ∧ (Instr.csrs 0 0x051).wf = false ∧
    (Instr.csrc 0 0x7FF).wf = false ∧ (Instr.csrr 0 0x060).wf = true ∧ (Instr.csrw 0 0x800).wf = true := by decide +kernel

theorem test_wf_formats_queues_trees :
    (Instr.vld 0 0 0 0 0 14).wf = false ∧ (Instr.vstl 0 0 0 0 0 15).wf = false ∧ (Instr.vldb 0 0 0 0 0 14).wf = false ∧
    (Instr.ttadd 0 4 0).wf = false ∧ (Instr.ttclr 4 0).wf = false ∧ (Instr.copy 0 0 0 32).wf = false ∧ (Instr.copy2d 0 0 32).wf = false ∧
    (Instr.qcopy 0 0 32).wf = false ∧ (Instr.mcmd 0 0 31).wf = false ∧ (Instr.mcmd 0 0 48).wf = false ∧ (Instr.mcmd 0 0 47).wf = true := by
  decide +kernel

theorem test_wf_events :
    (Instr.convoyIssue 4112).wf = false ∧ (Instr.issueAgeing 0 4).wf = false ∧ (Instr.gangPlacement 8 0).wf = false ∧
    (Instr.gangPlacement 0 16).wf = false ∧ (Instr.park 8 0 0).wf = false ∧ (Instr.resume 0 16).wf = false ∧
    (Instr.taskStart 4096 0).wf = false ∧ (Instr.tjoinRelease 4112 0).wf = false ∧ (Instr.engineCommandExecute 56).wf = false ∧
    (Instr.commandCompletion 56).wf = false ∧ (Instr.mediaParameterRead 48).wf = false ∧ (Instr.mediaEngineFailure 32 5).wf = false ∧
    (Instr.strainerDecode 0 0 32).wf = false ∧ (Instr.streamPrefetch 0 4 0).wf = false ∧ (Instr.diagWordCompletion 4112).wf = false ∧
    (Instr.scopeputDrainComplete 64 0).wf = false ∧ (Instr.clusterCacheEviction 129 0).wf = false ∧ (Instr.memoryScrub 8).wf = false ∧
    (Instr.contextCreate 64).wf = false ∧ (Instr.contextTerminate 64).wf = false ∧ (Instr.maxlane 4096 0).wf = false ∧
    (Instr.dbudget 4096 0).wf = false ∧ (Instr.commitVersion true 4).wf = false ∧ (Instr.linkTraining 18 0).wf = false ∧
    (Instr.flitReplay 18 true).wf = false ∧ (Instr.wearUpdate 9 0 true).wf = false ∧ (Instr.idleWake 4095).wf = false ∧
    (Instr.fabricLinkDown 18).wf = false ∧ (Instr.hostQueueEnable 256 0 0 1).wf = false ∧ (Instr.governorWindow 4112).wf = false ∧
    (Instr.hostQueueEnable 255 63 0 16).wf = true := by decide +kernel

/-! ## Words of the encoding table: match and field positions of spec/opcode_table.json -/

/-- Each word decodes to the instruction beside it. -/
def Decodes : List (BitVec 32 × Instr) → Prop
  | [] => True
  | (w, i) :: t => decodeWord w = .ok i ∧ Decodes t

theorem test_decode_integer : Decodes
  [(0x0666C800, .add 19 6 25), (0x0666C801, .sub 19 6 25), (0x0666C802, .and 19 6 25), (0x0666C803, .or 19 6 25),
   (0x0666C804, .xor 19 6 25), (0x0666C805, .sll 19 6 25), (0x0666C806, .srl 19 6 25), (0x0666C807, .sra 19 6 25),
   (0x0666C808, .slt 19 6 25), (0x0666C809, .sltu 19 6 25), (0x0666C80A, .min 19 6 25), (0x0666C80B, .max 19 6 25),
   (0x0666C80C, .minu 19 6 25), (0x0666C80D, .maxu 19 6 25), (0x0666C80E, .mul 19 6 25), (0x0666C80F, .mulh 19 6 25),
   (0x0666C810, .mulhu 19 6 25), (0x0666C811, .div 19 6 25), (0x0666C812, .divu 19 6 25), (0x0666C813, .rem 19 6 25),
   (0x0666C814, .remu 19 6 25), (0x06660015, .popc 19 6), (0x06660016, .clz 19 6), (0x06660017, .ctz 19 6)] := by
  repeat (first | exact trivial | refine ⟨rfl, ?_⟩)

theorem test_decode_immediates : Decodes
  [(0x0A669A36, .addi 19 6 0x9A36), (0x0E669A36, .andi 19 6 0x9A36), (0x12669A36, .ori 19 6 0x9A36),
   (0x16669A36, .xori 19 6 0x9A36), (0x1A669A36, .slti 19 6 0x9A36), (0x1E660015, .slli 19 6 21), (0x1E664015, .srli 19 6 21),
   (0x1E668015, .srai 19 6 21), (0x2A73579B, .lui 19 0x13579B), (0x2E73579B, .lqa 19 0x13579B)] := by
  repeat (first | exact trivial | refine ⟨rfl, ?_⟩)

theorem test_decode_float_scalar : Decodes
  [(0x2266C800, .fadd 19 6 25), (0x2266C801, .fsub 19 6 25), (0x2266C802, .fmul 19 6 25), (0x2266C803, .fdiv 19 6 25),
   (0x22660004, .fsqrt 19 6), (0x2266C805, .fmin 19 6 25), (0x2266C806, .fmax 19 6 25), (0x2266C807, .feq 19 6 25),
   (0x2266C808, .flt 19 6 25), (0x2266C809, .fle 19 6 25), (0x2266000A, .fcvtfi 19 6), (0x2266000B, .fcvtif 19 6)] := by
  repeat (first | exact trivial | refine ⟨rfl, ?_⟩)

theorem test_decode_float_compare : Decodes
  [(0x24C6CD70, .vfceq 6 6 25 5 3 1 0), (0x24C6CD71, .vfcne 6 6 25 5 3 1 0), (0x24C6CD72, .vfclt 6 6 25 5 3 1 0),
   (0x24C6CD73, .vfcle 6 6 25 5 3 1 0), (0x24C6CD74, .vfcgt 6 6 25 5 3 1 0), (0x24C6CD75, .vfcge 6 6 25 5 3 1 0),
   (0x24C6CD76, .vfcun 6 6 25 5 3 1 0)] := by
  repeat (first | exact trivial | refine ⟨rfl, ?_⟩)

theorem test_decode_loads : Decodes
  [(0x326699A7, .ldb 19 6 9 0x9A7), (0x366699A7, .ldbu 19 6 9 0x9A7), (0x3A6699A7, .ldh 19 6 9 0x9A7),
   (0x3E6699A7, .ldhu 19 6 9 0x9A7), (0x426699A7, .ldw 19 6 9 0x9A7), (0x466699A7, .ldwu 19 6 9 0x9A7),
   (0x4A6699A7, .ldd 19 6 9 0x9A7)] := by
  repeat (first | exact trivial | refine ⟨rfl, ?_⟩)

theorem test_decode_stores : Decodes
  [(0x4E6699A7, .stb 19 6 9 0x9A7), (0x526699A7, .sth 19 6 9 0x9A7), (0x566699A7, .stw 19 6 9 0x9A7),
   (0x5A6699A7, .std 19 6 9 0x9A7)] := by
  repeat (first | exact trivial | refine ⟨rfl, ?_⟩)

theorem test_decode_control : Decodes
  [(0x5CD99A36, .beq 6 25 0x9A36), (0x60D99A36, .bne 6 25 0x9A36), (0x64D99A36, .blt 6 25 0x9A36),
   (0x68D99A36, .bge 6 25 0x9A36), (0x6CD99A36, .bltu 6 25 0x9A36), (0x70D99A36, .bgeu 6 25 0x9A36), (0x76468ACE, .j 0x2468ACE),
   (0x7A468ACE, .jal 0x2468ACE), (0x7E669A36, .jalr 19 6 0x9A36), (0x82609A70, .csrr 19 0x9A7), (0x80069A71, .csrw 6 0x9A7),
   (0x80069A72, .csrs 6 0x9A7), (0x80069A73, .csrc 6 0x9A7), (0x80000004, .tret), (0x80009A75, .trapu 0x9A7),
   (0x80000006, .yield), (0x86660000, .setvl 19 6), (0x8666C801, .setvlhw 19 6 25), (0x86660002, .settype 19 6)] := by
  repeat (first | exact trivial | refine ⟨rfl, ?_⟩)

theorem test_decode_vector_memory : Decodes
  [(0xB266CD99, .vld 19 6 25 5 9 9), (0xB666CD99, .vlds 19 6 25 5 9 9), (0xBA66CD99, .vldx 19 6 25 5 9 9),
   (0xBE66CD99, .vldl 19 6 25 5 9 9), (0xC266CD99, .vst 19 6 25 5 9 9), (0xC666CD99, .vsts 19 6 25 5 9 9),
   (0xCA66CD99, .vstx 19 6 25 5 9 9), (0xCE66CD99, .vstl 19 6 25 5 9 9), (0xD266CD99, .vldb 19 6 25 5 9 9)] := by
  repeat (first | exact trivial | refine ⟨rfl, ?_⟩)

theorem test_decode_masks_and_integers : Decodes
  [(0x8A66CD10, .vadd 19 6 25 5 1 0), (0x8A66CD11, .vsub 19 6 25 5 1 0), (0x8A66CD12, .vmul 19 6 25 5 1 0),
   (0x8A66CD13, .vmulh 19 6 25 5 1 0), (0x8A66CD14, .vmin 19 6 25 5 1 0), (0x8A66CD15, .vmax 19 6 25 5 1 0),
   (0x8A66CD16, .vminu 19 6 25 5 1 0), (0x8A66CD17, .vmaxu 19 6 25 5 1 0), (0x8E66CD10, .vand 19 6 25 5 1 0),
   (0x8E66CD11, .vor 19 6 25 5 1 0), (0x8E66CD12, .vxor 19 6 25 5 1 0), (0x8E66CD13, .vsll 19 6 25 5 1 0),
   (0x8E66CD14, .vsrl 19 6 25 5 1 0), (0x8E66CD15, .vsra 19 6 25 5 1 0), (0x8E660516, .vpopc 19 6 5 1),
   (0x8E660517, .vclz 19 6 5 1)] := by
  repeat (first | exact trivial | refine ⟨rfl, ?_⟩)

theorem test_decode_vector_float : Decodes
  [(0x9266CD70, .vfadd 19 6 25 5 3 1 0), (0x9266CD71, .vfsub 19 6 25 5 3 1 0), (0x9266CD72, .vfmul 19 6 25 5 3 1 0),
   (0x9266CD73, .vfdiv 19 6 25 5 3 1 0), (0x9266CD74, .vfmin 19 6 25 5 3 1 0), (0x9266CD75, .vfmax 19 6 25 5 3 1 0),
   (0x92660576, .vfsqrt 19 6 5 3 1), (0x92660577, .vfrsq 19 6 5 3 1), (0x9666CD70, .vfma 19 6 25 5 3 1 0),
   (0x9666CD71, .vfms 19 6 25 5 3 1 0), (0x9666CD72, .vfnma 19 6 25 5 3 1 0), (0x9666CD73, .vfnms 19 6 25 5 3 1 0),
   (0x96660574, .vfexp2 19 6 5 3 1), (0x96660575, .vflog2 19 6 5 3 1), (0x96660576, .vfrcp 19 6 5 3 1),
   (0x96660517, .vfclass 19 6 5 1), (0x98C6CD10, .vceq 6 6 25 5 1 0), (0x98C6CD11, .vcne 6 6 25 5 1 0),
   (0x98C6CD12, .vclt 6 6 25 5 1 0), (0x98C6CD13, .vcle 6 6 25 5 1 0), (0x98C6CD14, .vcltu 6 6 25 5 1 0),
   (0x98C6CD15, .vcleu 6 6 25 5 1 0), (0x98C6CD16, .vcgt 6 6 25 5 1 0), (0x98C6CD17, .vcgtu 6 6 25 5 1 0),
   (0x9E660570, .vcvtFBf 19 6 5 3 1), (0x9E660571, .vcvtBfF 19 6 5 3 1), (0x9E660572, .vcvtFI 19 6 5 3 1),
   (0x9E660573, .vcvtIF 19 6 5 3 1), (0x9E660514, .vwiden 19 6 5 1), (0x9E660515, .vwidenu 19 6 5 1),
   (0x9E660516, .vnarrow 19 6 5 1), (0x9E660517, .vnarrowu 19 6 5 1)] := by
  repeat (first | exact trivial | refine ⟨rfl, ?_⟩)

theorem test_decode_major_28 : Decodes
  [(0xA2660510, .vmv 19 6 5 1), (0xA260CD09, .vbcast 19 25 5), (0xA266CD12, .vmerge 19 6 25 5 1 0),
   (0xA266C80B, .vextr 19 6 25), (0xA266C80C, .vins 19 6 25), (0xA2600505, .vid 19 5), (0xA2620506, .viota 19 2 5),
   (0xA2660517, .vcompress 19 6 5 1)] := by
  repeat (first | exact trivial | refine ⟨rfl, ?_⟩)

theorem test_decode_major_29 : Decodes
  [(0xA666CD18, .vslideup 19 6 25 5 1), (0xA666CD19, .vslidedn 19 6 25 5 1), (0xA666CD12, .vpermute 19 6 25 5 1),
   (0xA6660513, .vexpand 19 6 5 1), (0xA4C60514, .vconflict 6 6 5 1), (0xA666CD1D, .vtopk 19 6 25 5 1),
   (0xA6660516, .vrev 19 6 5 1), (0xA666CD1F, .vscan 19 6 25 5 1)] := by
  repeat (first | exact trivial | refine ⟨rfl, ?_⟩)

theorem test_decode_major_2A : Decodes
  [(0xAA66CD18, .vredsum 19 6 25 5 1), (0xAA66CD19, .vfredsum 19 6 25 5 1), (0xAA66CD1A, .vfredosum 19 6 25 5 1),
   (0xAA66CD1B, .vredmin 19 6 25 5 1), (0xAA66CD1C, .vredmax 19 6 25 5 1), (0xAA660515, .vfredmini 19 6 5 1),
   (0xAA660516, .vfredmaxi 19 6 5 1), (0xAA660517, .vredminui 19 6 5 1)] := by
  repeat (first | exact trivial | refine ⟨rfl, ?_⟩)

theorem test_decode_major_2B : Decodes
  [(0xACC22800, .kand 6 2 5), (0xACC22801, .kor 6 2 5), (0xACC22802, .kxor 6 2 5), (0xACC22803, .kandn 6 2 5),
   (0xACC20004, .knot 6 2), (0xACC00005, .kloop 6), (0xACC20006, .kpopc 6 2), (0xACC20007, .kfirst 6 2)] := by
  repeat (first | exact trivial | refine ⟨rfl, ?_⟩)

theorem test_decode_major_35 : Decodes
  [(0xD6660000, .sbind 19 6), (0xD6600001, .sunbind 19), (0xD6730002, .send 19 19), (0xD6660003, .sseek 19 6),
   (0xD6730004, .spos 19 19)] := by
  repeat (first | exact trivial | refine ⟨rfl, ?_⟩)

theorem test_decode_major_36 : Decodes
  [(0xDA800260, .dcfg 5 19), (0xDA800001, .dzero 5), (0xDAD36662, .dmac 5 5 6 25 19), (0xDAD36663, .dmacs 5 5 6 25 19),
   (0xDAD06664, .dmact 5 5 25 19), (0xDA836665, .dmm 5 6 25 19), (0xDAD30266, .drd 5 5 6 19), (0xDAD30267, .dwr 5 5 6 19),
   (0xDA800268, .dwmark 5 19)] := by
  repeat (first | exact trivial | refine ⟨rfl, ?_⟩)

theorem test_decode_major_37 : Decodes
  [(0xDC02C808, .ttclr 2 25), (0xDE62C801, .ttadd 19 2 25), (0xDCC2C80A, .ttmask 6 2 25), (0xDE620003, .ttpos 19 2),
   (0xDE62C80C, .ttpath 19 2 25), (0xDE62C80D, .ttprune 19 2 25), (0xDE62C80E, .ttcommit 19 2 25), (0xDE620007, .ttcount 19 2)] := by
  repeat (first | exact trivial | refine ⟨rfl, ?_⟩)

theorem test_decode_major_38 : Decodes
  [(0xE266CD18, .kvwalk 19 6 25 5 1), (0xE006CD19, .kvhint 6 25 5 1), (0xE0060512, .kvdrop 6 5 1)] := by
  repeat (first | exact trivial | refine ⟨rfl, ?_⟩)

theorem test_decode_major_39 : Decodes
  [(0xE666C841, .amoadd 19 6 25 0 2 1), (0xE666C843, .amomin 19 6 25 0 2 1), (0xE666C845, .amomax 19 6 25 0 2 1),
   (0xE666C847, .amominu 19 6 25 0 2 1), (0xE666C849, .amomaxu 19 6 25 0 2 1), (0xE666C84B, .amoand 19 6 25 0 2 1),
   (0xE666C84D, .amoor 19 6 25 0 2 1), (0xE666C84F, .amoxor 19 6 25 0 2 1), (0xE666C851, .amoswp 19 6 25 0 2 1),
   (0xE666C853, .amocas 19 6 25 0 2 1), (0xE666C854, .amofadd 19 6 25 0 2), (0xE6660037, .lda 19 6 0 1 1),
   (0xE406C859, .stl 6 25 0 1 1)] := by
  repeat (first | exact trivial | refine ⟨rfl, ?_⟩)

theorem test_decode_major_3A : Decodes
  [(0xEA66CD00, .vamoadd 19 6 25 5 0), (0xEA66CD01, .vamomin 19 6 25 5 0), (0xEA66CD02, .vamomax 19 6 25 5 0),
   (0xEA66CD03, .vamofadd 19 6 25 5 0), (0xEA66CD04, .vscadd 19 6 25 5 0), (0xE806C805, .accw 6 25 0),
   (0xEA66CD06, .vacc 19 6 25 5 0), (0xE8060007, .merge 6 0)] := by
  repeat (first | exact trivial | refine ⟨rfl, ?_⟩)

theorem test_decode_major_3B : Decodes
  [(0xEE68D800, .fence 0x9A36 0), (0xEE68D808, .fenceRel 0x9A36 0), (0xEE68D810, .fenceAcq 0x9A36 0), (0xEC000018, .invro 0),
   (0xEC000020, .cclean 0), (0xEC000028, .cinval 0)] := by
  repeat (first | exact trivial | refine ⟨rfl, ?_⟩)

theorem test_decode_major_3C : Decodes
  [(0xF2660000, .scopeput 19 6 0), (0xF2660001, .scopeget 19 6 0), (0xF0060002, .scopepin 6 0), (0xF2600003, .bar 19 0),
   (0xF266C804, .semwait 19 6 25 0), (0xF266C805, .semtry 19 6 25 0), (0xF266C806, .sempost 19 6 25 0),
   (0xF266C807, .pubhw 19 6 25 0)] := by
  repeat (first | exact trivial | refine ⟨rfl, ?_⟩)

theorem test_decode_major_3D : Decodes
  [(0xF4209CC0, .wait 1 0 19 19)] := by
  repeat (first | exact trivial | refine ⟨rfl, ?_⟩)

theorem test_decode_major_3E : Decodes
  [(0xFA66CAA0, .copy 19 6 25 21), (0xFA6602A1, .copy2d 19 6 21), (0xFA6602A2, .qcopy 19 6 21), (0xFA660003, .decbind 19 6),
   (0xFA6604A4, .mcmd 19 6 0x25), (0xFA660005, .launch 19 6), (0xFA66C806, .tspawn 19 6 25), (0xFA600007, .tjoin 19),
   (0xF8060008, .qfence 6)] := by
  repeat (first | exact trivial | refine ⟨rfl, ?_⟩)

theorem test_decode_major_3F : Decodes
  [(0xFC060000, .trap 6), (0xFC000001, .eret), (0xFC06C802, .tlbinv 6 25), (0xFE66C803, .ctxsave 19 6 25),
   (0xFE66C804, .ctxload 19 6 25), (0xFC060005, .engrst 6), (0xFC000006, .halt), (0xFE660007, .migrate 19 6),
   (0xFC000008, .idle)] := by
  repeat (first | exact trivial | refine ⟨rfl, ?_⟩)

/-! ## Witnesses: states and operands that meet the hypotheses of the statements -/

/-- Reset with scalar registers loaded. -/
def loaded (l : List (Nat × Word)) : State := State.reset.onTh (fun t => l.foldl (fun t p => t.setReg p.1 p.2) t)

/-- The first address of the scratchpad range (R15). -/
def pad : Word := 0x8000000000000000#64

theorem witness_FloatSpecialOperands :
    invalidSum 0x7F800000 0xFF800000 = true ∧ invalidSum 0x7F800001 0 = true ∧ invalidSum 0x7FC00000 0 = false ∧ nan32 0x7FC00000 = true ∧
    invalidProduct 0 0x7F800000 = true ∧ invalidProduct 0x7FC00000 1 = false ∧ invalidQuotient 0 0x80000000 = true ∧
    invalidQuotient 0x7FC00000 0 = false ∧ number32 0x3F800000 = true ∧ zero32 0x80000000 = true ∧ nan32 0x3F800000 = false ∧
    (neg32 0xFF800000 = true ∧ zero32 0xFF800000 = false ∧ nan32 0xFF800000 = false) := by decide

theorem witness_ScalarScratchpadAccess_loads :
    let s := loaded [(2, pad + 0x1FFF8)]
    (ea s 2 0).toNat % 8 = 0 ∧ InWindow s (ea s 2 0) 8 ∧ s.damage.contains (.scratch s.th.core ((ea s 2 0).toNat % 2 ^ 17 / 8)) = false := by
  unfold InWindow; decide +kernel

theorem witness_MisalignedScalarAccess :
    let s := loaded [(2, pad + 1)]
    s.cv.fault = none ∧ (ea s 2 0).toNat % 2 ≠ 0 ∧ (ea s 2 0xFFE).toNat % 8 ≠ 0 := by decide +kernel

/-- Every kind of class that the rounding, widening and narrowing clauses tell apart: 0.3 and a subnormal, infinity, the quiet and a
signalling NaN; the codes 0x7F of both FP8 formats; a block of numbers, one of zeros and one with an infinity. -/
theorem witness_RoundedResults :
    (0 < 5 ∧ 1 ≠ 0 ∧ (fmtE5M2, 57344, 2 ^ (-16 : Int)) ∈ signedFormats) ∧
    (FiniteCode fmtF32 0x3E99999A ∧ FiniteCode fmtF32 0x80000001 ∧ codeValue fmtF32 0x3E99999A + codeValue fmtF32 0x80000001 ≠ 0) ∧
    (fmtLegal 8 16 = true ∧ 0x7F < 2 ^ fmtE5M2.width ∧ fmtE5M2.maxCode < codeMag fmtE5M2 0x7F ∧ codeMag fmtE5M2 0x7B ≤ fmtE5M2.maxCode ∧
      fmtE4M3.maxCode < codeMag fmtE4M3 0x7F ∧ fmtE4M3.inf = none ∧ 15 < 16 ∧ 255 < 256 ∧ 0xFFFF < 65536) ∧
    (codeMag fmtF32 0x80000000 = 0 ∧ 0 < codeMag fmtF32 1 ∧ codeMag fmtF32 1 ≤ fmtF32.maxCode ∧ codeMag fmtF32 0xFF800000 = fmtF32.inf.getD 0 ∧
      fmtF32.inf.getD 0 < codeMag fmtF32 0x7FC00000 ∧ fmtF32.inf.getD 0 < codeMag fmtF32 0x7F800001) ∧
    ([0x3F80, 0, 0x8000, 0x7F80, 0x7FC0, 1, 2, 3].length = 8 ∧ ∀ v ∈ [0x3F80, 0, 0x8000, 0x7F80, 0x7FC0, 1, 2, 3], v < 2 ^ 16) := by
  unfold FiniteCode; decide +kernel

/-- A pair whose first part is known. -/
theorem paired {α β : Type} {p : α × β} {a : α} (h : p.1 = a) : p = (a, p.2) := by rw [← h]

/-- Reset with a page table at 0 whose one leaf maps addresses below 2^38 to themselves (R367). -/
def mapped (l : List (Nat × Word)) : State := { loaded l with mem := [(0, 1), (2, 1), (65536, 0x3F), (65537, 3)] }

/-- The same with one leaf for those addresses. -/
def mappedAs (leaf : Nat) (l : List (Nat × Word)) : State := { loaded l with mem := cellsMerge [(0, 1), (2, 1)] 65536 leaf (2 ^ 64 - 1) 8 }

/-- A network window from its start, and the device's registers (R241). -/
def netLeaf : Nat := 0x780000003FF
def deviceLeaf : Nat := 0x700000003EF

/-- Memory by class 0 and class 15, with a sector that the read-only path still holds; both halves of the management semaphore and a size that
no register takes; a window load before and after its answer. -/
theorem witness_ScalarLoadMemory :
    let s := mapped [(2, 0x20008)]
    let r := { s with ro := [⟨4096, 0x1000, 5⟩] }
    let d := mappedAs deviceLeaf [(2, 4), (3, 2)]
    let n := mappedAs netLeaf [(2, 8)]
    let a : NetAccess := ⟨0, false, 8, 8, false, 0x1122⟩
    let m := { n with netIn := [a] }
    (∃ s1, (ea s 2 0).toNat % 8 = 0 ∧ Leads s (ea s 2 0) 8 0 (.cluster 128 0x20008) s1 ∧
      0x20008 % 8 = 0 ∧ s1.damageAt (.cluster 128 0x20008) = none) ∧
    (∃ s1, Leads r (ea r 2 0) 8 0 (.cluster 128 0x20008) s1 ∧ s1.damageAt (.cluster 128 0x20008) = none ∧ s1.roBad 0x20008 = false) ∧
    (∃ s1, (ea d 2 0).toNat % 4 = 0 ∧ Leads d (ea d 2 0) 4 0 (.device (7 * 2 ^ 40 + 4)) s1 ∧ (0, State.mgmt) ∈ deviceReads ∧ 4 + 4 ≤ 8) ∧
    (∃ s1, (ea d 3 0).toNat % 2 = 0 ∧ Leads d (ea d 3 0) 2 0 (.device (7 * 2 ^ 40 + 2)) s1 ∧ 2 < 4 ∧ s1.cv.fault = none) ∧
    (∃ s1, Leads n (ea n 2 0) 8 0 (.window false 8) s1 ∧
      s1.netIn.find? (fun x => x.uid == n.th.uid && x.port == false && x.off == 8 && x.size == 8) = none) ∧
    (∃ s1, Leads m (ea m 2 0) 8 0 (.window false 8) s1 ∧
      s1.netIn.find? (fun x => x.uid == m.th.uid && x.port == false && x.off == 8 && x.size == 8) = some a) :=
  ⟨⟨_, by decide +kernel, ⟨0, paired (by decide +kernel)⟩, by decide, by decide +kernel⟩,
    ⟨_, ⟨0, paired (by decide +kernel)⟩, by decide +kernel, by decide +kernel⟩,
    ⟨_, by decide +kernel, ⟨3, paired (by decide +kernel)⟩, by simp [deviceReads], by decide⟩,
    ⟨_, by decide +kernel, ⟨3, paired (by decide +kernel)⟩, by decide, by decide +kernel⟩,
    ⟨_, ⟨3, paired (by decide +kernel)⟩, by decide +kernel⟩, ⟨_, ⟨3, paired (by decide +kernel)⟩, by decide +kernel⟩⟩

theorem witness_ScalarScratchpadAccess_stores :
    let s := loaded [(2, pad + 0x1FFFF)]
    (ea s 2 0).toNat % 1 = 0 ∧ InWindow s (ea s 2 0) 1 ∧
    (s.releaseFences (some (3#4).toNat) (ea s 2 0) 1 s.cv.vstart0).stopsAt s.cv.vstart0 = false := by
  unfold InWindow; decide +kernel

/-- Memory; a register that takes 8 bytes, and 4 bytes of it; a park region's size; the reset register; a window. -/
theorem witness_ScalarStoreMemory :
    let s := mapped [(2, 0x20008)]
    let d := mappedAs deviceLeaf [(2, 0x3000), (3, 0x4078), (4, 0x10)]
    let n := mappedAs netLeaf [(2, 8)]
    (∃ s1, (ea s 2 0).toNat % 8 = 0 ∧ Leads s (ea s 2 0) 8 1 (.cluster 128 0x20008) s1 ∧
      0x20008 % 8 = 0 ∧ s1.lineLost 0x20008 = false ∧ s1.th.det = false ∧ s1.th.fencesOn (some (3#4).toNat) = [] ∧ s1.hasRoom 128 0x20008 = true) ∧
    (∃ s1, (ea d 2 0).toNat % 8 = 0 ∧ Leads d (ea d 2 0) 8 1 (.device (7 * 2 ^ 40 + 0x3000)) s1 ∧ s1.th.fencesOn (some 0) = [] ∧
      s1.stopsAt d.cv.vstart0 = false) ∧
    (∃ s1, Leads d (ea d 2 0) 4 1 (.device (7 * 2 ^ 40 + 0x3000)) s1 ∧ s1.stopsAt d.cv.vstart0 = false ∧ s1.cv.fault = none ∧
      (7 * 2 ^ 40 + 0x3000) / 8 * 8 = 7 * 2 ^ 40 + 0x3000) ∧
    (∃ s1, Leads d (ea d 3 0) 8 1 (.device (7 * 2 ^ 40 + 0x4008 + 16 * 7)) s1 ∧ 7 < 8) ∧
    (∃ s1, Leads d (ea d 4 0) 8 1 (.device (7 * 2 ^ 40 + 0x10)) s1 ∧ s1.privileged = true) ∧
    (∃ s1, Leads n (ea n 2 0) 8 1 (.window false 8) s1 ∧ s1.th.fencesOn (some 0) = [] ∧ s1.stopsAt n.cv.vstart0 = false) :=
  ⟨⟨_, by decide +kernel, ⟨0, paired (by decide +kernel)⟩, by decide +kernel⟩,
    ⟨_, by decide +kernel, ⟨3, paired (by decide +kernel)⟩, by decide +kernel⟩, ⟨_, ⟨3, paired (by decide +kernel)⟩, by decide +kernel⟩,
    ⟨_, ⟨3, paired (by decide +kernel)⟩, by decide⟩, ⟨_, ⟨3, paired (by decide +kernel)⟩, by decide +kernel⟩,
    ⟨_, ⟨3, paired (by decide +kernel)⟩, by decide +kernel⟩⟩

/-- Reset with the convoy in progress at an address. -/
def convoyAt (x : Word) (l : List (Nat × Word)) : State := { loaded l with cv := { Convoy.empty with addr := x } }

/-- Not taken; taken to the last convoy below 2^56, to the first above the hole, and to convoy 0; a jump and a JALR there. -/
theorem witness_BranchesAndJumps :
    let low := convoyAt 0x00FFFFFFFFFFFFE0 [(1, 5), (2, 0x00FFFFFFFFFFFFF0)]
    let high := convoyAt 0xFF00000000000010 []
    let first := convoyAt 16 []
    ((low.reg 1 == low.reg 2) = false) ∧
    ((low.reg 1 == low.reg 1) = true ∧ 0 ≤ (low.cv.addr.toNat : Int) + (1#16).toInt * 16 ∧
      (low.cv.addr.toNat : Int) + (1#16).toInt * 16 < 2 ^ 64 ∧ Reachable (BitVec.ofInt 64 ((low.cv.addr.toNat : Int) + (1#16).toInt * 16))) ∧
    (Settled high ∧ Reachable (BitVec.ofInt 64 ((high.cv.addr.toNat : Int) + (0x3FFFFFF#26).toInt * 16))) ∧
    (Settled first ∧ 0 ≤ (first.cv.addr.toNat : Int) + (0x3FFFFFF#26).toInt * 16 ∧
      (first.cv.addr.toNat : Int) + (0x3FFFFFF#26).toInt * 16 < 2 ^ 64 ∧
      Reachable (BitVec.ofInt 64 ((first.cv.addr.toNat : Int) + (0x3FFFFFF#26).toInt * 16))) ∧
    (Settled low ∧ Reachable (low.reg 2 + (0#16).signExtend 64)) := by
  unfold Reachable Settled; decide +kernel

/-- A misaligned target, the first and the last address of the hole and a scratchpad address; branches and jumps over either end of the
address space and into the hole; returns to such places. -/
theorem witness_TransferFaults :
    let s := loaded [(2, 0x18), (3, 0x0100000000000000), (4, 0xFEFFFFFFFFFFFFF0), (5, pad)]
    let low := convoyAt 0 []
    let high := convoyAt 0xFFFFFFFFFFFFFFF0 []
    let edge := convoyAt 0x00FFFFFFFFFFFFF0 []
    let back := s.onTh (fun t => { t with csr := { t.csr with uepc := 0x18 }, priv := { t.priv with sepc := pad } })
    let target (x : Int) : Word := BitVec.ofInt 64 x
    Settled s ∧ (s.reg 2 + (0#16).signExtend 64).toNat % 16 ≠ 0 ∧
    ((s.reg 3).toNat % 16 = 0 ∧ ¬ Reachable (s.reg 3)) ∧ ((s.reg 4).toNat % 16 = 0 ∧ ¬ Reachable (s.reg 4)) ∧
    ((s.reg 5).toNat % 16 = 0 ∧ ¬ Reachable (s.reg 5)) ∧
    (Settled low ∧ (low.reg 1 == low.reg 2) = true ∧ (low.cv.addr.toNat : Int) + (0xFFFF#16).toInt * 16 < 0 ∧
      (low.cv.addr.toNat : Int) + (0x3FFFFFF#26).toInt * 16 < 0) ∧
    (Settled high ∧ 2 ^ 64 ≤ (high.cv.addr.toNat : Int) + (1#16).toInt * 16 ∧ 2 ^ 64 ≤ (high.cv.addr.toNat : Int) + (1#26).toInt * 16) ∧
    (Settled edge ∧ 0 ≤ (edge.cv.addr.toNat : Int) + (1#26).toInt * 16 ∧ (edge.cv.addr.toNat : Int) + (1#26).toInt * 16 < 2 ^ 64 ∧
      (target ((edge.cv.addr.toNat : Int) + (1#26).toInt * 16)).toNat % 16 = 0 ∧ ¬ Reachable (target ((edge.cv.addr.toNat : Int) + (1#26).toInt * 16))) ∧
    (Settled back ∧ back.th.csr.uepc.toNat % 16 ≠ 0 ∧ back.privileged = true ∧ back.th.priv.sepc.toNat % 16 = 0 ∧ ¬ Reachable back.th.priv.sepc) := by
  unfold Reachable Settled; decide +kernel

theorem witness_CsrReadsAndPrivilege_reads : Settled State.reset ∧ State.reset.privileged = true ∧ Drained State.reset := by
  unfold Settled Drained; decide +kernel

/-- Two vector types, the reserved one; deterministic mode and not; the first control register above the assigned ones. -/
theorem witness_CsrWrites :
    let s := loaded [(1, 3), (2, 6)]
    let d := State.reset.onTh (fun t => { t with det := true })
    Settled s ∧ s.privileged = true ∧ Drained s ∧ ((s.reg 2).setWidth 6).toNat % 4 ≠ 3 ∧ ((s.reg 1).setWidth 6).toNat % 4 = 3 ∧
    (Instr.csrw 1 0x001, s.reg 1) ∈ csrWords s 1 0x001 0 ∧ (Instr.csrs 2 0x001, 0 ||| s.reg 2) ∈ csrWords s 2 0x001 0 ∧
    s.th.det = false ∧ Settled d ∧ d.th.det = true ∧ 0x809 ≤ (0x809#12).toNat ∧ (Instr.csrw 1 0x807, s.reg 1) ∈ csrWords s 1 0x807 (s.csrValue 0x807) := by
  unfold Settled Drained; decide +kernel

/-- A thread of compute core 0. -/
def user (l : List (Nat × Word)) : State := (loaded l).onTh (fun t => { t with core := 0, ctx := 0, priv := { t.priv with privileged := false } })

theorem witness_CsrReadsAndPrivilege_user :
    Settled (user []) ∧ (user []).privileged = false ∧ PrivilegedWord 0 1 2 (.tlbinv 1 2) ∧ PrivilegedWord 31 0 0 (.migrate 31 0) ∧
    0x800 ≤ (0x800#12).toNat ∧ 0x800 ≤ (0xFFF#12).toNat := by
  refine ⟨by unfold Settled; decide +kernel, by decide +kernel, .inr (.inr (.inl rfl)), ?_, by decide, by decide⟩
  unfold PrivilegedWord; simp

/-- Reset with a vector type, length and start, and scalar registers. -/
def vec (vtype : BitVec 6) (vl vstart : BitVec 15) (l : List (Nat × Word)) : State :=
  (loaded l).onCsr (fun c => { c with vl := vl, vtype := vtype, vstart := vstart })

theorem witness_VectorConfiguration :
    let s := loaded [(1, 3), (2, 7), (3, 2)]
    let r := { s with cv := { s.cv with vstart0 := 1 } }
    (Settled s ∧ s.cv.vstart0 = 0 ∧ ((s.reg 1).setWidth 6).toNat % 4 = 3 ∧ ((s.reg 2).setWidth 6).toNat % 4 = 3 ∧
      ((s.reg 3).setWidth 6).toNat % 4 ≠ 3) ∧ (Settled r ∧ r.cv.vstart0 ≠ 0) := by
  unfold Settled; decide +kernel

theorem witness_TrapEntry_user :
    let s := State.reset.onCsr (fun c => { c with uth := 0x40 })
    let f : FaultRec := ⟨0x10, 0, 3, 5⟩
    f.cause ∈ [0x08, 0x0A, 0x0B, 0x0C, 0x0D, 0x0E, 0x10] ∧ s.th.csr.uth ≠ 0 ∧ s.th.csr.ustat.getLsbD 2 = false := by decide +kernel

/-- The three ways in: a cause that is not deliverable, no user handler, a handler at work; and the three deliveries. -/
theorem witness_TrapEntry_system :
    let busy := (user []).onCsr (fun c => { c with uth := 0x40, ustat := 4 })
    let twice := State.reset.onTh (fun t => { t with priv := { t.priv with sstatus := 0xC } })
    (0x11 ∉ [0x08, 0x0A, 0x0B, 0x0C, 0x0D, 0x0E, 0x10] ∧ (user []).th.core < 4096) ∧
    ((user []).th.csr.uth = 0) ∧ (busy.th.csr.ustat.getLsbD 2 = true ∧ busy.th.core < 4096) ∧
    (4096 ≤ State.reset.th.core ∧ State.reset.th.priv.sstatus.getLsbD 2 = false ∧ State.reset.th.csr.uth = 0) ∧
    (4096 ≤ twice.th.core ∧ twice.th.priv.sstatus.getLsbD 2 = true ∧ twice.th.csr.uth = 0) := by decide +kernel

/-- A convoy of the state given that retires with the flags and the trap given. -/
def ending (s : State) (trap : Option FaultRec) (halt yield : Bool) : State :=
  { s with cv := { Convoy.empty with addr := 0x40, trap := trap, halt := halt, yield := yield } }

theorem bare_of (s : State) (trap : Option FaultRec) (halt yield : Bool) : Bare (ending s trap halt yield) := ⟨rfl, rfl, rfl, rfl, rfl, rfl⟩

/-- TRAPU with a handler, and without one on a compute core; TRAP on a control core. -/
theorem witness_TrapWords :
    let u := ending (State.reset.onCsr (fun c => { c with uth := 0x40 })) (some ⟨0x10, 0, 1, 7⟩) false false
    let n := ending (user []) (some ⟨0x10, 0, 1, 7⟩) false false
    let c := ending State.reset (some ⟨0x11, 0, 3, 7⟩) false false
    (Bare u ∧ u.cv.trap = some ⟨0x10, 0, 1, 7⟩ ∧ u.cv.halt = false ∧ u.cv.yield = false ∧ u.th.csr.uth ≠ 0 ∧ u.th.csr.ustat.getLsbD 2 = false) ∧
    (Bare n ∧ n.cv.trap = some ⟨0x10, 0, 1, 7⟩ ∧ n.cv.halt = false ∧ n.cv.yield = false ∧ n.th.csr.uth = 0 ∧ n.th.core < 4096) ∧
    (Bare c ∧ c.cv.trap = some ⟨0x11, 0, 3, 7⟩ ∧ c.cv.halt = false ∧ c.cv.yield = false ∧ 4096 ≤ c.th.core ∧
      c.th.priv.sstatus.getLsbD 2 = false) :=
  ⟨⟨bare_of .., by decide +kernel⟩, ⟨bare_of .., by decide +kernel⟩, bare_of .., by decide +kernel⟩

theorem witness_ReturnsFromHandlers :
    let s := State.reset.onTh (fun t => { t with csr := { t.csr with uepc := 0x00FFFFFFFFFFFFF0 }, priv := { t.priv with sepc := 0xFF00000000000000 } })
    Settled s ∧ Reachable s.th.csr.uepc ∧ s.privileged = true ∧ Reachable s.th.priv.sepc := by
  unfold Settled Reachable; decide +kernel

/-- HALT on a control core and on a compute core, which has a parent and a launch; YIELD; IDLE with and without an event. -/
theorem witness_HaltYieldIdle :
    let s := ending State.reset none true false
    let l : Launch := ⟨1, 0, 0, .nowhere, true, [], 0, [], [], [], [], [], none⟩
    let u := { ending ((user []).onTh (fun t => { t with uid := 99, launch := 1, parent := some 1 })) none true false with launches := [l] }
    let y := ending State.reset none false true
    let r := { State.reset with ringTail := 1 }
    (Bare s ∧ 4096 ≤ s.th.core ∧ s.cv.halt = true ∧ s.cv.trap = none ∧ s.cv.yield = false ∧ (s.coreRec s.th.core).diag = []) ∧
    (Bare u ∧ u.th.core < 4096 ∧ u.cv.halt = true ∧ u.cv.trap = none ∧ u.cv.yield = false ∧ (u.coreRec u.th.core).diag = [] ∧ u.others ≠ [] ∧
      (∀ x ∈ u.others, x.uid ≠ u.th.uid) ∧ u.tasks = [] ∧ (∃ y ∈ u.others, u.th.parent = some y.uid) ∧ u.launch u.th.launch = some l) ∧
    (Bare y ∧ y.cv.yield = true ∧ y.cv.trap = none ∧ y.cv.halt = false) ∧
    (Settled r ∧ r.privileged = true ∧ r.ringTail ≠ r.ringHead) ∧ (Settled State.reset ∧ State.reset.ringTail = State.reset.ringHead) := by
  refine ⟨⟨bare_of .., by decide +kernel⟩, ⟨⟨rfl, rfl, rfl, rfl, rfl, rfl⟩, by decide +kernel⟩, ⟨bare_of .., by decide +kernel⟩, ?_, ?_⟩
  all_goals unfold Settled; decide +kernel

/-- The conditions of `Ready`, as one decidable conjunction. -/
theorem ready_of {s : State} {r w : List (Nat × Nat)} {m : List Nat}
    (h : (s.cv.wait = none ∧ s.cv.fault = none ∧ s.cv.limit = none) ∧ s.th.binds = [] ∧ s.th.csr.vtype.toNat % 4 ≠ 3 ∧ s.vl ≤ s.vlmax ∧
      s.th.nregs ≤ 32 ∧ (∀ g ∈ w ++ r, g.1 % g.2 = 0) ∧ (∀ g ∈ w ++ r, g.1 + g.2 ≤ s.th.nregs) ∧
      (∀ g ∈ w, ∀ q ∈ s.cv.whole, q < g.1 ∨ g.1 + g.2 ≤ q) ∧ (∀ x ∈ m, x ≠ 0 → x ∉ s.cv.wholeK)) : Ready s r w m :=
  ⟨h.1, h.2.1, h.2.2.1, h.2.2.2.1, h.2.2.2.2.1, h.2.2.2.2.2.1, h.2.2.2.2.2.2.1, h.2.2.2.2.2.2.2.1, h.2.2.2.2.2.2.2.2⟩

/-- SEW 32, LMUL 1, vl = VLMAX, the last register as destination; SEW 16, LMUL 8, vl = 0; a scalar second source. -/
theorem witness_VectorIntegerWords :
    (let s := vec 1 1024 0 []; Ready s (sources s 30 29 0) [((31#5).toNat, s.lmul)] []) ∧
    (let s := vec 0x0C 0 0 []; Ready s (sources s 8 16 0) [((24#5).toNat, s.lmul)] []) ∧
    (let s := vec 2 512 511 []; Ready s (sources s 8 31 1) [((8#5).toNat, s.lmul)] []) ∧
    (let s := vec 1 3 0 []; Ready s [((8#5).toNat, s.lmul)] [((9#5).toNat, s.lmul)] []) :=
  ⟨ready_of (by decide +kernel), ready_of (by decide +kernel), ready_of (by decide +kernel), ready_of (by decide +kernel)⟩

theorem witness_VectorFloatWords :
    let s := vec 1 1024 0 []
    Ready s (sources s 30 29 0) [((31#5).toNat, s.lmul)] [(7#3).toNat] ∧ Ready s [((8#5).toNat, s.lmul)] [((9#5).toNat, s.lmul)] [(0#3).toNat] ∧
    Ready s [((8#5).toNat, s.lmul)] [((9#5).toNat, s.lmul)] [] ∧ s.sew ≠ 64 :=
  ⟨ready_of (by decide +kernel), ready_of (by decide +kernel), ready_of (by decide +kernel), by decide +kernel⟩

theorem witness_VectorComparisons :
    let s := vec 1 1024 0 []
    Ready s (sources s 30 29 0) [] [(7#5).toNat] ∧ Ready s (sources s 30 29 0) [] [(0#5).toNat, (7#3).toNat] ∧ (7#5).toNat ≤ 7 ∧ s.sew ≠ 64 :=
  ⟨ready_of (by decide +kernel), ready_of (by decide +kernel), by decide, by decide +kernel⟩

/-- From SEW 16 to 32 bits at LMUL 4, and back, the groups side by side. -/
theorem witness_VectorConversions :
    let s := vec 8 4 0 []
    (Ready s [((8#5).toNat, s.lmul)] [((0#5).toNat, 2 * s.lmul)] [((7#3) &&& (1#3)).toNat] ∧ s.sew ∈ [16, 32] ∧
      ((0#5).toNat + 2 * s.lmul ≤ (8#5).toNat ∨ (8#5).toNat + s.lmul ≤ (0#5).toNat)) ∧
    (Ready s [((24#5).toNat, 2 * s.lmul)] [((20#5).toNat, s.lmul)] [] ∧
      ((20#5).toNat + s.lmul ≤ (24#5).toNat ∨ (24#5).toNat + 2 * s.lmul ≤ (20#5).toNat)) :=
  ⟨⟨ready_of (by decide +kernel), by decide +kernel, by decide +kernel⟩, ready_of (by decide +kernel), by decide +kernel⟩

theorem witness_VectorPlacement :
    let s := vec 1 1024 0 []
    Ready s [] [((31#5).toNat, s.lmul)] [] ∧ Ready s (sources s 30 29 0) [((31#5).toNat, s.lmul)] [] ∧
    Ready s (sources s 30 29 1) [((31#5).toNat, s.lmul)] [] :=
  ⟨ready_of (by decide +kernel), ready_of (by decide +kernel), ready_of (by decide +kernel)⟩

/-- An index below vl, and one at it. -/
theorem witness_VectorElementMoves :
    let s := vec 1 4 0 [(1, 3), (2, 4)]
    Ready s [((31#5).toNat, s.lmul)] [] [] ∧ Ready s [] [((31#5).toNat, s.lmul)] [] ∧
    Ready s [((8#5).toNat, s.lmul)] [((31#5).toNat, s.lmul)] [] ∧ (31#5) ≠ (8#5) ∧ (s.reg 1).toNat < s.vl ∧ s.vl ≤ (s.reg 2).toNat :=
  ⟨ready_of (by decide +kernel), ready_of (by decide +kernel), ready_of (by decide +kernel), by decide, by decide +kernel, by decide +kernel⟩

theorem witness_MaskInstructions :
    let s := vec 1 4 0 []
    Ready s [] [] [(7#5).toNat] ∧ (7#5).toNat ≤ 7 ∧ Ready s [] [] [(0#5).toNat] := ⟨ready_of (by decide +kernel), by decide, ready_of (by decide +kernel)⟩

/-- No element is active; one ranks first among three equal ones. -/
theorem witness_IntegerReductions :
    (let s := vec 1 0 0 []; Ready s [((31#5).toNat, s.lmul)] [] [] ∧ s.sew ≠ 64 ∧ activeBelow s 0 s.vl = []) ∧
    (let s := vec 1 3 0 []; Ready s [((31#5).toNat, s.lmul)] [] [] ∧
      RanksFirst (fun x y => decide (x < y)) (fun e => s.elem (31#5).toNat e s.sew) (activeBelow s 0 s.vl) 0) :=
  ⟨⟨ready_of (by decide +kernel), by decide +kernel, by decide +kernel⟩, ready_of (by decide +kernel), by unfold RanksFirst; decide +kernel⟩

theorem witness_FloatReductions :
    (let s := vec 1 0 0 []; Ready s [((31#5).toNat, s.lmul)] [] [] ∧ s.sew ≠ 64 ∧
      (activeBelow s 0 s.vl).filter (fun e => !((fmtOfSew s.sew).decode (s.elem 31 e s.sew)).isNan) = []) ∧
    (let s := vec 1 3 0 []; Ready s [((31#5).toNat, s.lmul)] [] [] ∧ RanksFirst (fpBelow (fmtOfSew s.sew)) (fun e => s.elem 31 e s.sew)
      ((activeBelow s 0 s.vl).filter (fun e => !((fmtOfSew s.sew).decode (s.elem 31 e s.sew)).isNan)) 0) :=
  ⟨⟨ready_of (by decide +kernel), by decide +kernel, by decide +kernel⟩, ready_of (by decide +kernel), by unfold RanksFirst; decide +kernel⟩

theorem witness_VectorPermutes :
    let s := vec 1 1024 0 []
    (31#5) ≠ (30#5) ∧ Ready s [((30#5).toNat, s.lmul)] [((31#5).toNat, s.lmul)] [] ∧ (31#5) ≠ (29#5) ∧
    Ready s [((30#5).toNat, s.lmul), ((29#5).toNat, s.lmul)] [((31#5).toNat, s.lmul)] [] :=
  ⟨by decide, ready_of (by decide +kernel), by decide, ready_of (by decide +kernel)⟩

theorem witness_ConflictAndTopK :
    let s := vec 1 1024 0 []
    Ready s [((30#5).toNat, s.lmul)] [] [(7#5).toNat] ∧ (7#5).toNat ≤ 7 ∧ Ready s [((29#5).toNat, s.lmul)] [((30#5).toNat, 2 * s.lmul)] [] ∧
    s.sew ≠ 64 ∧ s.vl ≠ 0 ∧ ((30#5).toNat + 2 * s.lmul ≤ (29#5).toNat ∨ (29#5).toNat + s.lmul ≤ (30#5).toNat) :=
  ⟨ready_of (by decide +kernel), by decide, ready_of (by decide +kernel), by decide +kernel, by decide +kernel, by decide +kernel⟩

/-- What holds below vl holds of every element that a word works on. -/
theorem acts_all {s : State} {k : BitVec 3} {p : Nat → Prop} (h : ∀ e, e < s.vl → p e) : ∀ e, Acts s k e → p e := fun e ha => h e ha.2.1

/-- Bytes stored in the scratchpad of control core 0. -/
def State.filled (s : State) (off v n : Nat) : State := { s with scratch := cellsMerge s.scratch (4096 * 131072 + off) v (2 ^ (8 * n) - 1) n }

/-- Two 32-bit elements at the end of the window (unit stride, and a stride of 4), and two at its first bytes by index and by lane. -/
theorem witness_VectorLoads :
    let s := vec 1 2 0 [(2, pad + 0x1FFF8), (3, pad), (4, 4)]
    (Ready s (indexGroup s .unit 0) [((8#5).toNat, s.lmul)] [] ∧ byteFmt 0 = true ∧ fmtLegal 0 s.sew = true ∧
      (∀ g ∈ indexGroup s .unit 0, (8#5).toNat + s.lmul ≤ g.1 ∨ g.1 + g.2 ≤ (8#5).toNat) ∧
      ∀ e, Acts s 0 e → Placed s .unit 2 0 4 e ∧ Sound s (vecAddr s .unit 2 0 4 e)) ∧
    (Ready s (indexGroup s .strided 4) [((8#5).toNat, s.lmul)] [] ∧
      ∀ e, Acts s 0 e → Placed s .strided 2 4 4 e ∧ Sound s (vecAddr s .strided 2 4 4 e)) ∧
    (Ready s (indexGroup s .indexed 9) [((8#5).toNat, s.lmul)] [] ∧
      (∀ g ∈ indexGroup s .indexed 9, (8#5).toNat + s.lmul ≤ g.1 ∨ g.1 + g.2 ≤ (8#5).toNat) ∧
      ∀ e, Acts s 0 e → Placed s .indexed 3 9 4 e ∧ Sound s (vecAddr s .indexed 3 9 4 e)) ∧
    (Ready s (indexGroup s .lane 9) [((8#5).toNat, s.lmul)] [] ∧
      ∀ e, Acts s 0 e → Placed s .lane 3 9 4 e ∧ Sound s (vecAddr s .lane 3 9 4 e)) := by
  refine ⟨⟨ready_of (by decide +kernel), by decide, by decide +kernel, by decide +kernel, acts_all ?_⟩, ⟨ready_of (by decide +kernel), acts_all ?_⟩,
    ⟨ready_of (by decide +kernel), by decide +kernel, acts_all ?_⟩, ready_of (by decide +kernel), acts_all ?_⟩
  all_goals unfold Placed Sound InWindow; decide +kernel

/-- A 4-bit array, FP6 and blocked FP4 with a zero scratchpad; bit offsets 7 and 0; and a byte format for the fault. -/
theorem witness_SubByteLoads :
    let s := vec 1 2 0 [(2, pad + 0x1FFFF), (3, pad), (4, 7)]
    Ready s [] [((8#5).toNat, s.lmul)] [] ∧ subByte 5 ∧ fmtLegal 5 s.sew = true ∧ subByte 11 ∧ fmtLegal 11 s.sew = true ∧
    (∀ e, Acts s 0 e → Encoded s (s.reg 2 + s.reg 0) 5 0 e 0 0) ∧ (∀ e, Acts s 0 e → Encoded s (s.reg 3 + s.reg 0) 11 0 e 0 0) ∧
    (s.reg 4).toNat ≤ (if 9#4 = 11#4 then 0 else 7) ∧ (∀ e, Acts s 0 e → Encoded s (s.reg 3) 9 (s.reg 4).toNat e 0 0) ∧
    (s.reg 0).toNat ≤ (if 11#4 = 11#4 then 0 else 7) ∧ ¬ subByte 13 := by
  refine ⟨ready_of (by decide +kernel), by unfold subByte; decide, by decide +kernel, by unfold subByte; decide, by decide +kernel, acts_all ?_, acts_all ?_,
    by decide +kernel, acts_all ?_, by decide +kernel, by unfold subByte; decide⟩
  all_goals dsimp only [Encoded, Sound, InWindow]; decide +kernel

theorem witness_VectorStores :
    let s := vec 1 2 0 [(2, pad + 0x1FFF8), (3, pad), (4, 4)]
    s.th.fencesOn (some (2#4).toNat) = [] ∧
    (Ready s (((8#5).toNat, s.lmul) :: indexGroup s .unit 0) [] [] ∧ byteFmt 0 = true ∧ fmtLegal 0 s.sew = true ∧
      ∀ e, Acts s 0 e → Placed s .unit 2 0 4 e) ∧
    (Ready s (((8#5).toNat, s.lmul) :: indexGroup s .strided 4) [] [] ∧ ∀ e, Acts s 0 e → Placed s .strided 2 4 4 e) ∧
    (Ready s (((8#5).toNat, s.lmul) :: indexGroup s .indexed 9) [] [] ∧ ∀ e, Acts s 0 e → Placed s .indexed 3 9 4 e) ∧
    (Ready s (((8#5).toNat, s.lmul) :: indexGroup s .lane 9) [] [] ∧ ∀ e, Acts s 0 e → Placed s .lane 3 9 4 e) := by
  refine ⟨by decide +kernel, ⟨ready_of (by decide +kernel), by decide, by decide +kernel, acts_all ?_⟩, ⟨ready_of (by decide +kernel), acts_all ?_⟩,
    ⟨ready_of (by decide +kernel), acts_all ?_⟩, ready_of (by decide +kernel), acts_all ?_⟩
  all_goals unfold Placed InWindow; decide +kernel

/-- Two FP6 elements; one whole block of eight, and one with no element active. -/
theorem witness_SubByteStores :
    (let s := vec 1 2 0 [(2, pad)]
     Ready s [((8#5).toNat, s.lmul)] [] [] ∧ s.th.fencesOn (some (2#4).toNat) = [] ∧ fmtLegal (10#4).toNat s.sew = true ∧ 10#4 ∈ [5#4, 6#4, 9#4, 10#4] ∧
      ∀ e j, Acts s 0 e → j < 6 → InWindow s (stringByte (s.reg 2 + s.reg 0) 6 0 e j) 1) ∧
    (let s := vec 1 8 0 [(2, pad)]
     let act : Nat → Bool := fun e => decide (e < s.vl) && s.th.active 0 e
     let blocks := (span (s.vstart / 8) ((s.vl + 7) / 8)).filter (fun i => (span (8 * i) (8 * i + 8)).all act)
     Ready s [((8#5).toNat, s.lmul)] [] [] ∧ fmtLegal (11#4).toNat s.sew = true ∧ s.vstart < s.vl ∧ blocks = [0] ∧
      (∀ i ∈ span (s.vstart / 8) ((s.vl + 7) / 8), i ∈ blocks ∨ ∀ e ∈ span (8 * i) (8 * i + 8), act e = false) ∧
      ∀ i ∈ blocks, ∀ j, j < 5 → InWindow s (s.reg 2 + s.reg 0 + BitVec.ofNat 64 (5 * i + j)) 1) := by
  refine ⟨⟨ready_of (by decide +kernel), by decide +kernel, by decide +kernel, by decide, fun e j he hj => ?_⟩, ready_of (by decide +kernel), by decide +kernel,
    by decide +kernel, by decide +kernel, by decide +kernel, by unfold InWindow; decide +kernel⟩
  have h : ∀ e, e < (vec 1 2 0 [(2, pad)]).vl → ∀ j, j < 6 →
      InWindow (vec 1 2 0 [(2, pad)]) (stringByte ((vec 1 2 0 [(2, pad)]).reg 2 + (vec 1 2 0 [(2, pad)]).reg 0) 6 0 e j) 1 := by
    unfold InWindow; decide +kernel
  exact h e he.2.1 j hj

/-- An AFFINE descriptor of one dimension of four BF16 elements with a stride of 2 bytes, at offset 64 of the scratchpad. -/
def affine : Nat := 0x4000 + 13 * 2 ^ 64 + 4 * 2 ^ 128 + 2 * 2 ^ 160

/-- A DECODED read descriptor of four elements. -/
def decoded : Nat := 0x4000 + 11 * 2 ^ 64 + 2 * 2 ^ 68 + 64 * 2 ^ 128

theorem witness_StreamWords :
    let s := State.filled (loaded [(2, pad + 64)]) 64 affine 64
    let b : Binding := ⟨5, BitVec.ofNat 512 decoded, 0, 0, false, 0, none, [], true⟩
    let r := (loaded []).onTh (fun t => { t with binds := [b] })
    (Settled s ∧ s.cv.vstart0 = 0 ∧ (31#5).toNat < s.th.nregs ∧ (s.reg 2).toNat % 64 = 0 ∧ Recorded s (s.reg 2) 64 (BitVec.ofNat 512 affine) ∧
      descKind (BitVec.ofNat 512 affine) ≠ 1 ∧ descOk (BitVec.ofNat 512 affine) 0 = true ∧ s.th.binds.length < 8) ∧
    (Settled r ∧ r.th.bind (5#5).toNat = some b ∧ (5#5).toNat < r.th.nregs ∧ descKind b.desc = 2 ∧ descWrite b.desc = false ∧
      r.attachments (clusterOf r.th.core) < 64) ∧
    (Settled { s with cv := { s.cv with vstart0 := 1 } } ∧ ({ s with cv := { s.cv with vstart0 := 1 } }).cv.vstart0 ≠ 0) := by
  unfold Settled Recorded Sound InWindow; decide +kernel

/-- A span of two at accumulator 6; a configuration with q = 0; one that does not fit at 7; and a register inside a span. -/
theorem witness_DiagConfiguration :
    let s := loaded [(1, 0x2800000000001800), (2, 0x1800000000000800)]
    let r := s.onTh (fun t => { t with accCfg := vput (vput t.accCfg 6 0x2800000000001800) 7 0x2800000000001800 })
    (Settled s ∧ (6#3).toNat < s.th.naccs ∧ Drained s ∧ cfgOk (s.reg 1) = true ∧ (6#3).toNat % cfgSpan (s.reg 1) = 0 ∧
      (6#3).toNat + cfgSpan (s.reg 1) ≤ s.th.naccs) ∧ cfgOk (s.reg 2) = false ∧
    ¬((7#3).toNat % cfgSpan (s.reg 1) = 0 ∧ (7#3).toNat + cfgSpan (s.reg 1) ≤ s.th.naccs) ∧
    (s.th.spanHead (7#3).toNat = (7#3).toNat) ∧ (Settled r ∧ (7#3).toNat < r.th.naccs ∧ r.th.spanHead (7#3).toNat ≠ (7#3).toNat) := by
  unfold Settled Drained; decide +kernel

theorem spanned_of {s : State} {x : BitVec 3} (h : x.toNat < s.th.naccs ∧ x.toNat % cfgSpan (s.th.cfg x.toNat) = 0 ∧
    x.toNat + cfgSpan (s.th.cfg x.toNat) ≤ 8 ∧ cfgOk (s.th.cfg x.toNat) = true) : Spanned s x := ⟨h.1, h.2.1, h.2.2.1, h.2.2.2⟩

/-- The default configuration takes diagonal 0 and not diagonal 1; policy 1 faults there; a matrix of 32 by 32, its operand with a reserved bit,
and one of 16 by 16, which no word takes; the operand words that each fault names. -/
theorem witness_DiagAccumulate :
    let s := vec 1 4 0 [(1, 0), (2, 1), (3, 0x10000), (4, 0x1000000000000), (5, 0x10000000), (6, 32), (7, 0x120), (8, 16)]
    let f := s.onTh (fun t => { t with accCfg := vput t.accCfg 7 0x1800040000001800 })
    let g : Word := 0x1020010000020020
    let m := s.onTh (fun t => { t with accCfg := vput t.accCfg 7 g })
    let q := s.onTh (fun t => { t with accCfg := vput t.accCfg 7 0x1010010000010010 })
    let target (o : Word) (c : Word) : Int := (o.setWidth 16).toInt + (o.extractLsb' 16 16).toInt - cfgO c
    let matched (c : Word) (n : Nat) : Prop := cfgMode c = 1 ∧ cfgL c = n ∧ cfgQ c = n ∧ cfgO c = 0 ∧ cfgN c = n ∧ cfgSpan c = max 1 (n * n / 2048)
    (Spanned s 7 ∧ s.sew ≠ 64 ∧ Ready s [((8#5).toNat, s.lmul), ((9#5).toNat, s.lmul)] [] [] ∧ cfgMode (s.th.cfg 7) = 0 ∧ opField (s.reg 1) 48 16 = 0 ∧
      0 ≤ target (s.reg 1) (s.th.cfg 7) ∧ target (s.reg 1) (s.th.cfg 7) < cfgQ (s.th.cfg 7)) ∧
    (cfgFaults (s.th.cfg 7) = false ∧ ¬(0 ≤ target (s.reg 2) (s.th.cfg 7) ∧ target (s.reg 2) (s.th.cfg 7) < cfgQ (s.th.cfg 7))) ∧
    (Spanned f 7 ∧ cfgFaults (f.th.cfg 7) = true ∧ cfgMode (f.th.cfg 7) = 0 ∧ opField (f.reg 2) 48 16 = 0 ∧
      ¬(0 ≤ target (f.reg 2) (f.th.cfg 7) ∧ target (f.reg 2) (f.th.cfg 7) < cfgQ (f.th.cfg 7))) ∧
    (opField (s.reg 4) 48 16 ≠ 0 ∧ opField (s.reg 1) 16 12 < cfgQ (s.th.cfg 7) ∧ opField (s.reg 1) 28 36 = 0 ∧ opField (s.reg 1) 28 20 = 0 ∧
      cfgQ (s.th.cfg 7) ≤ opField (s.reg 3) 16 12 ∧ opField (s.reg 5) 16 12 < cfgQ (s.th.cfg 7) ∧ opField (s.reg 5) 28 36 ≠ 0 ∧
      opField (s.reg 5) 28 20 ≠ 0) ∧
    (Ready s [((9#5).toNat, s.lmul)] [] [] ∧ Spanned m 7 ∧ m.sew ≠ 64 ∧ Ready m [((8#5).toNat, 1), ((9#5).toNat, 1)] [] [] ∧
      matched (m.th.cfg 7) 32 ∧ max 1 (32 * 32 / m.perReg m.sew) = 1 ∧ (m.reg 6).toNat = 32 ∧ (m.reg 7).toNat % 256 = 32 ∧ 256 ≤ (m.reg 7).toNat) ∧
    ¬ matched (s.th.cfg 7) 32 ∧ (Spanned q 7 ∧ matched (q.th.cfg 7) ((q.reg 8).toNat % 256) ∧ (q.reg 8).toNat % 256 ∉ [32, 64, 128]) := by
  refine ⟨⟨spanned_of (by decide +kernel), by decide +kernel, ready_of (by decide +kernel), by decide +kernel⟩, by decide +kernel,
    ⟨spanned_of (by decide +kernel), by decide +kernel⟩, by decide +kernel,
    ⟨ready_of (by decide +kernel), spanned_of (by decide +kernel), by decide +kernel, ready_of (by decide +kernel), by decide +kernel⟩, by decide +kernel,
    spanned_of (by decide +kernel), by decide +kernel⟩

/-- The last elements of the span, and one beyond. -/
theorem witness_DiagReadback :
    let s := vec 1 4 0 [(1, 2044), (2, 2045)]
    Spanned s 7 ∧ s.sew ≠ 64 ∧ Drained s ∧ (s.reg 1).toNat + s.vl ≤ cfgQ (s.th.cfg 7) * cfgL (s.th.cfg 7) ∧
    cfgQ (s.th.cfg 7) * cfgL (s.th.cfg 7) < (s.reg 2).toNat + s.vl ∧ Ready s [] [((31#5).toNat, s.lmul)] [] ∧ Ready s [((31#5).toNat, s.lmul)] [] [] := by
  refine ⟨spanned_of (by decide +kernel), by decide +kernel, by unfold Drained; decide +kernel, by decide +kernel, by decide +kernel,
    ready_of (by decide +kernel), ready_of (by decide +kernel)⟩

/-- A tree of two nodes; vstart 0 and not; a node of the tree and none; the first and the last mask register. -/
theorem witness_TreeWords :
    let s := (vec 1 2 0 [(1, 1), (2, 2)]).onTh (fun t => { t with tree := ⟨7, [⟨none, 0⟩, ⟨some 0, 1⟩]⟩ })
    let r := { s with cv := { s.cv with vstart0 := 1 } }
    nodesOk s.th.tree.nodes = true ∧ 1 < s.th.tree.nodes.length ∧ IsPath s.th.tree 0 [0] ∧ (TreeReady s 0 ∧ s.cv.vstart0 = 0) ∧
    (TreeReady r 0 ∧ r.cv.vstart0 ≠ 0) ∧ Ready r [((31#5).toNat, r.lmul)] [] [] ∧ Ready s [((31#5).toNat, s.lmul)] [] [] ∧ s.th.tree.nodes.length ≤ 64 ∧
    ((s.reg 1).toNat < s.th.tree.nodes.length) ∧ (s.th.tree.nodes.length ≤ (s.reg 2).toNat) ∧ (Ready s [] [] [(7#5).toNat] ∧ (7#5).toNat ≤ 7) ∧
    Ready s [] [] [(0#5).toNat] ∧ Ready s [] [((31#5).toNat, s.lmul)] [] := by
  refine ⟨by decide +kernel, by decide +kernel, ⟨by decide, ?_⟩, by unfold TreeReady Settled; decide +kernel, by unfold TreeReady Settled; decide +kernel,
    ready_of (by decide +kernel), ready_of (by decide +kernel), by decide +kernel, by decide +kernel, by decide +kernel, ⟨ready_of (by decide +kernel), by decide⟩,
    ready_of (by decide +kernel), ready_of (by decide +kernel)⟩
  intro j a h
  cases j with
  | zero => cases h; decide +kernel
  | succ j => exact absurd h (by simp)

/-- A compute core's thread with a context whose page table is the one of `mapped`. -/
def mappedUser (vtype : BitVec 6) (vl : BitVec 15) (l : List (Nat × Word)) : State :=
  { ((user l).onCsr (fun c => { c with vl := vl, vtype := vtype })) with
    mem := [(0, 1), (2, 1), (65536, 0x3F), (65537, 3)], ctxs := [⟨0, 0x10001#512, [], []⟩] }

/-- A misaligned descriptor; a descriptor with one node of 16 positions, whose entry for position 0 is page 1. -/
theorem witness_KvWords_walk :
    let s := State.filled (State.filled (State.filled (vec 2 1 0 [(1, pad + 64), (2, pad + 8)]) 64 (2 ^ 63 + 128 + 2 ^ 64) 20) 128
      (16 * 2 ^ 64 + 4 * 2 ^ 160 + (2 ^ 63 + 512) * 2 ^ 192) 64) 512 0x4000 8
    let base : Word := pad + 128
    let entries : Word := pad + 512
    let node : BitVec 512 := BitVec.ofNat 512 (16 * 2 ^ 64 + 4 * 2 ^ 160 + (2 ^ 63 + 512) * 2 ^ 192)
    (Ready s [((8#5).toNat, s.lmul)] [((9#5).toNat, s.lmul)] [] ∧ s.sew = 64 ∧ ((9#5).toNat + s.lmul ≤ (8#5).toNat ∨ (8#5).toNat + s.lmul ≤ (9#5).toNat) ∧
      (s.reg 2).toNat % 16 ≠ 0) ∧
    ((s.reg 1).toNat % 16 = 0 ∧ base.toNat % 64 = 0 ∧ Recorded s (s.reg 1) 16 (base.setWidth 128 ||| (1#128 <<< 64)) ∧ Recorded s (s.reg 1 + 16) 4 0#32) ∧
    (node.toNat = 0 + 16 * 2 ^ 64 + 0 * 2 ^ 128 + 4 * 2 ^ 160 + entries.toNat * 2 ^ 192 + (node.toNat / 2 ^ 256) * 2 ^ 256 ∧ entries.toNat % 8 = 0 ∧
      Recorded s (base + BitVec.ofNat 64 (64 * (0#32).toNat)) 64 node) ∧
    ∀ e, Acts s 0 e → 0 ≤ s.elem 8 e 64 → s.elem 8 e 64 < 0 + 16 →
      Recorded s (entries + BitVec.ofNat 64 (8 * ((s.elem 8 e 64 - 0) / 16))) 8 0x4000#64 := by
  refine ⟨⟨ready_of (by decide +kernel), by decide +kernel, by decide +kernel, by decide +kernel⟩,
    ⟨by decide +kernel, by decide +kernel, ?_, ?_⟩, ⟨by decide +kernel, by decide +kernel, ?_⟩, acts_all ?_⟩
  all_goals unfold Recorded Sound InWindow; decide +kernel

/-- Hints on an address of the scratchpad, on memory mapped for a compute core's thread, and one with an unknown operation. -/
theorem witness_KvWords_hints :
    let s := (vec 2 1 0 [(3, 1), (4, 2)]).onTh (fun t => { t with vregs := vput t.vregs 8 (BitVec.ofNat 32768 (2 ^ 63 + 0x1FFF8)) })
    let u := mappedUser 2 1 [(3, 1)]
    (Ready s [((8#5).toNat, s.lmul)] [] [] ∧ s.sew = 64 ∧ (∀ e, Acts s 0 e → InWindow s (BitVec.ofNat 64 (s.elem 8 e 64)) 8) ∧ (s.reg 3).toNat ≤ 1 ∧
      1 < (s.reg 4).toNat) ∧
    ∃ s1, Ready u [((8#5).toNat, u.lmul)] [] [] ∧ u.sew = 64 ∧ u.vl = 1 ∧ u.vstart = 0 ∧ (u.reg 3).toNat ≤ 1 ∧
      u.resolve (BitVec.ofNat 64 (u.elem 8 0 64)) 8 0 0 = (.at_ (.cluster 0 0) 0, s1) ∧ isScratchAddr (BitVec.ofNat 64 (u.elem 8 0 64)) = false ∧
      (BitVec.ofNat 64 (u.elem 8 0 64)).toNat % 65536 ≤ 65528 ∧ 0 % 2 ^ 43 < 7 * 2 ^ 40 ∧ dieOf u.th.core < 8 := by
  refine ⟨⟨ready_of (by decide +kernel), by decide +kernel, acts_all ?_, by decide +kernel, by decide +kernel⟩, _, ready_of (by decide +kernel),
    by decide +kernel, by decide +kernel, by decide +kernel, by decide +kernel, paired (by decide +kernel), by decide +kernel, by decide +kernel,
    by decide +kernel, by decide +kernel⟩
  unfold InWindow; decide +kernel

/-- Order bits acquire-release at the widest scope; a 64-bit and a 32-bit access at the end of the window; memory, at the home and in the
cluster cache; a deterministic launch. -/
theorem witness_ScalarAtomics :
    let s := loaded [(2, pad + 0x1FFF8), (3, pad + 0x1FFFC)]
    let d := s.onTh (fun t => { t with det := true })
    let m := mapped [(2, 0x20008)]
    (Settled s ∧ Fresh s 5 ∧ AtomicPlaced s (s.reg 2) 8 ∧ AtomicPlaced s (s.reg 3) 4 ∧ (released s 5 true (s.reg 2) 2).goes = true ∧
      (released s 5 true (s.reg 3) 2).goes = true ∧ (released s 5 true (s.reg 2) 1).goes = true ∧ s.th.det = false) ∧
    (Settled d ∧ d.th.det = true) ∧
    ∃ s1, Settled m ∧ Fresh m 5 ∧ Fresh m 0 ∧ (m.reg 2).toNat % 8 = 0 ∧
      m.resolve (m.reg 2) 8 2 m.cv.vstart0 = (.at_ (.cluster 128 0x20008) 0, s1) ∧
      (s1.atomicPlace (5#4).toNat (.cluster 128 0x20008) 0 true = .through 128 0x20008 ∧
        (s1.evictSector 128 0x20008).damageAt (.through 128 0x20008) = none ∧ (released (s1.evictSector 128 0x20008) 5 true (m.reg 2) 2).goes = true) ∧
      s1.atomicPlace (0#4).toNat (.cluster 128 0x20008) 0 true = .cluster 128 0x20008 ∧ s1.damageAt (.cluster 128 0x20008) = none ∧
      (released s1 0 true (m.reg 2) 2).goes = true := by
  refine ⟨?_, by unfold Settled; decide +kernel, _, by unfold Settled; decide +kernel, by unfold Fresh; decide +kernel, by unfold Fresh; decide +kernel,
    by decide +kernel, paired (by decide +kernel), by decide +kernel⟩
  unfold Settled Fresh AtomicPlaced InWindow Sound; decide +kernel

/-- Two elements whose index vector holds 0 and 4. -/
def spread : State := (vec 1 2 0 [(2, pad + 0x1FFF8)]).onTh (fun t => { t with vregs := vput t.vregs 9 (BitVec.ofNat 32768 (4 * 2 ^ 32)) })

/-- Two elements at one address for the fetch-and-operate words, at two for VSCADD. -/
theorem witness_VectorAtomics :
    let s := vec 1 2 0 [(2, pad + 0x1FFF8)]
    (Ready s [((8#5).toNat, s.lmul), ((9#5).toNat, s.lmul)] [((8#5).toNat, s.lmul)] [] ∧ s.sew ∈ [32, 64] ∧ s.sew ∈ [32] ∧ s.th.det = false ∧
      ((8#5).toNat + s.lmul ≤ (9#5).toNat ∨ (9#5).toNat + s.lmul ≤ (8#5).toNat) ∧ Fresh s 5 ∧ s.th.fencesOn none = [] ∧
      ∀ e, Acts s 0 e → AtomicPlaced s (s.reg 2 + BitVec.ofNat 64 (s.elem 9 e s.sew)) 4) ∧
    (Ready spread [((8#5).toNat, spread.lmul), ((9#5).toNat, spread.lmul)] [] [] ∧ spread.sew ≠ 64 ∧ spread.th.det = false ∧ Fresh spread 5 ∧ spread.th.fencesOn none = [] ∧
      (∀ e, Acts spread 0 e → AtomicPlaced spread (spread.reg 2 + BitVec.ofNat 64 (spread.elem 9 e spread.sew)) 4) ∧
      ∀ e i, Acts spread 0 e → Acts spread 0 i → spread.reg 2 + BitVec.ofNat 64 (spread.elem 9 e spread.sew) =
        spread.reg 2 + BitVec.ofNat 64 (spread.elem 9 i spread.sew) → e = i) := by
  refine ⟨⟨ready_of (by decide +kernel), by decide +kernel, by decide +kernel, by decide +kernel, by decide +kernel, by unfold Fresh; decide +kernel,
    by decide +kernel, acts_all ?_⟩, ready_of (by decide +kernel), by decide +kernel, by decide +kernel, by unfold Fresh; decide +kernel, by decide +kernel,
    acts_all ?_, ?_⟩
  · unfold AtomicPlaced InWindow Sound; decide +kernel
  · unfold AtomicPlaced InWindow Sound; decide +kernel
  · have h : ∀ e, e < spread.vl → ∀ i, i < spread.vl → spread.reg 2 + BitVec.ofNat 64 (spread.elem 9 e spread.sew) =
        spread.reg 2 + BitVec.ofNat 64 (spread.elem 9 i spread.sew) → e = i := by decide +kernel
    exact fun e i he hi => h e he.2.1 i hi.2.1

/-- A launch with one window. -/
def windowed (l : List (Nat × Word)) (ws : List (Word × Nat)) : State :=
  let s := (mapped l).onTh (fun t => { t with launch := 1, csr := { t.csr with vl := 1 } })
  { s with launches := [⟨1, 64, 0, .nowhere, true, [], 0, [], [], ws, [], [], none⟩] }

theorem witness_AccumulationWindows :
    let s := windowed [(2, 0x20000), (3, 0x100), (4, 0x20001)] []
    let w := windowed [(2, 0x20000)] [(0x20000, 0x100)]
    let l : Launch := ⟨1, 64, 0, .nowhere, true, [], 0, [], [], [(0x20000, 0x100)], [], [], none⟩
    let va := w.reg 2 + BitVec.ofNat 64 (w.elem 9 0 w.sew)
    (∃ s1, Settled s ∧ Fresh s 0 ∧ (s.reg 2).toNat % 4 = 0 ∧ (s.reg 3).toNat % 4 = 0 ∧ (s.reg 3).toNat ≠ 0 ∧ (s.reg 3).toNat ≤ 2 ^ 32 ∧
      s.windows.length < 8 ∧ (∀ w ∈ s.windows, (s.reg 2).toNat + (s.reg 3).toNat ≤ w.1.toNat ∨ w.1.toNat + w.2 ≤ (s.reg 2).toNat) ∧
      s.probePages (pagesOf (s.reg 2) (s.reg 3).toNat) = s1 ∧ s1.goes = true ∧ s1.clusterLocal s1.th 0 = true ∧
      s1.launch s1.th.launch = some ⟨1, 64, 0, .nowhere, true, [], 0, [], [], [], [], [], none⟩) ∧ (s.reg 4).toNat % 4 ≠ 0 ∧
    (∃ s1, Ready w [((8#5).toNat, w.lmul), ((9#5).toNat, w.lmul)] [] [] ∧ w.sew ≠ 64 ∧ w.vl = 1 ∧ w.vstart = 0 ∧ Fresh w 0 ∧
      ((8#5).toNat + w.lmul ≤ (9#5).toNat ∨ (9#5).toNat + w.lmul ≤ (8#5).toNat) ∧ va.toNat % 4 = 0 ∧
      w.resolve va 4 2 0 = (.at_ (.cluster 128 0x20000) 0, s1) ∧ s1.launch s1.th.launch = some l ∧ l.id = s1.th.launch ∧
      s1.th.threadNo = w.th.threadNo ∧ (∃ x ∈ l.windows, x.1.toNat ≤ va.toNat ∧ va.toNat + 4 ≤ x.1.toNat + x.2) ∧
      l.tagLines (sliceOf (0x20000 / 4)) < 16384 ∧ s1.th.fencesOn none = [] ∧
      (s1.atomicPlace (0#4).toNat (.cluster 128 0x20000) 0 true = .cluster 128 0x20000 ∧ s1.damageAt (.cluster 128 0x20000) = none) ∧
      (Fresh w 5 ∧ s1.atomicPlace (5#4).toNat (.cluster 128 0x20000) 0 true = .through 128 0x20000 ∧
        (s1.evictSector 128 0x20000).damageAt (.through 128 0x20000) = none)) ∧
    (Settled w ∧ Fresh w 0 ∧ w.clusterLocal w.th 0 = true ∧ w.launch w.th.launch = some l ∧ l.id = w.th.launch ∧
      l.windows.find? (fun x => x.1 == w.reg 2) = some (0x20000, 0x100) ∧
      (∀ q ∈ ({ l with partials := [⟨0x80C0, 0x80C0, 0, 0, 0⟩] } : Launch).partials, 4 * q.word < 0x20000 ∨ 0x20000 + 0x100 ≤ 4 * q.word)) ∧
    (∀ x ∈ w.sectors, x.cluster = clusterOf w.th.core → x.written = 0) ∧
    (∃ s1, (mapped []).goes = true ∧ s1.goes = true ∧ (⟨0x8000, 0x8000, 0, 0, 0⟩ : Partial).rank < (⟨0x8000, 0x8000, 1, 0, 0⟩ : Partial).rank ∧
      (mapped []).atomicAt (0#4).toNat (BitVec.ofNat 64 (4 * 0x8000)) 4 2 (mapped []).cv.vstart0 = (some (.mem (.cluster 128 0x20000)), s1) ∧
      s1.th.det = false ∧ s1.th.fencesOn none = []) := by
  refine ⟨⟨_, by unfold Settled; decide +kernel, by unfold Fresh; decide +kernel, by decide +kernel, by decide +kernel, by decide +kernel, by decide +kernel,
      by decide +kernel, by decide +kernel, rfl, by decide +kernel, by decide +kernel, by decide +kernel⟩, by decide +kernel,
    ⟨_, ready_of (by decide +kernel), by decide +kernel, by decide +kernel, by decide +kernel, by unfold Fresh; decide +kernel, by decide +kernel,
      by decide +kernel, paired (by decide +kernel), by decide +kernel, by decide +kernel, by decide +kernel,
      ⟨(0x20000, 0x100), by decide +kernel⟩, by decide +kernel, by decide +kernel, by decide +kernel,
      by unfold Fresh; decide +kernel, by decide +kernel⟩,
    by unfold Settled Fresh; decide +kernel, by decide +kernel, _, by decide +kernel, ?_, by decide, paired (by decide +kernel), by decide +kernel,
    by decide +kernel⟩
  decide +kernel

theorem cleanable_of {s : State} {x : Sector} (h : s.damage = []) (hl : s.lineBad (x.addr * 32) = false) : CleanableSector s x :=
  ⟨by rw [h]; rfl, hl, by rw [h]; simp⟩

/-- Without damage every sector whose line is sound can be cleaned. -/
theorem all_cleanable {s : State} (h : s.damage = []) (hl : ∀ x ∈ s.sectors, s.lineBad (x.addr * 32) = false) : ∀ x ∈ s.sectors, CleanableSector s x :=
  fun x hx => cleanable_of h (hl x hx)

/-- A dirty sector of the control cluster; the narrowest scope and the widest. -/
theorem witness_FencesAndCaches :
    let s := { State.reset with sectors := [⟨128, 5, 1, 1, false⟩] }
    Settled s ∧ Fresh s 0 ∧ s.clusterLocal s.th 0 = true ∧ Fresh s 5 ∧ s.clusterLocal s.th 5 = false ∧ Cleanable s 5 ∧ Cleanable s 0 ∧ (0xFFFF#16).getLsbD 15 = true ∧
    ∃ x ∈ s.sectors, Summary s 5 x ∧ x.written ≠ 0 := by
  refine ⟨by unfold Settled; decide +kernel, by unfold Fresh; decide +kernel, by decide +kernel, by unfold Fresh; decide +kernel, by decide +kernel,
    fun x hx _ _ => all_cleanable rfl (by decide +kernel) x hx, fun x hx _ _ => all_cleanable rfl (by decide +kernel) x hx, by decide,
    by unfold Summary; decide +kernel⟩

/-- An entry image that the checks take (an explicit entry that names nothing), for a control core and for a context whose table lies
in the window, and one that they refuse (a reserved bit); and an entry that drains. -/
theorem witness_ScopeTableWords :
    let s := loaded [(2, pad + 0x1FDC0)]
    let b := State.filled s 0x1FDC0 128 1
    let x := { (mapped [(2, pad + 0x1FDC0)]).onTh (fun t => { t with ctx := 0 }) with
      ctxs := [⟨0, 0x10001#512 ||| (0x8000000000010000#512 <<< 384), [], []⟩] }
    let y := { x with ctxs := [⟨0, 0x10001#512, List.replicate 16 ⟨0, 0, true⟩, []⟩] }
    let u := s.fenceAt 0 0xFFFF#16 true true
    let c := b.fenceAt 0 0xFFFF#16 true true
    let z := x.fenceAt 0 0xFFFF#16 true true
    (Settled s ∧ s.th.fencesOn (some 0) = [] ∧ (s.reg 2).toNat % 8 = 0 ∧ InWindow s (s.reg 2) 576 ∧ s.th.ctx = 64 ∧ (s.scopeOf s.th 15).draining = false ∧
      u.scopeFault u.th.ctx 0 = none) ∧ (Settled b ∧ c.scopeFault c.th.ctx 128 = some 1) ∧
    (Settled x ∧ x.th.ctx ≠ 64 ∧ (x.scopeOf x.th 1).draining = false ∧ z.scopeFault z.th.ctx 0 = none ∧
      (z.storeDwords ((x.ctxRec x.th.ctx).extractLsb' 384 64 + BitVec.ofNat 64 (576 * 1)) (dwords 72 0)).goes = true ∧
      (z.storeDwords (2 ^ 60) (dwords 72 0)).goes = false) ∧
    (Settled y ∧ (y.scopeOf y.th 1).draining = true) ∧
    Recorded u (s.reg 2) 576 (0 : BitVec 4608) ∧ Recorded c (b.reg 2) 576 (128 : BitVec 4608) ∧ Recorded z (x.reg 2) 576 (0 : BitVec 4608) := by
  refine ⟨by unfold Settled InWindow; decide +kernel, by unfold Settled; decide +kernel, by unfold Settled; decide +kernel,
    by unfold Settled; decide +kernel, ?_, ?_, ?_⟩
  all_goals unfold Recorded Sound InWindow; decide +kernel

/-- A lone participant of no launch, of a deterministic launch that it is the whole of, and of one that has another thread; two of one launch in
one cluster, in one gang and in two; and a complete instance. -/
theorem witness_BarriersAndSemaphores_bar :
    let l : Launch := ⟨1, 64, 1 <<< 275, .nowhere, true, [], 0, [], [], [], [], [], none⟩
    let s := State.reset
    let one := { (s.onTh (fun t => { t with launch := 1 })) with launches := [l] }
    let two := { (s.onTh (fun t => { t with launch := 1 })) with others := [{ Thread.resetControl 1 with launch := 1 }] }
    let gangs := { two with launches := [{ l with image := 0 }], others := [{ Thread.resetControl 1 with launch := 1, gang := 1 }] }
    let b : Bar := ⟨0, 0, s.scopeOf s.th 0, [0], [0], true, []⟩
    let o : Bar := ⟨1, 0, one.scopeOf one.th 0, one.participants 0, [], false, []⟩
    let r := { s with bars := [b] }
    (Settled s ∧ Fresh s 0 ∧ s.clusterLocal s.th 0 = true ∧ s.barOf s.th.uid = none ∧ s.spansGangs (0#4).toNat (s.participants 0) = false ∧
      s.participants 0 = [s.th.uid] ∧ s.launch s.th.launch = none ∧ s.bars = []) ∧
    (Settled one ∧ Fresh one 0 ∧ one.clusterLocal one.th 0 = true ∧ one.barOf one.th.uid = none ∧
      one.spansGangs (0#4).toNat (one.participants 0) = false ∧ one.participants 0 = [one.th.uid] ∧ one.launch one.th.launch = some l ∧
      l.det = true ∧ one.includesAll o l = true ∧ one.bars = []) ∧
    (Settled two ∧ Fresh two 2 ∧ two.clusterLocal two.th 2 = true ∧ two.barOf two.th.uid = none ∧ two.spansGangs (2#4).toNat (two.participants 2) = false ∧
      (∃ x ∈ two.others, x.uid ∈ two.participants 2 ∧ x.uid ≠ two.th.uid) ∧ two.bars = []) ∧
    (Settled gangs ∧ Fresh gangs 2 ∧ gangs.clusterLocal gangs.th 2 = true ∧ gangs.barOf gangs.th.uid = none ∧
      gangs.spansGangs (2#4).toNat (gangs.participants 2) = true) ∧
    (r.barOf r.th.uid = some b ∧ b.complete = true ∧ b.scope.clusterLocal r.th = true) := by
  unfold Settled Fresh; decide +kernel

/-- Posts that add, set the count, and set the error flag; an empty queue and a waiter; counts that suffice and that do not. -/
theorem witness_BarriersAndSemaphores_sem :
    let s := loaded [(1, 65535), (2, 1), (3, 0x4000000000000002), (4, 0x8000000000000001)]
    let err := { s with sems := [⟨65535, 0, true, [], []⟩] }
    let queued := { s with sems := [⟨65535, 1, false, [⟨9, 2, ⟨0, 0, false⟩⟩, ⟨10, 1, ⟨0, 0, false⟩⟩], []⟩] }
    let served := { s with sems := [⟨65535, 1, false, [], [⟨s.th.uid, 3, ⟨0, 0, false⟩⟩]⟩] }
    let full := { s with sems := [⟨65535, 1, false, [], []⟩] }
    (SemReady s 1 5 ∧ (s.release (5#4).toNat).goes = true ∧ s.reg 2 &&& 0x3FFFFFFF00000000 = 0 ∧ s.reg 3 &&& 0x3FFFFFFF00000000 = 0 ∧
      s.reg 4 &&& 0x3FFFFFFF00000000 = 0 ∧ (s.reg 3).getLsbD 62 = true ∧ (s.reg 4).getLsbD 63 = true ∧ (s.sem 65535).queue = []) ∧
    (s.reg 2 &&& 0xFFFFFFFF00000000 = 0 ∧ (s.sem 65535).err = false ∧ (s.sem 65535).count < asked (s.reg 2) ∧
      ∀ w ∈ (s.sem 65535).served, w.uid ≠ s.th.uid) ∧
    (SemReady err 1 5 ∧ (err.sem 65535).err = true) ∧
    (SemReady queued 1 5 ∧ (queued.sem 65535).queue ≠ [] ∧ ((queued.sem 65535).queue[0]?).map (·.take.toNat) = some (1 + 1)) ∧
    (SemReady served 1 5 ∧ (served.sem 65535).served.find? (fun w => w.uid == served.th.uid) = some ⟨s.th.uid, 3, ⟨0, 0, false⟩⟩) ∧
    (SemReady full 1 5 ∧ (full.sem 65535).err = false ∧ (full.sem 65535).queue = [] ∧ asked (full.reg 2) ≤ (full.sem 65535).count) := by
  unfold SemReady Settled Fresh; decide +kernel

/-- An index that may be published and the one that may not; a cell in error, one that is ahead and one that is not. -/
theorem witness_ChainCellsAndWait :
    let s := vec 1 0 0 [(1, pad + 0x1FFF8), (2, 5), (3, 0x7FFFFFFFFFFFFFFF)]
    let err := State.filled s 0x1FFF8 0xFFFFFFFFFFFFFFFF 8
    let ahead := State.filled s 0x1FFF8 3 8
    let r := { s with cv := { s.cv with vstart0 := 1 } }
    (Settled s ∧ Fresh s 5 ∧ AtomicPlaced s (s.reg 1) 8 ∧ (s.reg 2).toNat % 2 ^ 63 ≠ 2 ^ 63 - 1 ∧ (released s 5 true (s.reg 1) 2).goes = true ∧
      (s.reg 3).toNat % 2 ^ 63 = 2 ^ 63 - 1) ∧
    (s.cv.vstart0 = 0 ∧ Fresh s s.th.csr.hwscope ∧ s.th.csr.vtype.toNat % 4 ≠ 3 ∧ scratchNat s (s.reg 1) 8 % 2 ^ 63 - s.th.csr.hwbase.toNat = 0 ∧
      scratchNat s (s.reg 1) 8 < 2 ^ 63) ∧
    (Settled err ∧ AtomicPlaced err (err.reg 1) 8 ∧ scratchNat err (err.reg 1) 8 = 2 ^ 64 - 1) ∧
    (Settled ahead ∧ AtomicPlaced ahead (ahead.reg 1) 8 ∧ scratchNat ahead (ahead.reg 1) 8 ≠ 2 ^ 64 - 1 ∧
      scratchNat ahead (ahead.reg 1) 8 % 2 ^ 63 - ahead.th.csr.hwbase.toNat ≠ 0) ∧ r.cv.vstart0 ≠ 0 ∧
    (s.commandsOut ≤ (0#5).toNat ∧ s.diagOut ≤ (0#5).toNat) := by
  unfold Settled Fresh AtomicPlaced InWindow Sound; decide +kernel

/-- A command of a copy queue. -/
def command (q token : Nat) : Cmd := ⟨q, .copy pad pad 0, 0, token, 64, 4096, 0, 131072, none, 0, 0, 0, false, false, [], [], none⟩

/-- Descriptors of the smallest size: a COPY2D of one byte, a QCOPY of 32 by 32 FP32, and a decode in mode 0. -/
def copy2dRecord : BitVec 256 := BitVec.ofNat 256 (2 ^ 63 + (2 ^ 63 + 8) * 2 ^ 64 + 2 ^ 128 + 2 ^ 160)
def qcopyRecord : BitVec 512 := BitVec.ofNat 512 (32 * 2 ^ 64 + 32 * 2 ^ 96 + 128 * 2 ^ 128)
def decodeRecord : BitVec 2048 := BitVec.ofNat 2048 (1 + 2 ^ 8)

/-- Room in the queue, a full queue, a queue of nobody's, a count and queue numbers at their limits, and legal and illegal descriptors. -/
theorem witness_EngineWords :
    let s := State.filled (State.filled (State.filled (loaded [(1, pad), (2, pad + 8), (3, pad + 0x1000), (4, 2 ^ 40), (5, 2 ^ 40 + 1), (6, pad + 0x2000),
      (7, pad + 0x2800), (8, 2 ^ 48), (9, 3)]) 0x1000 copy2dRecord.toNat 32) 0x2000 qcopyRecord.toNat 64) 0x2800 decodeRecord.toNat 256
    let full := { s with queues := List.replicate 64 (command 31 7) }
    (Settled s ∧ (s.reg 4).toNat ≤ 2 ^ 40 ∧ (31#6).toNat < 32 ∧ RangeOk s (s.reg 1) 0 ∧ RangeOk s 0x20000 (2 ^ 40) ∧ RangeOk s (s.reg 2) 8 ∧ Owns s 31 ∧
      inQueue s 31 < 64 ∧ 2 ^ 40 < (s.reg 5).toNat) ∧ (64 ≤ inQueue full 31 ∧ Owns full 31 ∧ Settled full) ∧
    ((user []).ctxHasQueue (user []).th.ctx 31 = false) ∧
    ((s.reg 3).toNat % 8 = 0 ∧ Recorded s (s.reg 3) 32 copy2dRecord ∧ (bits copy2dRecord 128 32 ≠ 0 ∧ bits copy2dRecord 160 32 ≠ 0 ∧
      bits copy2dRecord 128 32 * bits copy2dRecord 160 32 ≤ 2 ^ 40) ∧ (∀ r ∈ copy2dRanges copy2dRecord, RangeOk s r.1 r.2.1) ∧ bits (0 : BitVec 256) 128 32 = 0) ∧
    ((s.reg 6).toNat % 8 = 0 ∧ Recorded s (s.reg 6) 64 qcopyRecord ∧ qcopyOk qcopyRecord = true ∧ qcopyOk 0 = false ∧
      ∀ r ∈ qcopyRanges qcopyRecord, RangeOk s r.1 r.2.1) ∧
    ((s.reg 7).toNat % 64 = 0 ∧ Recorded s (s.reg 7) 256 decodeRecord ∧ blockOk decodeRecord = true ∧ blockOk 0 = false ∧ 32 ≤ (47#6).toNat ∧ (47#6).toNat < 48 ∧
      ∀ n ∈ blockSems decodeRecord, s.ctxHasSem s.th.ctx n = true) ∧
    ((s.reg 9).toNat < 2 ^ 48 ∧ (∀ q, q < 48 → (s.reg 9).getLsbD q = true → Owns s q) ∧ OwnCleanable s ∧
      (∀ c ∈ s.queues, c.uid = s.th.uid → (s.reg 9).getLsbD c.queue = false) ∧ 2 ^ 48 ≤ (s.reg 8).toNat) := by
  refine ⟨?_, ?_, by decide +kernel, ?_, ?_, ?_, ?_, ?_, fun x hx _ _ => all_cleanable rfl (by decide +kernel) x hx, ?_, ?_⟩
  all_goals (try unfold RangeOk); (try unfold Recorded); (try unfold Sound); (try unfold InWindow); (try unfold Settled); (try unfold Owns)
  all_goals decide +kernel

/-- A compression of a page of the context with ASID 1; room in the queue, a full queue, and a record of zeros. -/
theorem witness_EngineWords_migrate :
    let x : BitVec 256 := BitVec.ofNat 256 (2 ^ 64 + 2 * 2 ^ 80)
    let s := { State.filled (loaded [(1, pad)]) 0 x.toNat 32 with ctxs := [⟨0, 0x10001#512, [], []⟩] }
    let full := { s with queues := List.replicate 16 (command 48 7) }
    (Settled s ∧ s.privileged = true ∧ (s.reg 1).toNat % 8 = 0) ∧ Recorded s (s.reg 1) 32 x ∧ Recorded full (full.reg 1) 32 x ∧
    (s.migrateOk x = true ∧ inQueue s (48 + s.migrationDie x) < 16) ∧ (full.migrateOk x = true ∧ 16 ≤ inQueue full (48 + full.migrationDie x)) ∧
    s.migrateOk 0 = false := by
  refine ⟨by unfold Settled; decide +kernel, ?_, ?_, by decide +kernel, by decide +kernel, by decide +kernel⟩
  all_goals unfold Recorded Sound InWindow; decide +kernel

/-- A launch record of one gang of `c` cores on die 0, one thread a core with `n` registers (R322). -/
def launchRecord (c n prio : Nat) : BitVec 1024 :=
  BitVec.ofNat 1024 (2 ^ 128 + c * 2 ^ 136 + 2 ^ 144 + 2 ^ 152 + 2 ^ 160 + 2 ^ 176 + n * 2 ^ 256 + prio * 2 ^ 272 + 2 ^ 512)

/-- A compute core's thread whose context has cluster 0, with a launch record at 0x20000. -/
def launcher : State :=
  let s := mappedUser 1 0 [(1, 0x20000), (2, 0x30000), (3, 0x20001), (4, 0x0100000000000000), (5, 0x48)]
  { s with ctxs := [⟨0, 0x10001#512 ||| (1#512 <<< 128), [], []⟩], mem := cellsMerge s.mem 0x20000 (launchRecord 1 8 0).toNat (2 ^ 1024 - 1) 128 }

/-- The doublewords of a record. -/
def dwordsOf (x : BitVec 1024) : List Word := (List.range 16).map (fun i => x.extractLsb' (64 * i) 64)

/-- A record that is accepted, one of zeros that is rejected, a full urn, and addresses that fault. -/
theorem witness_TaskAndSystemWords_launch :
    let s := launcher
    let full := s.onDie 0 (fun x => { x with urn := List.replicate 256 0 })
    (∃ s1, Settled s ∧ (s.reg 1).toNat % 128 = 0 ∧ canonical (s.reg 1) = true ∧ isScratchAddr (s.reg 1) = false ∧ s.cleanOwn.goes = true ∧
      s.cleanOwn.loadDwords (s.reg 1) 16 = (some (dwordsOf (launchRecord 1 8 0)), s1) ∧ s1.urnWaits s1.th.ctx (launchRecord 1 8 0) = false ∧
      s1.rejects s1.th.ctx (launchRecord 1 8 0) = none) ∧ BitVec.ofNat 1024 (joinWords (dwordsOf (launchRecord 1 8 0))) = launchRecord 1 8 0 ∧
    (∃ s1, s.cleanOwn.loadDwords (s.reg 2) 16 = (some (dwordsOf 0), s1) ∧ s1.urnWaits s1.th.ctx 0 = false ∧ s1.rejects s1.th.ctx 0 = some 1) ∧
    (∃ s1, full.cleanOwn.goes = true ∧ full.cleanOwn.loadDwords (full.reg 1) 16 = (some (dwordsOf (launchRecord 1 8 0)), s1) ∧
      s1.urnWaits s1.th.ctx (launchRecord 1 8 0) = true) ∧
    (s.reg 3).toNat % 128 ≠ 0 ∧ ((s.reg 4).toNat % 128 = 0 ∧ canonical (s.reg 4) = false) := by
  refine ⟨⟨_, by unfold Settled; decide +kernel, by decide +kernel, by decide +kernel, by decide +kernel, by decide +kernel, paired (by decide +kernel),
    by decide +kernel, by decide +kernel⟩, by decide +kernel, ⟨_, paired (by decide +kernel), by decide +kernel, by decide +kernel⟩,
    ⟨_, by decide +kernel, paired (by decide +kernel), by decide +kernel⟩, by decide +kernel, by decide +kernel⟩

/-- Entries for TSPAWN, a full task queue, and TJOIN with and without children. -/
theorem witness_TaskAndSystemWords_tasks :
    let s := launcher
    let r := { s with tasks := List.replicate 4096 (⟨0, 0, 0, 0, 0, 0⟩ : Task) }
    let j := s.onTh (fun t => { t with join := 1 })
    (Settled s ∧ Reachable (s.reg 1) ∧ s.tasksAt (clusterOf s.th.core) < 4096 ∧ (s.reg 5).toNat % 16 ≠ 0 ∧ (s.reg 4).toNat % 16 = 0 ∧ ¬ Reachable (s.reg 4)) ∧
    (Settled r ∧ 4096 ≤ r.tasksAt (clusterOf r.th.core)) ∧ s.th.join = 0 ∧ j.th.join ≠ 0 := by
  unfold Settled Reachable; decide +kernel

/-- A thread of compute core 0 stopped by a trap, with no vector registers, so that its image is small. -/
def stopped : Thread :=
  { Thread.resetControl 1 with core := 0, ctx := 0, nregs := 0, naccs := 0, winSize := 0, run := .stopped, trap := some ⟨0x40, 0x11, 0, 4, none⟩ }

/-- A control core with that thread. -/
def saver : State := { loaded [(1, pad), (2, 2 ^ 48), (3, 2 ^ 48 + 1), (4, 2 ^ 18 - 1), (5, 2 ^ 18), (6, 55), (7, 56)] with others := [stopped] }

theorem witness_TaskAndSystemWords_system :
    let s := saver
    let c : Cmd := command 55 7
    let e := { s.onTh (fun t => { t with tokens := [(31, 7)] }) with queues := [c] }
    let f := { e with queues := [{ c with result := some 5 }] }
    let kept := { s with others := [{ stopped with needs := [⟨128, 0, 0, 1, 4⟩] }] }
    let u := s.fenceAt 0 0xFFFF#16 true true
    (Settled s ∧ s.privileged = true ∧ (s.reg 4).toNat < 2 ^ 18 ∧ OwnCleanable s ∧ 2 ^ 18 ≤ (s.reg 5).toNat ∧ (s.reg 6).toNat ≤ 55 ∧ 55 < (s.reg 7).toNat ∧
      (s.reg 1).toNat % 128 = 0 ∧ (s.reg 2).getLsbD 48 = true ∧ (s.reg 2).extractLsb' 49 15 = 0 ∧ u.goes = true ∧
      u.selected (s.reg 2) = some stopped ∧ u.selected (s.reg 3) = none ∧ (s.reg 3).getLsbD 48 = true ∧ (s.reg 3).extractLsb' 49 15 = 0) ∧
    (e.queues.filter (fun c => c.queue == (e.reg 6).toNat) = [c] ∧ c.uid = e.th.uid ∧ e.th.tokens = [(31, c.token)] ∧ c.result = none) ∧
    f.queues.filter (fun c => c.queue == (f.reg 6).toNat) = [{ c with result := some 5 }] ∧
    (∀ y ∈ s.others, ∀ x ∈ y.needs, x.pte.getLsbD 0 = false) ∧ (Settled kept ∧ kept.privileged = true ∧ OwnCleanable kept) ∧
    (∃ y ∈ kept.others, ∃ x ∈ y.needs, x.pte.getLsbD 0 = true ∧ ((kept.reg 4).getLsbD 17 = true ∨ x.asid = (kept.reg 4).setWidth 16) ∧
      ((kept.reg 4).getLsbD 16 = true ∨ x.page * 65536 / 2 ^ leafBits x.level = (kept.reg 4).toNat % 2 ^ 57 / 2 ^ leafBits x.level)) := by
  refine ⟨⟨by unfold Settled; decide +kernel, by decide +kernel, by decide +kernel, fun x hx _ _ => all_cleanable rfl (by decide +kernel) x hx,
    by decide +kernel⟩, by decide +kernel, by decide +kernel, by decide +kernel, ⟨by unfold Settled; decide +kernel, by decide +kernel,
    fun x hx _ _ => all_cleanable rfl (by decide +kernel) x hx⟩, by decide +kernel⟩

/-- An image of that thread as R406 lays it out: signature, ASID and number 0, no registers, 8 lane groups, length, the default
accumulator configurations. -/
def goodImage : Nat :=
  0x4A534156 + 8 * 2 ^ 120 + 18432 * 2 ^ 384 + ((List.range 8).map (fun i => 0x1800000000001800 * 2 ^ (8 * (1920 + 8 * i)))).sum

/-- A read that gives something, and what follows from it. -/
theorem read_of {α β γ : Type} {p : Option α × β} {f : α → β → γ} {c : γ} (h : p.1.map (fun a => f a p.2) = some c) :
    ∃ a b, p = (some a, b) ∧ f a b = c := by
  obtain ⟨x, b⟩ := p
  cases x with
  | none => cases h
  | some a => exact ⟨a, b, rfl, Option.some.inj h⟩

set_option maxRecDepth 100000 in
/-- The image is stored whole; the hand-made one is accepted, zeros are not. -/
theorem witness_TaskAndSystemWords_images :
    let u := saver.fenceAt 0 0xFFFF#16 true true
    let g := (State.filled saver 0 goodImage 2048).fenceAt 0 0xFFFF#16 true true
    let w := u.settleThread stopped
    let x := (w.threads.find? (fun y => y.uid == stopped.uid)).getD stopped
    (w.damage.find? stopped.holdsDamage = none ∧ w.badImageLine stopped = none ∧ (w.storeDwords (saver.reg 1) (w.imageOf x)).goes = true) ∧
    (∃ ws w, g.loadDwords (saver.reg 1) (stopped.imageBytes / 8) = (some ws, w) ∧ w.imageFault stopped (stopped.viewImage ws) = none) ∧
    (∃ ws w, u.loadDwords (saver.reg 1) (stopped.imageBytes / 8) = (some ws, w) ∧ w.imageFault stopped (stopped.viewImage ws) = some 2) :=
  ⟨⟨by decide +kernel, by decide +kernel, State.storeDwords_goes _ _ _ 0 (by decide +kernel) (by decide +kernel) (by decide +kernel)
      (by decide +kernel) (by decide +kernel) (by decide +kernel) (by decide +kernel)⟩,
    read_of (by decide +kernel), read_of (by decide +kernel)⟩

/-! ### Events -/

theorem witness_SchedulingEvents_threads :
    let s := State.reset
    let trapped := { s with others := [stopped], ringWait := [1], ringBase := 0x1000, ringSize := 4 }
    (s.pick 4096 = some s.th ∧ s.pick 0 = none ∧ (∀ y ∈ s.threads, y.core = 4096 → s.isReady y = true → y.owes (s.readyAt 4096) = false)) ∧
    (s.ringWait = [] ∧ trapped.ringWait = 1 :: [] ∧ trapped.threads.find? (fun x => x.uid == 1) = some stopped ∧
      stopped.trap = some ⟨0x40, 0x11, 0, 4, none⟩ ∧ 4 ≤ trapped.ringSize.toNat % 16 ∧
      (trapped.ringTail - trapped.ringHead).toNat < 2 ^ (trapped.ringSize.toNat % 16) ∧ trapped.lineBad 0x1000 = false ∧ trapped.damage = []) ∧
    ((0 : Word).getLsbD 48 = false ∧ (0x1000000000000 : Word).getLsbD 48 = true ∧ (0x1000000000000 : Word).extractLsb' 49 15 = 0 ∧
      trapped.stoppedThread ((0x1000000000000 : Word).setWidth 16) ((0x1000000000000 : Word).extractLsb' 16 32) = some stopped) := by decide +kernel

/-- A DMACS word that adds 0 · 0 to diagonal 0, and a DMAC word whose diagonal is not in the span. -/
def held (fn : Nat) (op : Word) : DiagWord := ⟨0, fn, 0, defaultAccCfg, .bitmap 0, 32, 1024, 1, [0], [0], op, 0⟩

/-- Scopes, the governor's window at its end, the engine's queue, and words that fit and do not. -/
theorem witness_SchedulingEvents_cores :
    let s := { State.reset with ctxs := [⟨0, 0, List.replicate 16 ⟨0, 0, true⟩, []⟩], cores := [⟨4096, 3, 1024, 1024, 0, false, 0, 0, [held 3 0]⟩] }
    s.ctxs[0]? = some ⟨0, 0, List.replicate 16 ⟨0, 0, true⟩, []⟩ ∧ (List.replicate 16 (⟨0, 0, true⟩ : ScopeEntry))[15]? = some ⟨0, 0, true⟩ ∧
    (4111 < 4112 ∧ (s.die (dieOf 4111)).window.toNat + 1024 < 2 ^ 64 ∧ (s.coreRec 4111).last ≤ (s.die (dieOf 4111)).window.toNat / 1024) ∧
    (s.coreRec 0).diag = [] ∧ (s.coreRec 4096).diag = held 3 0 :: [] ∧
    ((held 3 0).fn ∈ [2, 3, 4] ∧ 1 ≤ cfgL (held 3 0).cfg ∧ cfgQ (held 3 0).cfg * cfgL (held 3 0).cfg ≤ 2048 * cfgSpan (held 3 0).cfg ∧
      (held 3 0).head + cfgSpan (held 3 0).cfg ≤ 8 ∧ opJ (held 3 0).op < cfgQ (held 3 0).cfg ∧ (held 3 0).fits = true) ∧
    ((held 2 1).fn ∈ [2, 3, 4] ∧ (held 2 1).fits = false) := by decide +kernel

/-- What a strainer's read gives, if anything. -/
def valueOf {α : Type} : Strain α → Option α
  | .ok v => some v
  | _ => none

theorem strained {α : Type} {p : Strain α × State} {v : α} (h : valueOf p.1 = some v) : p = (.ok v, p.2) := by
  obtain ⟨x, s⟩ := p
  cases x with
  | ok a => cases h; rfl
  | fault _ _ => cases h
  | stall _ => cases h

/-- A stream that reads the scratchpad, and one with a coded block of zeros at its base (R350). -/
theorem witness_SchedulingEvents_streams :
    let a : Binding := ⟨5, BitVec.ofNat 512 (affine + 2 ^ 63 - 0x4000), 0, 0, false, 0, none, [], true⟩
    let d : Binding := ⟨5, BitVec.ofNat 512 decoded, 0, 0, true, 56, none, [], true⟩
    let s := (vec 1 4 0 []).onTh (fun t => { t with binds := [a] })
    let m := (mapped []).onTh (fun t => { t with binds := [d], csr := { t.csr with vl := 16 } })
    let r := { m with mem := cellsMerge m.mem 0x4000 (0x5A1E + 64 * 2 ^ 32 + 40 * 2 ^ 48 + 0x595FB7DD * 2 ^ 64) (2 ^ 128 - 1) 16 }
    (s.th.parked = false ∧ (∀ x ∈ s.others, x.uid ≠ s.th.uid) ∧ s.th.bind 4 = none ∧ s.th.bind 5 = some a ∧ descWrite a.desc = false ∧ descKind a.desc ≠ 2 ∧
      a.fetched s.sew (4 * s.vl) a.pos = 0 ∧ 0 < a.pos + 4 * s.vl ∧ 0 < streamTotal a.desc a.shape ∧ fmtLegal (descFmt a.desc) s.sew = true) ∧
    (∃ s1, streamPlace a.desc a.shape 0 s.sew = some (pad, 0) ∧ s.loadCode pad (descFmt a.desc) s.sew 0 0 (descClass a.desc) 0 = (some (0, 0), s1) ∧
      s1.th = s.th) ∧
    (r.th.bind 5 = some d ∧ descKind d.desc = 2 ∧ d.attached = true ∧ d.ahead.length < 4 * r.vl ∧ d.pos + d.ahead.length < streamTotal d.desc d.shape ∧
      d.ahead.length + (64 - (d.pos + d.ahead.length) % 64) ≤ 4 * r.vl) ∧
    (r.strainFind d 0 = (.ok (descBase d.desc), r) ∧ descBase d.desc = 0x4000) ∧
    (∃ s2, r.strainBlock d 0x4000 = (.ok (List.replicate 64 0, List.replicate 8 0, 0x4038), s2) ∧ s2.th = r.th) := by
  refine ⟨by decide +kernel, ⟨_, by decide +kernel, paired (by decide +kernel), by decide +kernel⟩, by decide +kernel, ⟨rfl, by decide +kernel⟩,
    _, strained (by decide +kernel), by decide +kernel⟩

/-- The block of an encode of two pictures of one row, in mode 1 (R358). -/
def encodeRecord : BitVec 2048 :=
  BitVec.ofNat 2048 (2 + 2 ^ 8 + 2 * 2 ^ 32 + 6 * 2 ^ 352 + 2 ^ 63 * 2 ^ 384 + 64 * 2 ^ 512 + 64 * 2 ^ 528 + 64 * 2 ^ 560 + 2 * 2 ^ 576)

/-- A copy inside the window, finished and unfinished, a media command that waits for a parameter slot, that takes one and that has taken
one, and the failures of encodes and decodes. -/
theorem witness_SchedulingEvents_queues :
    let c : Cmd := { command 0 7 with kind := .copy pad (pad + 0x1FFF8) 8 }
    let e : Cmd := { command 0 7 with result := some 5 }
    let block := encodeRecord
    let m : Cmd := { command 32 8 with kind := .media block, posted := true }
    let d : Cmd := { command 47 9 with kind := .media decodeRecord, took := true, posted := true }
    let s := { State.reset with queues := [c, m, d] }
    let f := { (State.reset.onTh (fun t => { t with tokens := [(31, 7)] })) with queues := [e] }
    let g := { s with sems := [⟨6, 1, false, [], []⟩] }
    let p : SemPlace := ⟨2 ^ 32 + 32, 1, s.mediaScope m block⟩
    (State.reset.queues = [] ∧ s.working 0 = some c ∧ c.winBase + c.winSize ≤ 131072 ∧
      (pad.toNat / 2 ^ 17 = 2 ^ 46 ∧ c.winBase ≤ pad.toNat % 2 ^ 17 ∧ pad.toNat % 2 ^ 17 + 8 ≤ c.winBase + c.winSize) ∧
      ((pad + 0x1FFF8).toNat / 2 ^ 17 = 2 ^ 46 ∧ c.winBase ≤ (pad + 0x1FFF8).toNat % 2 ^ 17 ∧ (pad + 0x1FFF8).toNat % 2 ^ 17 + 8 ≤ c.winBase + c.winSize) ∧
      s.damage = []) ∧
    (s.queues.find? (fun x => x.queue == 0) = some c ∧ c.result = none ∧ f.queues.find? (fun x => x.queue == 0) = some e ∧ e.result = some 5 ∧
      f.th.uid = e.uid ∧ f.th.tokens.find? (fun x => x.2 == e.token) = some ((31#5).toNat, e.token)) ∧
    (s.working 32 = some m ∧ m.posted = true ∧ m.took = false ∧ (s.sem (bits block 352 32)).err = false ∧
      (∀ w ∈ (s.sem (bits block 352 32)).served, w.uid ≠ p.uid) ∧ (s.sem (bits block 352 32)).count = 0 ∧ { m with posted := false }.posted = false) ∧
    (g.working 32 = some m ∧ (g.sem (bits block 352 32)).tryWait p = some (0, p.scope, ⟨6, 0, false, [], []⟩)) ∧
    (s.working 47 = some d ∧ d.posted = true ∧ d.took = true) ∧ bits block 0 8 ≠ 1 ∧ bits decodeRecord 0 8 = 1 := by decide +kernel

/-- An engine reads zeros from a scratchpad that nothing has written. -/
theorem engRead_blank (s : State) (c : Cmd) (hs : s.scratch = []) (hd : s.damage = []) : ∀ l : List Word,
    (∀ a ∈ l, a.toNat / 2 ^ 17 = 2 ^ 46 ∧ c.winBase ≤ a.toNat % 2 ^ 17 ∧ a.toNat % 2 ^ 17 + 1 ≤ c.winBase + c.winSize) →
    s.engRead c l = (.ok (List.replicate l.length 0), s)
  | [], _ => rfl
  | a :: t, h => by
    have ha := h a (List.mem_cons_self ..)
    have ht := engRead_blank s c hs hd t (fun x hx => h x (List.mem_cons_of_mem _ hx))
    have hp : s.engPlace c a 0 = (.at_ (.scratch c.core (a.toNat % 2 ^ 17)), s) := by
      unfold State.engPlace
      simp only [isScratchAddr_of a ha.1, if_true, scratchPlace_in c.core c.winBase c.winSize a 1 0 ha.1 ha.2.1 ha.2.2, State.damageAt, hd,
        List.contains_nil]
      rfl
    unfold State.engRead
    simp only [hp, ht, State.engReadAt, State.readAt, hs]
    rfl

/-- A media command that reads its first parameter slot, from the issuer's window. -/
theorem witness_SchedulingEvents_slot :
    let m : Cmd := { command 32 8 with kind := .media encodeRecord, posted := true, took := true }
    let s := { State.reset with queues := [m] }
    m.row = 0 ∧ 0 < (videoOf encodeRecord (m.input.getD [])).rows ∧
    ∃ bs s1, s.engRead m (byteAddrs (encodeRecord.extractLsb' 384 64 + 65536#64) 4096) = (.ok bs, s1) := by
  refine ⟨by decide +kernel, by decide +kernel, _, _, engRead_blank _ _ rfl rfl _ ?_⟩
  intro a ha
  obtain ⟨i, hi, rfl⟩ := List.mem_map.mp ha
  have hi := List.mem_range.mp hi
  generalize hb : BitVec.extractLsb' 384 64 _ + 65536#64 = b
  have hb' : b = pad + 65536#64 := by rw [← hb]; decide +kernel
  subst hb'
  have hx : (pad + 65536#64 + BitVec.ofNat 64 i).toNat = 2 ^ 63 + 65536 + i := by
    rw [BitVec.toNat_add, show (pad + 65536#64).toNat = 2 ^ 63 + 65536 from rfl, BitVec.toNat_ofNat]; omega
  rw [hx]
  refine ⟨by omega, Nat.zero_le _, ?_⟩
  show (2 ^ 63 + 65536 + i) % 2 ^ 17 + 1 ≤ 0 + 131072
  omega

/-- What an engine's run gives, if anything. -/
def resultOf {α : Type} : Eng α → Option α
  | .ok v => some v
  | _ => none

theorem engineRead {α : Type} {p : Eng α × State} {v : α} (h : resultOf p.1 = some v) : p = (.ok v, p.2) := by
  obtain ⟨x, s⟩ := p
  cases x with
  | ok a => cases h; rfl
  | fail _ => cases h
  | stall => cases h

/-- A walk that stalled for a page: compressed, back in place, and pinned; one that did not; and a sector of a cluster cache. -/
theorem witness_SchedulingEvents_pages :
    let tables : List Host.Cell := [(0, 1), (2, 1), (65536, 1), (65538, 2), (131072, 1), (131074, 3)]
    let pte : Word := 0x0000010000000B7F
    let s := { State.reset with
      mem := cellsMerge tables 0x30000 pte.toNat (2 ^ 64 - 1) 8, ctxs := [⟨0, 0x10001#512, [], []⟩], packed := [⟨2 ^ 40, 1, [(5, 7)]⟩], woken := [(1, 0)] }
    let p := { s with mem := cellsMerge tables 0x30000 0x33F (2 ^ 64 - 1) 8 }
    let q := { s with mem := cellsMerge tables 0x30000 0x73F (2 ^ 64 - 1) 8 }
    let target : Word := 0x20000000000
    let c := { State.reset with sectors := [⟨128, 5, 1, 1, false⟩] }
    ((1, pageOf 0) ∈ s.woken ∧ (2, pageOf 0) ∉ s.woken) ∧
    (∃ s1, s.pageEntry 1 0 = (.ok (pte, 0x30000), s1) ∧ pte.getLsbD 11 = true ∧ pte.getLsbD 10 = false ∧
      s1.packed.find? (fun x => x.addr == packedAddr pte) = some ⟨2 ^ 40, 1, [(5, 7)]⟩ ∧ (∀ y ∈ s1.th :: s1.others, y.needs = []) ∧
      Memory.wf s1.mem = true ∧ Memory.wf [(5, 7)] = true ∧ (∀ c ∈ ([(5, 7)] : List Host.Cell), c.1 < 65536) ∧ target.toNat / 2 ^ 43 = s1.ident ∧
      target.toNat % 2 ^ 43 < 7 * 2 ^ 40 ∧ target.toNat % 65536 = 0 ∧ 0x30000 + 8 ≤ target.toNat ∧ s1.lineBad 0x30000 = false ∧ s1.damage = []) ∧
    (∃ s1, p.pageEntry 1 0 = (.ok (0x33F, 0x30000), s1) ∧ (0x33F : Word).getLsbD 10 = false ∧ (0x33F : Word).getLsbD 11 = false) ∧
    (∃ s1, q.pageEntry 1 0 = (.ok (0x73F, 0x30000), s1) ∧ (0x73F : Word).getLsbD 10 = true) ∧
    (c.sector 0 (5 * 32) = none ∧ c.lineBad (5 * 32) = false ∧ c.damage = [] ∧ c.sector 128 (5 * 32) = some ⟨128, 5, 1, 1, false⟩ ∧
      c.pathDown (2 ^ 43) = true) := by
  refine ⟨by decide +kernel, ⟨_, engineRead (by decide +kernel), by decide +kernel⟩, ⟨_, engineRead (by decide +kernel), by decide +kernel⟩,
    ⟨_, engineRead (by decide +kernel), by decide +kernel⟩, by decide +kernel⟩

/-- A mapped control core with a host queue of 16 entries. -/
def hosted : State :=
  let s := mapped []
  { s with hostQs := [⟨3, 0, 0x20000, 4, 0, 0, 0⟩], ctxs := [⟨0, 0x10001#512, [], []⟩] }

theorem witness_LaunchEvents_doorbell :
    let q : HostQueue := ⟨3, 0, 0x20000, 4, 0, 0, 0⟩
    let legal (v : Word) : Bool := v.extractLsb' 8 24 = 0 && (v.extractLsb' 32 32 - q.taken).toNat ≤ 2 ^ q.k && (v.extractLsb' 32 32 - q.accepted).toNat < 2 ^ 31
    hostQueue hosted ((4 : Word).toNat % 256) = none ∧ hostQueue hosted ((3 : Word).toNat % 256) = some q ∧
    (legal 0x0000001000000003 = true ∧ legal 0x0000001100000003 = false ∧ legal 0x0000000000000103 = false ∧ legal 3 = true ∧
      (3 : Word).extractLsb' 32 32 = q.taken) ∧
    ((255 < 256 ∧ (hosted.ctxRec 0).getLsbD 16 = true ∧ (0x20080 : Word).toNat % 128 = 0 ∧ 1 ≤ 16 ∧ 16 ≤ 16) ∧
      ¬ (0x20040 : Word).toNat % 128 = 0) := by decide +kernel

/-- A launch of a context with its own page table that waits for a cell at 0x20000 to reach 7. -/
def waiting (cell : Nat) : State :=
  let s := mapped []
  { s with
    mem := cellsMerge s.mem 0x20000 cell (2 ^ 64 - 1) 8
    launches := [⟨1, 64, BitVec.ofNat 1024 (0x20000 * 2 ^ 576 + 7 * 2 ^ 640), .nowhere, false, [], 0, [], [], [], [], [], none⟩,
      ⟨2, 64, 0, .nowhere, true, [], 0, [], [], [], [], [], none⟩] }

/-- The cell in error, at the threshold, final, and below. -/
theorem witness_LaunchEvents_cells :
    let image : BitVec 1024 := BitVec.ofNat 1024 (0x20000 * 2 ^ 576 + 7 * 2 ^ 640)
    let l : Launch := ⟨1, 64, image, .nowhere, false, [], 0, [], [], [], [], [], none⟩
    let met (v : Word) : Bool := v.getLsbD 63 = true || bits image 640 63 ≤ v.toNat % 2 ^ 63
    ((waiting 7).hostQs = [] ∧ (waiting 7).launch 3 = none ∧ (∃ x, (waiting 7).launch 2 = some x ∧ x.released = true) ∧ (waiting 7).launch 1 = some l ∧
      l.released = false ∧ image.extractLsb' 576 64 ≠ 0 ∧ image.extractLsb' 704 64 = 0 ∧ (waiting 7).ctxStalls 64 (image.extractLsb' 576 64) 0 = false ∧
      (waiting 7).tokenStalls l = false) ∧
    (∃ s1, (waiting 7).ctxRead8 64 (image.extractLsb' 576 64) = (some 7, s1) ∧ met 7 = true ∧ s1.tokenStalls l = false) ∧
    (∃ s1, (waiting 6).ctxRead8 64 (image.extractLsb' 576 64) = (some 6, s1) ∧ met 6 = false ∧ s1.tokenStalls l = false) ∧
    (∃ s1, (waiting (2 ^ 63)).ctxRead8 64 (image.extractLsb' 576 64) = (some 0x8000000000000000, s1) ∧ met 0x8000000000000000 = true ∧
      s1.tokenStalls l = false) ∧
    (∃ s1, (waiting (2 ^ 64 - 1)).ctxRead8 64 (image.extractLsb' 576 64) = (some (BitVec.allOnes 64), s1) ∧ s1.tokenStalls l = false) := by
  refine ⟨⟨by decide +kernel, by decide +kernel, ⟨_, rfl, by decide +kernel⟩, by decide +kernel⟩, ⟨_, paired (by decide +kernel), by decide +kernel⟩,
    ⟨_, paired (by decide +kernel), by decide +kernel⟩, ⟨_, paired (by decide +kernel), by decide +kernel⟩, _, paired (by decide +kernel), by decide +kernel⟩

/-- Launch 1 of the context in slot 0, with a record and gangs. -/
def withLaunches (ls : List Launch) (urn : List Nat) (ns : List Thread) : State :=
  let s := { State.reset with ctxs := [⟨0, 0x10001#512 ||| (1#512 <<< 128), [], []⟩], launches := ls, others := ns }
  s.onDie 0 (fun x => { x with urn := urn })

def launched (id : Nat) (image : BitVec 1024) (gs : List Gang) : Launch := ⟨id, 0, image, .reg 0 7, true, gs, 0, [], [], [], [], [], none⟩

/-- A gang of one core, placed on core 0 or parked. -/
def placedGang : Gang := ⟨0, 0, some 0, none, true, false, 1, [⟨0, 0, 0, true, 3⟩]⟩
def parkedGang : Gang := ⟨0, 0, none, some 0, true, false, 1, [⟨0, 0, 0, true, 3⟩]⟩

/-- An empty urn; a new launch at its head, singly placed and co-resident; a parked gang at its head. -/
theorem witness_LaunchEvents_placement :
    let one := withLaunches [launched 1 (launchRecord 1 8 0) (freshGangs (launchRecord 1 8 0))] [1] []
    let image : BitVec 1024 := launchRecord 1 8 0 ||| (1#1024 <<< 274)
    let all := withLaunches [launched 1 image (freshGangs image)] [1] []
    let back := withLaunches [launched 1 (launchRecord 1 8 0) [parkedGang]] [] [{ Thread.resetControl 1 with core := 0, ctx := 0, launch := 1, parked := true }]
    (one.hostQs = [] ∧ 7 < 8 ∧ 15 < 16 ∧ one.urnHead 7 = none) ∧
    (one.urnHead 0 = some ⟨0, 2, 1, 0⟩ ∧ one.launch 1 = some (launched 1 (launchRecord 1 8 0) (freshGangs (launchRecord 1 8 0))) ∧
      (launched 1 (launchRecord 1 8 0) []).coResident = false ∧
      (freshGangs (launchRecord 1 8 0)).find? (fun g => g.die == 0 && !g.placed) = some ⟨0, 0, none, none, false, false, 0, []⟩ ∧
      one.clusterSpots (launched 1 (launchRecord 1 8 0) (freshGangs (launchRecord 1 8 0))) 0 = some [⟨0, 0, 0, true, 3⟩]) ∧
    (all.urnHead 0 = some ⟨0, 2, 1, 0⟩ ∧ (launched 1 image []).coResident = true ∧
      (∀ d ∈ (launched 1 image []).dies, (all.urnHead d).map (·.launch) = some 1) ∧
      ((all.planAll (launched 1 image (freshGangs image)) 0).map (·.length)) = some 1) ∧
    (back.urnHead 0 = some ⟨0, 1, 1, 0⟩ ∧ back.launch 1 = some (launched 1 (launchRecord 1 8 0) [parkedGang]) ∧
      [parkedGang].find? (fun g => g.num == 0) = some parkedGang ∧
      back.resumeSpots (launched 1 (launchRecord 1 8 0) [parkedGang]) parkedGang 0 = some [⟨0, 0, 0, true, 3⟩] ∧
      (∃ x ∈ back.gangThreads 1 0, ∃ p ∈ parkedGang.spots.zip [(⟨0, 0, 0, true, 3⟩ : Spot)], p.1.core = x.core ∧ p.1.slot = x.slot)) := by decide +kernel

/-- A head of priority 1 that needs every core of the cluster, above a placed gang of priority 0; the region full and large enough. -/
theorem witness_LaunchEvents_park :
    let a := launched 1 (launchRecord 1 32 0) [placedGang]
    let b := launched 2 (launchRecord 32 32 1) (freshGangs (launchRecord 32 32 1))
    let s := withLaunches [a, b] [2] [{ Thread.resetControl 1 with core := 0, ctx := 0, launch := 1, nregs := 32, winSize := 0 }]
    let r := s.onDie 0 (fun x => { x with parkSize := 0x100000000 })
    let n := { r with netOut := [⟨1, true, 8, 8, false, 0⟩] }
    let h : QEntry := ⟨1, 2, 2, 0⟩
    let fit := withLaunches [b] [2] []
    (s.urnHead 1 = none ∧ fit.urnHead 0 = some h ∧ fit.headFits 0 h = true) ∧
    (s.urnHead 0 = some h ∧ s.headFits 0 h = false ∧ s.victim 0 h.prio = some (a, placedGang) ∧ a.id = 1 ∧ placedGang.num = 0 ∧ a.coResident = false ∧
      s.parkPlaces a [placedGang] = none) ∧
    (r.headFits 0 h = false ∧ r.victim 0 h.prio = some (a, placedGang) ∧ r.parkPlaces a [placedGang] ≠ none ∧
      (r.settleGang a placedGang).gangQuiet a placedGang = true) ∧
    (n.headFits 0 h = false ∧ n.victim 0 h.prio = some (a, placedGang) ∧ n.parkPlaces a [placedGang] ≠ none ∧
      (n.settleGang a placedGang).gangQuiet a placedGang = false) := by decide +kernel

/-- A task that its gang's idle slot can run; a gang whose one thread waits for it; launches that are done and not, and the record of a token that
is owed. -/
theorem witness_LaunchEvents_tasks :
    let l := launched 1 (launchRecord 1 8 0) [placedGang]
    let k : Task := ⟨0, 1, 0, 1, 0x40, 5⟩
    let s := { withLaunches [l] [] [] with tasks := [k] }
    let t : Thread := { Thread.resetControl 1 with core := 0, ctx := 0, launch := 1, wait := .join, join := 1, run := .ready }
    let dead := { withLaunches [l] [] [t] with tasks := [k] }
    let done := launched 1 (launchRecord 1 8 0) [{ placedGang with done := true }]
    let c := (withLaunches [done] [] []).onTh (fun t => { t with tokens := [(31, 7)] })
    let late : Launch := { launched 1 0 [] with token := .host 0 0x20000, owed := some (5, 0, 1) }
    let w := { mapped [] with launches := [late] }
    (dead.occupied 0 0 = true ∧ s.occupied 0 0 = false ∧ s.occupied 1 0 = false ∧ s.taskSpot 1 0 = none ∧
      s.taskSpot 0 0 = some (l, placedGang, ⟨0, 0, 0, true, 3⟩, 0) ∧ s.tasks.find? (fun k => k.launch == 1 && k.gang == 0) = some k) ∧
    (s.launch 2 = none ∧ s.launch 1 = some l ∧ l.gangs.find? (fun g => g.num == 0) = some placedGang ∧ s.deadlocked l placedGang = false ∧
      dead.launch 1 = some l ∧ dead.deadlocked l placedGang = true ∧ dead.hostQs = [] ∧ (dead.ctxRec 0).getLsbD 16 = true ∧
      ∃ y ∈ dead.threads, ∀ x ∈ dead.threads, x.ctx = 0 → isControl x.core = false → x.uid ≠ y.uid) ∧
    (l.gangs.all (·.done) = false ∧ c.launch 1 = some done ∧ done.gangs ≠ [] ∧ done.gangs.all (·.done) = true ∧ c.tokenStalls done = false ∧ c.hostQs = [] ∧
      done.token = .reg c.th.uid 7 ∧ c.th.tokens.find? (fun x => x.2 == 7) = some ((31#5).toNat, 7)) ∧
    (w.launch 1 = some late ∧ w.hostQs = [] ∧ w.rootStalls 0 1 0x20000 1 = false) := by decide +kernel

/-- A context record with an error in it, and one that is created; slots at the limit; cores with and without a thread; a lost line. -/
theorem witness_LaunchEvents_settings :
    let s := { State.reset with ctxs := [⟨63, 0x10001#512, [], []⟩] }
    let u := user []
    let x := State.reset.onDie 0 (fun d => { d with lost := [0x80] })
    (64 ≤ 64 ∧ 63 < 64 ∧ (s.ctxRec 63).getLsbD 16 = true ∧ (State.reset.ctxRec 63).getLsbD 16 = false ∧ State.reset.creationStalls 63 = false ∧
      ((State.reset.putCtx ⟨63, State.reset.ctxRec 63 ||| (1#512 <<< 16), [], []⟩).createStatus 63).1 = 1 ∧ s.hostQs = []) ∧
    (4096 ≤ 4096 ∧ u.resident 0 = true ∧ 4095 < 4096 ∧ u.resident 4095 = false) ∧
    ((0x80 : Word).toNat ∈ (x.die (homeDie ((0x80 : Word).toNat % 2 ^ 43))).lost ∧ (0x100 : Word).toNat ∉ (x.die (homeDie ((0x100 : Word).toNat % 2 ^ 43))).lost) ∧
    (deviceLegal 0x3001 8 true = false ∧ 7 < 8 ∧ (1 : Word) = 1#64) := by decide +kernel

/-- A line whose metadata has no meaning, one whose dirty copy is damaged; each state of a line, with a holder, a local and a remote
requester. -/
theorem witness_BoundaryEvents_coherence :
    let st (c : Coh) (p : Nat) (m : BitVec 8) (n : Nat) (copies : List (Nat × Nat)) : State :=
      { State.reset with metas := [(5, (⟨c, p, m, n⟩ : Meta).bits)], copies := copies }
    let bad := { State.reset with metas := [(5, 0xC0000000)] }
    let away := { State.reset with copies := [(2 ^ 38 + 1, 3)], fabric := 1 }
    let hurt := { st .m 3 0 0 [(20, 3)] with damage := [.l2 3 5] }
    36864 ≤ 36864 ∧ (¬ HomeRequest State.reset (2 ^ 36) 0 ∧ ¬ HomeRequest State.reset (7 * 2 ^ 33) 0 ∧ ¬ HomeRequest State.reset 0 36864) ∧
    (¬ HomeRequest away (2 ^ 36) 9 ∧ 9 / 8 ≠ away.ident ∧ 9 < 36864 ∧ 3 / 8 = away.ident ∧ away.hasCopy (2 ^ 36) 3 = true ∧ away.hasCopy (2 ^ 36) 2 = false ∧
      away.holdsSector (2 ^ 36 * 4 + 1) 3 = true ∧ away.holdsSector (2 ^ 36 * 4 + 2) 3 = false ∧ ¬ ReadBad away (2 ^ 36) ∧ RoomFor away 3) ∧
    (HomeRequest bad 5 36863 ∧ bad.hasCopy 5 36863 = false ∧ ReadBad bad 5 ∧ Meta.ofBits (bad.metaBits 5) = none ∧ bad.ownLine 5 = true ∧
      (bad.die (homeDie (5 * 128 % 2 ^ 43))).lost.length < 1024) ∧
    (HomeRequest hurt 5 3 ∧ hurt.hasCopy 5 3 = true ∧ ReadBad hurt 5 ∧ hurt.ownLine 5 = true ∧ hurt.dirtyBad 5 = true ∧
      Meta.ofBits (hurt.metaBits 5) = some ⟨.m, 3, 0, 0⟩) ∧
    (HomeRequest State.reset (7 * 2 ^ 33 - 1) 0 ∧ Meta.ofBits (State.reset.metaBits (7 * 2 ^ 33 - 1)) = some ⟨.i, 0, 0, 0⟩ ∧
      ¬ ReadBad State.reset (7 * 2 ^ 33 - 1) ∧ RoomFor State.reset 0 ∧ State.reset.hasCopy 5 0 = false) ∧
    (∀ p ∈ [(Coh.e, 3, 0#8, 0), (.m, 3, 0#8, 0), (.o, 3, 1#8, 0), (.o, 3, 1#8, 1), (.s, 0, 3#8, 0), (.s, 9, 3#8, 1), (.sw, 0, 1#8, 2)],
      Meta.ofBits ((st p.1 p.2.1 p.2.2.1 p.2.2.2 []).metaBits 5) = some ⟨p.1, p.2.1, p.2.2.1, p.2.2.2⟩) ∧
    ((st .m 3 0 0 [(20, 3)]).hasCopy 5 3 = true ∧ ¬ ReadBad (st .m 3 0 0 [(20, 3)]) 5 ∧ (st .m 3 0 0 []).hasCopy 5 3 = false ∧
      (st .s 0 1 0 [(23, 0)]).hasCopy 5 0 = true ∧ (st .s 0 1 0 [(23, 0)]).holdsSector 20 0 = false ∧ (st .s 0 1 0 [(23, 0)]).dirtyBad 5 = false) ∧
    (3 / 8 = State.reset.ident ∧ 9 / 8 ≠ State.reset.ident) := by
  unfold HomeRequest ReadBad RoomFor; decide +kernel

/-- Damage on the die that is scrubbed, and metadata without a meaning; the management semaphore free, held by either port, and held by a port that is down. -/
theorem witness_BoundaryEvents_management :
    let s := { State.reset with damage := [.line 5, .soft 6] }
    let m := { State.reset with metas := [(5, 0xC0000000)] }
    let h (v : Word) : State := { State.reset with mgmt := v }
    (8 ≤ 8 ∧ 0 < 8 ∧ Damage.line 5 ∈ s.damage ∧ s.homeOf 5 = some 0 ∧ (s.die 0).lost.length + s.damage.length + s.metas.length ≤ 1024) ∧
    (Meta.ofBits (m.metaBits 5) = none ∧ m.homeOf 5 = some 0 ∧ (m.die 0).lost.length + m.damage.length + m.metas.length ≤ 1024) ∧
    (SwapAllowed 0 0x100000001 false ∧ SwapAllowed 0x100000001 0 false ∧ SwapAllowed 0x100000005 0x100000003 true ∧ ¬ SwapAllowed 0x100000001 0 true) ∧
    (Holder (h 0x100000001) false ∧ Holder (h 0x100000003) true ∧ ¬ Holder State.reset false ∧ ¬ Holder (h 0x100000003) false) ∧
    ((1 ≤ 3 ∧ 3 ≤ { h 0x100000003 with stage := 3 }.stage ∧ 3 ≤ 3) ∧ { State.reset with stage := 0 }.stage < 1 ∧ 4608 ≤ (4608 : Word).toNat ∧ (4607 : Word).toNat < 4608 ∧
      State.reset.identity.getLsbD 15 = false ∧ (0x8001 : Word).getLsbD 15 = true ∧ Memory.wf State.reset.mem = true) ∧
    ({ State.reset with bootFuses := 1 }.leaves < 1024 ∧ { State.reset with bootFuses := 1 }.bootFuses ≠ 0 ∧ State.reset.bootFuses = 0) := by
  unfold SwapAllowed HeldForm Holder; decide +kernel

/-- Ports at the limit, up and down; replays below and at 7; wear; and a network read that waits. -/
theorem witness_BoundaryEvents_links :
    let up := { State.reset with fabric := 0x20000, identity := 0x8000 }
    let seven := { up with replays := vput up.replays 17 7 }
    let a : NetAccess := ⟨0, true, 8, 8, false, 0⟩
    let w := { State.reset with netOut := [a] }
    (18 ≤ 18 ∧ 17 < 18 ∧ State.reset.identity.getLsbD 15 = false ∧ up.identity.getLsbD 15 = true ∧ (0x8001#16).getLsbD 15 = true ∧
      (0x8001#16).toNat % 8192 ≠ up.ident ∧ ¬((0x8000#16).toNat % 8192 ≠ up.ident) ∧ vget ({ up with replays := vput up.replays 16 8 }).replays 16 0 = 8) ∧
    (vget up.replays 17 0 < 7 ∧ 7 ≤ vget seven.replays 17 0 ∧ up.fabric.getLsbD 17 = true ∧ up.fabric.getLsbD 16 = false) ∧
    ((State.reset.die 8).wear ≤ 0xFFFF#16 ∧ 8 < 9 ∧ (0xFFFE#16) < (State.reset.die 8).wear) ∧
    (State.reset.netOut.find? (fun a => a.port == true && a.off == 8 && !a.store) = none ∧
      w.netOut.find? (fun a => a.port == true && a.off == 8 && !a.store) = some a) := by decide +kernel

/-! ### Steps -/

/-- ADD s1, s2, s3 placed where the first step after reset fetches, with the damage given. -/
def placedAdd (ds : List Damage) : State := { State.reset.withFetchWord 32 0x04221800 with damage := ds }

set_option maxRecDepth 100000 in
theorem placedAdd_fetched (ds : List Damage) (h : ds = [] ∨ ds = [.reg 0 2 2 0]) :
    Fetched (placedAdd ds) (((placedAdd ds).select (placedAdd ds).th).tick).fetch.2 0x04221800 (.add 1 2 3) := by
  obtain rfl | rfl := h
  all_goals exact ⟨by decide +kernel, ⟨_, 0x08000000080000000800000004221800#128, by decide +kernel, paired (by decide +kernel),
      by decide +kernel, fun n h1 h2 => by
        obtain rfl | rfl | rfl : n = 1 ∨ n = 2 ∨ n = 3 := by omega
        all_goals decide +kernel⟩, rfl, by decide, by decide +kernel, fun h => absurd h (by decide), fun h => absurd h (by decide)⟩

set_option maxRecDepth 100000 in
theorem witness_StepRunsDecoded :
    let s := placedAdd []
    ∃ s1 u, Fetched s s1 0x04221800 (.add 1 2 3) ∧ SoundRegs s1 ∧ exec (.add 1 2 3) { s1 with cv := opened s1 0x04221800 (.add 1 2 3) } = .next u ∧ u.cv.wait = none ∧
      u.cv = { opened s1 0x04221800 (.add 1 2 3) with kept := u.cv.kept } ∧
      ∀ y ∈ u.threads, y.parked = true → ∀ z ∈ s.threads, z.uid = y.uid → z.tokens = y.tokens :=
  ⟨_, _, placedAdd_fetched [] (.inl rfl), by
    have e : ((((placedAdd []).select (placedAdd []).th).tick).fetch.2).damage = [] := by decide +kernel
    unfold SoundRegs; rw [e]; simp, rfl, rfl, rfl, by decide +kernel⟩

set_option maxRecDepth 100000 in
/-- s2, which ADD reads, holds an uncorrectable word. -/
theorem witness_StepRunsDecoded_damaged :
    let s := placedAdd [.reg 0 2 2 0]
    ∃ s1 u, Fetched s s1 0x04221800 (.add 1 2 3) ∧ 2 ∈ (traits (.add 1 2 3)).reads ∧ (2#5) ≠ 0 ∧ Damage.reg s1.th.uid 2 (2#5).toNat 0 ∈ s1.damage ∧
      exec (.add 1 2 3) { s1 with cv := opened s1 0x04221800 (.add 1 2 3) } = .next u ∧ u.cv.fault = none :=
  ⟨_, _, placedAdd_fetched _ (.inr rfl), by decide, by decide, by decide +kernel, rfl, rfl⟩

theorem convoyIssue_next (s : State) (core : Nat) : ∃ u, exec (.convoyIssue core) s = .next u := by
  show ∃ u, execConvoyIssue core s = .next u
  unfold execConvoyIssue
  split <;> exact ⟨_, rfl⟩

/-- A word that waits; an event and an instruction on the agenda; and a machine with nothing to run. -/
theorem witness_StepRunsDecoded_others :
    let s := { State.reset with cv := opened State.reset 0xFC000008 .idle }
    let h := State.reset.onTh (fun t => { t with run := .halted })
    (∃ u, exec .idle s = .next u ∧ u.cv.wait = some (.idle, .nothing)) ∧
    ((traits (.convoyIssue 0)).event = true ∧ (∃ u, exec (.convoyIssue 4096) (State.scout { State.reset with agenda := [] } 4096) = .next u) ∧ (traits .halt).event = false) ∧
    (h.agenda = [] ∧ (seen h).pick (seen h).th.core = none) :=
  ⟨⟨_, rfl, by decide +kernel⟩, ⟨by decide +kernel, convoyIssue_next _ _, by decide +kernel⟩, by decide +kernel⟩

theorem witness_DecodeEncode : (Instr.vld 31 31 31 7 15 13).wf = true ∧ (Instr.vld 31 31 31 7 15 13).isWord = true := by decide +kernel

theorem witness_StepKeepsMemory : State.reset.MemWf ∧ (mapped []).MemWf := by
  unfold State.MemWf; decide +kernel

/-- Reset, and a state with a launch, a task and a held convoy. -/
theorem witness_StepKeepsPc :
    State.reset.PcAligned ∧ { (withLaunches [launched 1 (launchRecord 1 8 0) [placedGang]] [1] []) with tasks := [⟨0, 1, 0, 1, 0x40, 5⟩] }.PcAligned := by
  unfold State.PcAligned; decide +kernel

/-! ### Streams, translated elements, marks and faults -/

/-- One element of 32 bits whose vstart is 0, on a state. -/
def single (s : State) : State := s.onCsr (fun c => { c with vl := 1, vtype := 1 })

/-- Memory by class 0 and by class 15 with a sector that the read-only path holds; a device's register; a window load before and after its answer;
a page that no entry maps, and one on the move; the same for a store; a code of four bits in memory; and a lane-sliced word outside the
scratchpad. -/
theorem witness_VectorMemoryTranslated :
    let m := single (mapped [(2, 0x20008), (3, 0x100000000000)])
    let r := { m with ro := [⟨4096, 0x1000, 5⟩] }
    let d := single (mappedAs deviceLeaf [(2, 8)])
    let n := single (mappedAs netLeaf [(2, 8)])
    let a : NetAccess := ⟨0, false, 8, 4, false, 0x1122⟩
    let q := { n with netIn := [a] }
    let g := single (mappedAs 0x43F [(2, 8)])
    let va (s : State) (b : BitVec 5) : Word := vecAddr s .unit b 0 4 0
    (VmForm.unit ≠ .lane ∧ Ready m (indexGroup m .unit 0) [((8#5).toNat, m.lmul)] [] ∧ byteFmt (0#4).toNat = true ∧ fmtLegal (0#4).toNat m.sew = true ∧
      (∀ g ∈ indexGroup m .unit 0, (8#5).toNat + m.lmul ≤ g.1 ∨ g.1 + g.2 ≤ (8#5).toNat) ∧ OneElement m 0 ∧
      Ready m (((8#5).toNat, m.lmul) :: indexGroup m .unit 0) [] [] ∧ (va m 2).toNat % 4 = 0) ∧
    (∃ s1, m.resolve (va m 2) 4 0 0 = (.at_ (.cluster 128 0x20008) 0, s1) ∧ Settled s1 ∧ 0x20008 % 4 = 0 ∧ s1.damageAt (.cluster 128 0x20008) = none ∧
      s1.hasRoom 128 0x20008 = true) ∧
    (∃ s1, r.resolve (va r 2) 4 0 0 = (.at_ (.cluster 128 0x20008) 0, s1) ∧ Settled s1 ∧ s1.damageAt (.cluster 128 0x20008) = none ∧
      s1.roBad 0x20008 = false ∧ OneElement r 0) ∧
    (∃ s1, d.resolve (va d 2) 4 0 0 = (.at_ (.device (7 * 2 ^ 40 + 8)) 3, s1) ∧ Settled s1 ∧ OneElement d 0) ∧
    (∃ s1, n.resolve (va n 2) 4 0 0 = (.at_ (.window false 8) 3, s1) ∧ Settled s1 ∧ OneElement n 0 ∧
      s1.netIn.find? (fun x => x.uid == n.th.uid && x.port == false && x.off == 8 && x.size == 4) = none) ∧
    (∃ s1, q.resolve (va q 2) 4 0 0 = (.at_ (.window false 8) 3, s1) ∧ Settled s1 ∧
      s1.netIn.find? (fun x => x.uid == q.th.uid && x.port == false && x.off == 8 && x.size == 4) = some a) ∧
    (∃ s1 c i, m.resolve (va m 3) 4 0 0 = (.fault c i, s1) ∧ Settled s1) ∧
    (∃ s1, g.resolve (va g 2) 4 0 0 = (.stall, s1) ∧ Settled s1 ∧ OneElement g 0) ∧
    (∃ s1, m.resolve (va m 2) 4 1 0 = (.at_ (.cluster 128 0x20008) 0, s1) ∧ Settled s1 ∧ s1.th.fencesOn (some (0#4).toNat) = [] ∧
      s1.lineLost 0x20008 = false ∧ s1.th.det = false ∧ s1.hasRoom 128 0x20008 = true) ∧
    (∃ s1, d.resolve (va d 2) 4 1 0 = (.at_ (.device (7 * 2 ^ 40 + 8)) 3, s1) ∧ Settled s1 ∧ s1.th.fencesOn (some (0#4).toNat) = []) ∧
    (∃ s1, n.resolve (va n 2) 4 1 0 = (.at_ (.window false 8) 3, s1) ∧ Settled s1 ∧ s1.th.fencesOn (some (0#4).toNat) = []) ∧
    (∃ s1, (m.notePages 0 [m.reg 2]).resolve (m.reg 2) 1 0 0 = (.at_ (.cluster 128 0x20008) 0, s1) ∧ Settled s1 ∧ 5#4 ∈ [5#4, 6#4, 9#4, 10#4] ∧
      fmtLegal (5#4).toNat m.sew = true ∧ s1.damageAt (.cluster 128 0x20008) = none ∧ s1.roBad 0x20008 = false ∧
      stringByte (m.reg 2) 4 (m.reg 0).toNat 0 0 = m.reg 2 ∧ stringByte (m.reg 2 + m.reg 0) 4 0 0 0 = m.reg 2) ∧
    (isScratchAddr (m.reg 2) = false ∧ Ready m [((9#5).toNat, m.lmul)] [((8#5).toNat, m.lmul)] [] ∧
      Ready m [((8#5).toNat, m.lmul), ((9#5).toNat, m.lmul)] [] []) := by
  refine ⟨⟨by decide, ready_of (by decide +kernel), by decide, by decide +kernel, by decide +kernel, by unfold OneElement; decide +kernel,
      ready_of (by decide +kernel), by decide +kernel⟩,
    ⟨_, paired (by decide +kernel), by unfold Settled; decide +kernel, by decide +kernel⟩,
    ⟨_, paired (by decide +kernel), by unfold Settled; decide +kernel, by decide +kernel, by decide +kernel, by unfold OneElement; decide +kernel⟩,
    ⟨_, paired (by decide +kernel), by unfold Settled; decide +kernel, by unfold OneElement; decide +kernel⟩,
    ⟨_, paired (by decide +kernel), by unfold Settled; decide +kernel, by unfold OneElement; decide +kernel, by decide +kernel⟩,
    ⟨_, paired (by decide +kernel), by unfold Settled; decide +kernel, by decide +kernel⟩,
    ⟨_, 0x05, addrInfo 0x100000000000 0, paired (by decide +kernel), by unfold Settled; decide +kernel⟩,
    ⟨_, paired (by decide +kernel), by unfold Settled; decide +kernel, by unfold OneElement; decide +kernel⟩,
    ⟨_, paired (by decide +kernel), by unfold Settled; decide +kernel, by decide +kernel⟩,
    ⟨_, paired (by decide +kernel), by unfold Settled; decide +kernel, by decide +kernel⟩,
    ⟨_, paired (by decide +kernel), by unfold Settled; decide +kernel, by decide +kernel⟩,
    ⟨_, paired (by decide +kernel), by unfold Settled; decide +kernel, by decide +kernel⟩,
    by decide +kernel, ready_of (by decide +kernel), ready_of (by decide +kernel)⟩

/-- What holds below vl holds of every element that a word works on within a bound. -/
theorem acting {s : State} {k : BitVec 3} {n : Nat} {p : Nat → Prop} (h : ∀ e, e < s.vl → p e) : ∀ e, Acts s k e ∧ e < n → p e := fun e ha => h e ha.1.2.1

/-- An AFFINE stream of four BF16 elements in the window: a read stream of stride 2, one of stride 3, whose second element is misaligned, and a
write stream. -/
theorem witness_StreamChunks :
    let stream (stride : Nat) (w : Bool) : Binding :=
      ⟨5, BitVec.ofNat 512 (2 ^ 63 + 13 * 2 ^ 64 + (if w then 2 ^ 70 else 0) + 4 * 2 ^ 128 + stride * 2 ^ 160), 0, 0, false, 0, none, [], true⟩
    let on (b : Binding) : State := (vec 1 4 0 []).onTh (fun t => { t with binds := [b] })
    let r := on (stream 2 false)
    let o := on (stream 3 false)
    let w := on (stream 2 true)
    (OneStream r (stream 2 false) ∧ (stream 2 false).reg = (5#5).toNat ∧ descWrite (stream 2 false).desc = false ∧
      Ready (unboundOf r) [((5#5).toNat, r.lmul)] [((8#5).toNat, r.lmul), ((5#5).toNat, r.lmul)] [] ∧ ApartOrSame r (8#5).toNat (5#5).toNat ∧
      chunkSize r (stream 2 false) = 4 ∧ ∀ i, i < 4 → ChunkPlaced r (stream 2 false) (0 + i) ∧ Sound r (affineAddr (stream 2 false).desc (0 + i))) ∧
    (OneStream o (stream 3 false) ∧ Ready (unboundOf o) [((5#5).toNat, o.lmul)] [((8#5).toNat, o.lmul), ((5#5).toNat, o.lmul)] [] ∧
      1 < chunkSize o (stream 3 false) ∧ (∀ i, i < 1 → ChunkPlaced o (stream 3 false) (0 + i) ∧ Sound o (affineAddr (stream 3 false).desc (0 + i))) ∧
      (affineAddr (stream 3 false).desc (0 + 1)).toNat % chunkBytes o (stream 3 false) ≠ 0) ∧
    (OneStream w (stream 2 true) ∧ (stream 2 true).reg = (5#5).toNat ∧ descWrite (stream 2 true).desc = true ∧
      Ready (unboundOf w) [((8#5).toNat, w.lmul)] [((5#5).toNat, w.lmul)] [] ∧ ApartOrSame w (8#5).toNat (5#5).toNat ∧
      w.th.fencesOn (some (descClass (stream 2 true).desc)) = [] ∧
      ∀ e, Acts w 0 e ∧ e < w.vstart + chunkSize w (stream 2 true) → ChunkPlaced w (stream 2 true) (0 + (e - w.vstart))) := by
  refine ⟨⟨⟨by decide +kernel, by decide +kernel, by decide +kernel, by decide +kernel, by decide +kernel⟩, by decide +kernel, by decide +kernel,
      ready_of (by decide +kernel), by unfold ApartOrSame; decide +kernel, by decide +kernel, ?_⟩,
    ⟨⟨by decide +kernel, by decide +kernel, by decide +kernel, by decide +kernel, by decide +kernel⟩, ready_of (by decide +kernel), by decide +kernel, ?_,
      by decide +kernel⟩,
    ⟨by decide +kernel, by decide +kernel, by decide +kernel, by decide +kernel, by decide +kernel⟩, by decide +kernel, by decide +kernel,
    ready_of (by decide +kernel), by unfold ApartOrSame; decide +kernel, by decide +kernel, acting ?_⟩
  all_goals unfold ChunkPlaced; (try unfold Sound); unfold InWindow; decide +kernel

/-- Groups that do not meet, one group for both, and a convoy that faults. -/
theorem witness_LastReadMarks :
    let s := vec 1 4 0 []
    let u := { s with cv := { s.cv with fault := some ⟨0x03, 0, 0, 0⟩ } }
    (Ready s [((8#5).toNat, s.lmul)] [((9#5).toNat, s.lmul)] [] ∧ Ready s [((8#5).toNat, s.lmul)] [((8#5).toNat, s.lmul)] [] ∧ Retires s ∧ s.cv.marks = [] ∧
      s.th.carried = []) ∧
    (Ready s [((8#5).toNat, s.lmul), ((10#5).toNat, s.lmul)] [((9#5).toNat, s.lmul), ((8#5).toNat, s.lmul)] [] ∧ (9#5) ≠ (8#5)) ∧
    (u.cv.wait = none ∧ u.cv.fault = some ⟨0x03, 0, 0, 0⟩ ∧ u.cv.kept = []) := by
  refine ⟨⟨ready_of (by decide +kernel), ready_of (by decide +kernel), ⟨by unfold Settled; decide +kernel, by decide +kernel, by decide +kernel,
    by decide +kernel, by decide +kernel⟩, by decide +kernel, by decide +kernel⟩, ⟨ready_of (by decide +kernel), by decide⟩, by decide +kernel⟩

/-- Element 1 of a unit-stride word that leaves a window of 64 KiB, and of an indexed word whose index is odd; a fault at vstart; and a fault that
stands, with a lower and a higher one. -/
theorem witness_ConvoyFault :
    let s0 := (vec 1 4 0 [(2, pad + 0xFFFC), (3, pad)]).onTh (fun t => { t with winSize := 65536, vregs := vput t.vregs 9 (BitVec.ofNat 32768 (2 ^ 32)) })
    let s := { s0 with cv := { Convoy.empty with noting := true } }
    let u := { s with cv := { s.cv with fault := some ⟨0x03, 0, 0, 0⟩ } }
    (After s0 s ∧ Ready s (indexGroup s .unit 0) [((8#5).toNat, s.lmul)] [] ∧ byteFmt (0#4).toNat = true ∧ fmtLegal (0#4).toNat s.sew = true ∧
      (∀ g ∈ indexGroup s .unit 0, (8#5).toNat + s.lmul ≤ g.1 ∨ g.1 + g.2 ≤ (8#5).toNat) ∧ StopsFirst s .unit 2 0 0 4 1 0x06) ∧
    (Ready s (indexGroup s .indexed 9) [((8#5).toNat, s.lmul)] [] ∧
      (∀ g ∈ indexGroup s .indexed 9, (8#5).toNat + s.lmul ≤ g.1 ∨ g.1 + g.2 ≤ (8#5).toNat) ∧ StopsFirst s .indexed 3 9 0 4 1 0x03) ∧
    (Ready s (((8#5).toNat, s.lmul) :: indexGroup s .unit 0) [] [] ∧ s.th.fencesOn (some (0#4).toNat) = [] ∧
      Ready s (((8#5).toNat, s.lmul) :: indexGroup s .indexed 9) [] []) ∧
    (u.cv.wait = none ∧ u.cv.fault = some ⟨0x03, 0, 0, 0⟩ ∧ 0 = u.cv.vstart0 ∧ 0x03 ≠ 0x07 ∧
      (u.coreRec s0.th.core).diag = (s0.coreRec s0.th.core).diag) ∧
    ({ s with cv := { s.cv with fault := some ⟨0x03, 2, 0, 0⟩ } }.cv.fault = some ⟨0x03, 2, 0, 0⟩ ∧ 1 < 2 ∧ ¬ 2 < 2) := by
  refine ⟨⟨⟨rfl, by decide +kernel, by decide +kernel⟩, ready_of (by decide +kernel), by decide, by decide +kernel, by decide +kernel, by decide +kernel,
      ⟨by decide +kernel, by decide +kernel, by decide +kernel⟩, by decide, ?_, .inr ?_⟩,
    ⟨ready_of (by decide +kernel), by decide +kernel, by decide +kernel, ⟨by decide +kernel, by decide +kernel, by decide +kernel⟩, by decide, ?_,
      .inl (by decide +kernel)⟩,
    ⟨ready_of (by decide +kernel), by decide +kernel, ready_of (by decide +kernel)⟩, by decide +kernel, by decide +kernel⟩
  · intro i _ hi
    obtain rfl : i = 0 := by omega
    unfold Placed Sound InWindow; decide +kernel
  · unfold InWindow; decide +kernel
  · intro i _ hi
    obtain rfl : i = 0 := by omega
    unfold Placed Sound InWindow; decide +kernel

/-! ## Single instructions against values worked out by hand -/

/-- What p reads in the state that i leads to. -/
def after {α : Type} (i : Instr) (s : State) (p : State → α) : Option α :=
  match exec i s with
  | .next t => some (p t)
  | _ => none

/-- Lane e of vector register r at 32 bits. -/
def lane32 (r e : Nat) (s : State) : BitVec 32 := (vget s.th.vregs r 0).extractLsb' (32 * e) 32

/-- Reset with two 32-bit lanes in each register listed. -/
def lanes (vs : List (Nat × Nat × Nat)) (l : List (Nat × Word)) : State :=
  (vec 1 2 0 l).onTh (fun t => vs.foldl (fun t p => { t with vregs := vput t.vregs p.1 (BitVec.ofNat 32768 (p.2.1 + p.2.2 * 2 ^ 32)) }) t)

/-- R66: sums wrap, signed and unsigned order differ, MULH keeps the high half of the signed product. -/
theorem test_integer :
    after (.add 1 2 3) (loaded [(2, 0xFFFFFFFFFFFFFFFF), (3, 2)]) (·.reg 1) = some 1 ∧
    after (.slt 1 2 3) (loaded [(2, 0xFFFFFFFFFFFFFFFF), (3, 2)]) (·.reg 1) = some 1 ∧
    after (.sltu 1 2 3) (loaded [(2, 0xFFFFFFFFFFFFFFFF), (3, 2)]) (·.reg 1) = some 0 ∧
    after (.mulh 1 2 3) (loaded [(2, 0xFFFFFFFFFFFFFFFF), (3, 2)]) (·.reg 1) = some 0xFFFFFFFFFFFFFFFF ∧
    after (.mulhu 1 2 3) (loaded [(2, 0xFFFFFFFFFFFFFFFF), (3, 2)]) (·.reg 1) = some 1 ∧
    after (.sra 1 2 3) (loaded [(2, 0x8000000000000000), (3, 65)]) (·.reg 1) = some 0xC000000000000000 ∧
    after (.add 0 2 3) (loaded [(2, 5), (3, 2)]) (·.reg 0) = some 0 := by decide +kernel

/-- R67: division by zero gives all ones and the dividend; the overflowing quotient is the dividend and its remainder 0. -/
theorem test_division :
    after (.div 1 2 3) (loaded [(2, 7), (3, 0)]) (·.reg 1) = some 0xFFFFFFFFFFFFFFFF ∧
    after (.rem 1 2 3) (loaded [(2, 7), (3, 0)]) (·.reg 1) = some 7 ∧
    after (.div 1 2 3) (loaded [(2, 0x8000000000000000), (3, 0xFFFFFFFFFFFFFFFF)]) (·.reg 1) = some 0x8000000000000000 ∧
    after (.rem 1 2 3) (loaded [(2, 0x8000000000000000), (3, 0xFFFFFFFFFFFFFFFF)]) (·.reg 1) = some 0 ∧
    after (.rem 1 2 3) (loaded [(2, 0xFFFFFFFFFFFFFFF9), (3, 2)]) (·.reg 1) = some 0xFFFFFFFFFFFFFFFF := by decide +kernel

/-- R68, R70, R71: every immediate is sign-extended, the logical ones too; the constant 0x1234ABCD of the text under R71. -/
theorem test_immediates :
    after (.addi 1 2 0xFFFF) (loaded [(2, 0)]) (·.reg 1) = some 0xFFFFFFFFFFFFFFFF ∧
    after (.andi 1 2 0x8000) (loaded [(2, 0xFFFFFFFFFFFFFFFF)]) (·.reg 1) = some 0xFFFFFFFFFFFF8000 ∧
    after (.lui 1 0x100000) (loaded []) (·.reg 1) = some 0xFFFFFFF000000000 ∧
    ((after (.lui 5 0x1235) (loaded []) id).bind (fun t => after (.addi 5 5 0xABCD) t (·.reg 5))) = some 0x1234ABCD := by decide +kernel

/-- R72: a byte is extended by its sign or by zeros; bytes lie little-endian. -/
theorem test_scalar_loads :
    let s := State.filled (loaded [(2, pad), (3, 0x1122334455667788)]) 0 0x80F1 2
    after (.ldb 1 2 0 1) s (·.reg 1) = some 0xFFFFFFFFFFFFFF80 ∧ after (.ldbu 1 2 0 1) s (·.reg 1) = some 0x80 ∧
    after (.ldh 1 2 0 0) s (·.reg 1) = some 0xFFFFFFFFFFFF80F1 ∧
    ((after (.std 3 2 0 8) s id).bind (fun t => after (.ldbu 1 2 0 8) t (·.reg 1))) = some 0x88 := by decide +kernel

/-- R79: 1.0 + 2.0 in FP32; infinity less infinity is the quiet NaN; negative zero equals zero. -/
theorem test_float :
    after (.fadd 1 2 3) (loaded [(2, 0x3F800000), (3, 0x40000000)]) (·.reg 1) = some 0x40400000 ∧
    after (.fsub 1 2 3) (loaded [(2, 0x7F800000), (3, 0x7F800000)]) (·.reg 1) = some 0x7FC00000 ∧
    after (.feq 1 2 3) (loaded [(2, 0x80000000), (3, 0)]) (·.reg 1) = some 1 ∧
    after (.fsqrt 1 2) (loaded [(2, 0x40800000)]) (·.reg 1) = some 0x40000000 ∧
    after (.fdiv 1 2 3) (loaded [(2, 0x3F800000), (3, 0x40400000)]) (·.reg 1) = some 0x3EAAAAAB := by decide +kernel

/-- R75, R76: offsets count convoys from the convoy of the branch. -/
theorem test_branches :
    after (.bne 1 0 2) (convoyAt 0x1000 [(1, 1)]) (fun t => t.cv.next) = some (some 0x1020) ∧
    after (.beq 1 0 2) (convoyAt 0x1000 [(1, 1)]) (fun t => t.cv.next) = some none ∧
    after (.blt 1 0 0xFFFF) (convoyAt 0x1000 [(1, 0xFFFFFFFFFFFFFFFF)]) (fun t => t.cv.next) = some (some 0xFF0) ∧
    after (.jal 1) (convoyAt 0x1000 []) (fun t => (t.cv.next, t.reg 31)) = some (some 0x1010, 0x1010) := by decide +kernel

/-- R150: integer lanes wrap, a scalar source stands for every lane, VMULH keeps the high half of the signed product. -/
theorem test_vector_lanes :
    let s := lanes [(8, 0xFFFFFFFF, 1), (16, 1, 2), (24, 7, 9)] []
    (after (.vadd 24 8 16 0 0 0) s (fun t => (lane32 24 0 t, lane32 24 1 t))) = some (0, 3) ∧
    (after (.vadd 24 8 16 0 0 1) { s with th := s.th.setReg 16 5 } (fun t => (lane32 24 0 t, lane32 24 1 t))) = some (4, 6) ∧
    (after (.vsub 24 8 16 0 0 0) s (fun t => (lane32 24 0 t, lane32 24 1 t))) = some (0xFFFFFFFE, 0xFFFFFFFF) ∧
    (after (.vmulh 24 8 16 0 0 0) s (fun t => (lane32 24 0 t, lane32 24 1 t))) = some (0xFFFFFFFF, 0) := by decide +kernel

/-- R152, R153: floating-point lanes and a fused product and sum. -/
theorem test_vector_float :
    let s := lanes [(8, 0x3F800000, 0x40000000), (16, 0x40400000, 0x3F800000), (24, 0x3F800000, 0x3F800000)] [(3, 0)]
    (after (.vfadd 24 8 16 0 0 0 0) s (fun t => (lane32 24 0 t, lane32 24 1 t))) = some (0x40800000, 0x40400000) ∧
    (after (.vfma 24 8 16 0 0 0 0) s (fun t => (lane32 24 0 t, lane32 24 1 t))) = some (0x40800000, 0x40400000) ∧
    (after (.vfmax 24 8 16 0 0 0 0) s (fun t => (lane32 24 0 t, lane32 24 1 t))) = some (0x40400000, 0x40000000) := by decide +kernel

/-- R160, R161, R172. -/
theorem test_vector_moves :
    let s := lanes [(8, 5, 6)] [(3, 1)]
    after (.vid 24 0) s (fun t => (lane32 24 0 t, lane32 24 1 t)) = some (0, 1) ∧
    after (.vrev 24 8 0 0) s (fun t => (lane32 24 0 t, lane32 24 1 t)) = some (6, 5) ∧
    after (.vslidedn 24 8 3 0 0) s (fun t => (lane32 24 0 t, lane32 24 1 t)) = some (6, 0) ∧
    after (.vextr 1 8 3) s (·.reg 1) = some 6 := by decide +kernel

/-- R81, R82: what a control register keeps of a write, and the forms that set and clear bits. -/
theorem test_control_registers :
    after (.csrw 2 0x010) (loaded [(2, 0x12F)]) (·.th.csr.uth) = some 0x120 ∧ after (.csrw 2 0x004) (loaded [(2, 6)]) (·.th.csr.frm) = some 0 ∧
    after (.csrs 2 0x060) (loaded [(2, 2)]) (·.th.csr.preempted) = some 2 ∧
    ((after (.csrs 2 0x060) (loaded [(2, 3)]) id).bind (fun t => after (.csrc 3 0x060) (t.setReg 3 1) (·.th.csr.preempted))) = some 2 ∧
    after (.csrr 1 0x003) (vec 1 0 0 []) (·.reg 1) = some (BitVec.ofNat 64 (vec 1 0 0 []).vlmax) := by decide +kernel

set_option maxRecDepth 100000 in
/-- R86: `trapu 42` on a thread with a user handler: the handler's address, the cause, the code, the convoy after. -/
theorem test_trapu :
    let s := (State.reset.onTh (fun t => { t with csr := { t.csr with uth := 0x4000 } })).withFetchWord 32 0x800002A5
    (match step s with
      | .next t => some (t.th.pc, t.th.csr.ucause, t.th.csr.uinfo, t.th.csr.uepc = s.th.pc + 16, t.th.csr.cvret = s.th.csr.cvret + 1)
      | _ => none) = some (0x4000, 0x10, 42, true, true) := by decide +kernel

/-- R295: an atomic sum answers the old value. -/
theorem test_atomics :
    let s := State.filled (loaded [(2, pad), (3, 5), (1, 7)]) 0 7 8
    after (.amoadd 1 2 3 0 0 1) s (fun t => t.reg 1) = some 7 ∧
    ((after (.amoadd 1 2 3 0 0 1) s id).bind (fun t => after (.ldd 4 2 0 0) t (·.reg 4))) = some 12 := by decide +kernel

/-- R415, R417: the first element that consumes a damaged word of v8 faults, elements below it stand; a word that writes the damaged word
whole makes it good, and one that writes half of it does not. -/
theorem test_damaged_register :
    let s := { lanes [(8, 5, 6), (16, 1, 2)] [] with damage := [.reg 0 0 8 1] }.onCsr (fun c => { c with vl := 4 })
    let run (i : Instr) {α : Type} (p : State → α) : Option α := match s.runWord 100 0 (encode i) with
      | .next t => some (p t)
      | _ => none
    run (.vadd 24 8 16 0 0 0) (fun t => (t.cv.fault.map (fun f => (f.cause, f.elem)), lane32 24 0 t, lane32 24 1 t)) = some (some (7, 2), 6, 8) ∧
    run (.vid 8 0) (fun t => t.damage.length) = some 0 ∧ run (.vins 8 0 0) (fun t => t.damage.length) = some 1 ∧
    run (.vadd 24 16 16 0 0 0) (fun t => t.cv.fault) = some none := by decide +kernel

end Sys2Proof.Tests
end

/-! The scalar words at the scratchpad (R15, R72, R417): the bytes of a loaded value and of a full store, one rule for scalar loads and one
for scalar stores whatever their place, and what both do in the thread's window. -/

namespace Sys2Proof.Machine

open Sys2Proof

/-! ## Bytes of numbers and words (R4) -/

/-- Byte `i` of a word that holds a number is the number's byte `i`. -/
theorem extractLsb'_byte_ofNat (x i : Nat) (h : i < 8) :
    (BitVec.ofNat 64 x).extractLsb' (8 * i) 8 = BitVec.ofNat 8 (x / 256 ^ i) := by
  apply BitVec.eq_of_getLsbD_eq
  intro j hj
  rw [BitVec.getLsbD_extractLsb', BitVec.getLsbD_ofNat, BitVec.getLsbD_ofNat, show (256 : Nat) ^ i = 2 ^ (8 * i) by rw [Nat.pow_mul],
    Nat.testBit_div_two_pow, Nat.add_comm j, decide_eq_true (show 8 * i + j < 64 by omega), Bool.true_and]

/-- Byte `i` of a word is byte `i` of its number. -/
theorem ofNat_byte_toNat (v : Word) (i : Nat) : BitVec.ofNat 8 (v.toNat / 256 ^ i) = v.extractLsb' (8 * i) 8 := by
  have e : (256 : Nat) ^ i = 2 ^ (8 * i) := by rw [Nat.pow_mul]
  apply BitVec.eq_of_toNat_eq
  simp [e, BitVec.extractLsb'_toNat, Nat.shiftRight_eq_div_pow]

/-- Sign extension keeps the low bits and repeats the highest of them. -/
theorem getLsbD_sextBits (n : Nat) (x : Word) (i : Nat) (h0 : 0 < n) (hn : n ≤ 64) (hi : i < 64) :
    (sextBits n x).getLsbD i = x.getLsbD (min i (n - 1)) := by
  unfold sextBits
  rw [if_neg (by omega), BitVec.getLsbD_sshiftRight, decide_eq_false (by omega), Bool.not_false, Bool.true_and]
  by_cases hlow : i < n
  · rw [if_pos (by omega), BitVec.getLsbD_shiftLeft, Nat.add_sub_cancel_left, Nat.min_eq_left (by omega)]
    simp [show 64 - n + i < 64 by omega]
  · rw [if_neg (by omega), BitVec.msb_eq_getLsbD_last, BitVec.getLsbD_shiftLeft, Nat.min_eq_right (by omega)]
    simp [show 64 - n ≤ 63 by omega, show 63 - (64 - n) = n - 1 by omega]

/-- Sign extension keeps the bytes below the sign bit's and the sign bit's own. -/
theorem extractLsb'_sextBits (n i : Nat) (x : Word) (hi : i < n) (hn : n ≤ 8) :
    (sextBits (8 * n) x).extractLsb' (8 * i) 8 = x.extractLsb' (8 * i) 8 := by
  apply BitVec.eq_of_getLsbD_eq
  intro j hj
  rw [BitVec.getLsbD_extractLsb', BitVec.getLsbD_extractLsb', getLsbD_sextBits _ _ _ (by omega) (by omega) (by omega),
    Nat.min_eq_left (by omega)]

/-! ## Masked stores of whole bytes -/

theorem mergedByte_allOnes (old : Byte) (v mask : Nat) (h : BitVec.ofNat 8 mask = BitVec.allOnes 8) :
    mergedByte old v mask = BitVec.ofNat 8 v := by
  rw [mergedByte, h, BitVec.not_allOnes, BitVec.and_zero, BitVec.zero_or, BitVec.and_allOnes]

/-- Each of the `n` bytes of a full mask is all ones. -/
theorem fullMask_byte (n i : Nat) (hi : i < n) (hn : n ≤ 8) : BitVec.ofNat 8 ((fullMask n).toNat / 256 ^ i) = BitVec.allOnes 8 := by
  rw [ofNat_byte_toNat, fullMask]
  apply BitVec.eq_of_getLsbD_eq
  intro j hj
  have h64 : 8 * i + j < 64 := by omega
  have hlt : 8 * i + j < 8 * n := by omega
  rw [BitVec.getLsbD_extractLsb', BitVec.getLsbD_ofNat, Nat.testBit_two_pow_sub_one, BitVec.getLsbD_allOnes]
  simp [h64, hlt]

/-- A full store of `n` bytes leaves the low bytes of the value, lowest first. -/
theorem cellsRead_merge_fullMask (m : List Host.Cell) (a n i : Nat) (v : Word) (hi : i < n) (hn : n ≤ 8) :
    cellsRead (cellsMerge m a v.toNat (fullMask n).toNat n) (a + i) = v.extractLsb' (8 * i) 8 := by
  rw [cellsRead_merge, if_pos (by omega), Nat.add_sub_cancel_left, mergedByte_allOnes _ _ _ (fullMask_byte n i hi hn), ofNat_byte_toNat]

/-! ## Scalar loads and stores at any place (R72) -/

/-- What a scalar load puts into its register when memory gives a number of `n` bytes. -/
def loadedValue (n : Nat) (signed : Bool) (x : Nat) : Word :=
  if signed then sextBits (8 * n) (BitVec.ofNat 64 x) else BitVec.ofNat 64 x

/-- An aligned scalar load that its access answers writes the extended value, and does what the access does. -/
theorem State.loadReg_of_load (s s1 : State) (d a : BitVec 5) (c : BitVec 4) (o : BitVec 12) (n x : Nat) (signed : Bool)
    (hal : (s.scalarAddr a o).toNat % n = 0) (h : s.load (s.scalarAddr a o) n c.toNat s.cv.vstart0 true = (some x, s1)) :
    s.loadReg d a c o n signed = s1.setReg d (loadedValue n signed x) := by
  simp [State.loadReg, State.scalarLoad, hal, h, loadedValue]

/-- An aligned scalar store is a store of its low bytes, whole. -/
theorem State.scalarStore_aligned (s : State) (va : Word) (n cls : Nat) (v : Word) (hal : va.toNat % n = 0) :
    s.scalarStore va n cls v = s.store va n v (fullMask n) cls s.cv.vstart0 true := by
  simp [State.scalarStore, hal]

/-! ## Stores to the window that earlier fences have made releases (R259, R417) -/

/-- A store to the current thread's window, the releases of earlier fences done: it writes its bytes and notes the effect. -/
theorem State.store_scratch_released (s : State) (va : Word) (n : Nat) (val mask : BitVec 64) (cls elem : Nat) (scalar : Bool)
    (h : va.toNat / 2 ^ 17 = 2 ^ 46) (hl : s.th.winBase ≤ va.toNat % 2 ^ 17) (hh : va.toNat % 2 ^ 17 + n ≤ s.th.winBase + s.winBytes)
    (hs : (s.releaseFences (some cls) va 1 elem).stopsAt elem = false) :
    s.store va n val mask cls elem scalar =
      ((s.releaseFences (some cls) va 1 elem).writeAt (.scratch s.th.core (va.toNat % 2 ^ 17)) val.toNat mask.toNat n).keep elem
        (.store (.scratch s.th.core (va.toNat % 2 ^ 17)) val mask n none) := by
  unfold State.store State.resolve
  rw [isScratchAddr_of va h]
  simp only [if_true, scratchPlace_in _ _ _ va n 1 h hl hh, hs, Bool.false_eq_true, if_false]
  rfl

/-- A store to a scratchpad adds no damage. -/
theorem State.mem_damage_of_writeAt_scratch (s : State) (core off v mask n : Nat) (x : Damage)
    (h : x ∈ (s.writeAt (.scratch core off) v mask n).damage) : x ∈ s.damage := by
  rw [State.writeAt_scratch] at h
  unfold State.mendScratch at h
  split at h
  · exact h
  · exact (List.mem_filter.mp h).1

/-- The bytes after a store to a scratchpad. -/
theorem State.writeAt_scratch_bytes (s : State) (core off v mask n : Nat) :
    (s.writeAt (.scratch core off) v mask n).scratch = cellsMerge s.scratch (core * 131072 + off) v mask n := by
  rw [State.writeAt_scratch, State.mendScratch_frame]

/-- A store to a scratchpad changes its bytes and the damage alone. -/
theorem State.writeAt_scratch_frame (s : State) (core off v mask n : Nat) :
    s.writeAt (.scratch core off) v mask n =
      { s with scratch := (s.writeAt (.scratch core off) v mask n).scratch, damage := (s.writeAt (.scratch core off) v mask n).damage } := by
  rw [State.writeAt_scratch, State.mendScratch_frame]

end Sys2Proof.Machine

namespace Sys2Proof.Claims

open Sys2Proof Sys2Proof.Machine

/-! ## The scalar loads and stores of R72 -/

/-- Every scalar load is the one shared load with its size and its extension. -/
theorem exec_loadWord (w : (BitVec 5 → BitVec 5 → BitVec 4 → BitVec 12 → Instr) × Nat × Bool) (hw : w ∈ loadWords) (s : State)
    (d a : BitVec 5) (c : BitVec 4) (o : BitVec 12) : exec (w.1 d a c o) s = .next (s.loadReg d a c o w.2.1 w.2.2) := by
  simp only [loadWords, List.mem_cons, List.not_mem_nil, or_false] at hw
  rcases hw with rfl | rfl | rfl | rfl | rfl | rfl | rfl <;> rfl

/-- Every scalar store is the one shared store with its size. -/
theorem exec_storeWord (w : (BitVec 5 → BitVec 5 → BitVec 4 → BitVec 12 → Instr) × Nat) (hw : w ∈ storeWords4) (s : State)
    (d a : BitVec 5) (c : BitVec 4) (o : BitVec 12) : exec (w.1 d a c o) s = .next (s.scalarStore (ea s a o) w.2 c.toNat (s.reg d)) := by
  simp only [storeWords4, List.mem_cons, List.not_mem_nil, or_false] at hw
  rcases hw with rfl | rfl | rfl | rfl <;> rfl

theorem loadWord_size : ∀ w ∈ loadWords, 0 < w.2.1 ∧ w.2.1 ≤ 8 := by simp [loadWords]

theorem storeWord_size : ∀ w ∈ storeWords4, w.2 ≤ 8 := by simp [storeWords4]

/-- The value of a scalar load has the bytes that memory gave, and above them zeros or copies of their sign. -/
theorem extended_loadedValue (n x : Nat) (signed : Bool) (bytes : Nat → Byte) (h0 : 0 < n) (hn : n ≤ 8) (hx : x < 256 ^ n)
    (hb : ∀ i, i < n → BitVec.ofNat 8 (x / 256 ^ i) = bytes i) : extended n signed bytes (loadedValue n signed x) := by
  have hpow : (256 : Nat) ^ n = 2 ^ (8 * n) := by rw [Nat.pow_mul]
  cases signed with
  | false =>
    refine ⟨fun i hi => ?_, fun i hi h64 => ?_⟩
    · rw [← hb i hi]
      exact extractLsb'_byte_ofNat x i (by omega)
    · have hbit : x.testBit i = false :=
        Nat.testBit_lt_two_pow (Nat.lt_of_lt_of_le (hpow ▸ hx) (Nat.pow_le_pow_right (by decide) hi))
      simp [loadedValue, BitVec.getLsbD_ofNat, hbit]
  | true =>
    refine ⟨fun i hi => ?_, fun i hi h64 => ?_⟩
    · rw [← hb i hi, ← extractLsb'_byte_ofNat x i (by omega)]
      exact extractLsb'_sextBits n i _ hi hn
    · have hsign : (BitVec.ofNat 64 x).getLsbD (8 * n - 1) = (bytes (n - 1)).getLsbD 7 := by
        rw [← hb (n - 1) (by omega), ← extractLsb'_byte_ofNat x (n - 1) (by omega), BitVec.getLsbD_extractLsb',
          show 8 * (n - 1) + 7 = 8 * n - 1 by omega]
        rfl
      rw [loadedValue, if_pos rfl, getLsbD_sextBits _ _ _ (by omega) (by omega) h64, Nat.min_eq_right (by omega), hsign, Bool.true_and]

/-- A write of a scalar register on its own. -/
theorem wrote_setReg (s : State) (d : BitVec 5) (v : Word) : Wrote s (s.setReg d v) d v := by
  refine ⟨?_, fun r hr => ?_⟩
  · by_cases h : d = 0#5 <;> simp [State.reg_setReg, h]
  · rw [State.reg_setReg, if_neg hr]
    split
    · next h => rw [h]; rfl
    · rfl

/-- Bytes of the window follow one another in the scratchpad. -/
theorem scratchByte_add (s : State) (va : Word) (n i : Nat) (h : InWindow s va n) (hi : i < n) :
    scratchByte s (va + BitVec.ofNat 64 i) = cellsRead s.scratch (s.th.core * 131072 + va.toNat % 2 ^ 17 + i) := by
  obtain ⟨hrange, -, -, hpad⟩ := h
  have hsum : (va + BitVec.ofNat 64 i).toNat % 2 ^ 17 = va.toNat % 2 ^ 17 + i := by
    rw [BitVec.toNat_add, BitVec.toNat_ofNat]; omega
  rw [scratchByte, hsum, Nat.add_assoc]

/-! ## The obligation -/

/-- A scalar load of sound bytes of the window completes with their extended value. -/
theorem loadReg_window (s : State) (d a : BitVec 5) (c : BitVec 4) (o : BitVec 12) (n : Nat) (signed : Bool) (h0 : 0 < n) (hn : n ≤ 8)
    (hal : (ea s a o).toNat % n = 0) (hwin : InWindow s (ea s a o) n)
    (hsound : s.damage.contains (.scratch s.th.core ((ea s a o).toNat % 2 ^ 17 / 8)) = false) :
    ∃ v, s.loadReg d a c o n signed = s.setReg d v ∧
      extended n signed (fun i => scratchByte s (ea s a o + BitVec.ofNat 64 i)) v := by
  obtain ⟨hrange, hlo, hhi, -⟩ := id hwin
  have hload := s.load_scratch (ea s a o) n c.toNat s.cv.vstart0 true hrange hlo hhi hsound
  refine ⟨_, s.loadReg_of_load s d a c o n _ signed hal hload, ?_⟩
  refine extended_loadedValue n _ signed _ h0 hn (cellsReadNat_lt _ _ _) fun i hi => ?_
  rw [scratchByte_add s _ n i hwin hi]
  apply BitVec.eq_of_toNat_eq
  rw [BitVec.toNat_ofNat, cellsReadNat_byte _ _ _ _ hi]

/-- A scalar store to the window that goes on after the releases of earlier fences leaves its bytes and changes no others. -/
theorem scalarStore_window (s u : State) (va v : Word) (n cls : Nat) (hn : n ≤ 8) (hu : u = s.releaseFences (some cls) va 1 s.cv.vstart0)
    (hal : va.toNat % n = 0) (hwin : InWindow s va n) (hgo : u.stopsAt s.cv.vstart0 = false) :
    let at_ := s.th.core * 131072 + va.toNat % 2 ^ 17
    let t := s.scalarStore va n cls v
    (∀ i, i < n → cellsRead t.scratch (at_ + i) = v.extractLsb' (8 * i) 8) ∧
    (∀ x, x < at_ ∨ at_ + n ≤ x → cellsRead t.scratch x = cellsRead u.scratch x) ∧
    t = { u with scratch := t.scratch, damage := t.damage, cv := { u.cv with kept := t.cv.kept } } ∧
    ∀ x ∈ t.damage, x ∈ u.damage := by
  subst hu
  intro at_ t
  obtain ⟨hrange, hlo, hhi, -⟩ := hwin
  have ht : t = _ := (s.scalarStore_aligned va n cls v hal).trans (s.store_scratch_released va n v (fullMask n) cls _ true hrange hlo hhi hgo)
  have hbytes : t.scratch = cellsMerge (s.releaseFences (some cls) va 1 s.cv.vstart0).scratch at_ v.toNat (fullMask n).toNat n := by
    rw [ht, State.keep_scratch, State.writeAt_scratch_bytes]
  refine ⟨fun i hi => ?_, fun x hx => ?_, ?_, fun x hx => ?_⟩
  · rw [hbytes, cellsRead_merge_fullMask _ _ _ _ _ hi hn]
  · rw [hbytes, cellsRead_merge_other _ _ _ _ _ _ hx]
  · rw [ht, State.keep_frame, State.writeAt_scratch_frame]
  · rw [ht, State.keep_damage] at hx
    exact State.mem_damage_of_writeAt_scratch _ _ _ _ _ _ _ hx

/-- Settles O5: a load and a store of the window each go by one shared rule, whatever their size. -/
theorem scalarScratchpadAccess : Obligations.ScalarScratchpadAccess := by
  unfold Obligations.ScalarScratchpadAccess
  refine ⟨fun w hw s d a c o hal hwin hsound => ?_, fun w hw s d a c o hal hwin hgo => ?_⟩
  · obtain ⟨h0, hn⟩ := loadWord_size w hw
    obtain ⟨v, hv, hext⟩ := loadReg_window s d a c o w.2.1 w.2.2 h0 hn hal hwin hsound
    have hexec : exec (w.1 d a c o) s = .next (s.setReg d v) := by rw [exec_loadWord w hw, hv]
    exact ⟨v, ⟨_, hexec, wrote_setReg s d v, State.setReg_frame s d v, fun _ => ⟨rfl, rfl⟩⟩, hext⟩
  · exact ⟨_, exec_storeWord w hw s d a c o, scalarStore_window s _ _ _ w.2 c.toNat (storeWord_size w hw) rfl hal hwin hgo⟩

end Sys2Proof.Claims
